-- ==== Sys2Proof/Word.lean ====
section
/-!
DEFINITION. The widths the Pollum works in: 64-bit registers and addresses (R309), 32-bit instruction words (R311),
bytes, and the keyed lists in which the state holds whatever differs from its value at reset.
-/

namespace Sys2Proof

/-- A 64-bit register, address or memory word. -/
abbrev Word := BitVec 64

/-- A 32-bit instruction word (R311). -/
abbrev IWord := BitVec 32

/-- One byte of memory. -/
abbrev Byte := BitVec 8

/-- A finite map from keys to values as data: a list of pairs. A key that is not listed has the map's default value,
which the reader names. The canonical form (keys rising, no default listed) is stated in Machine/Ops.lean. -/
abbrev FMap (α : Type) := List (Nat × α)

end Sys2Proof
end

