-- ==== Sys2Proof/Config.lean ====
section
/-!
DEFINITION. What the manual leaves to the device: free values without a body. Nothing in Lean can evaluate one, so a
statement about a free value holds for every value of it (log 3).
-/

namespace Sys2Proof.Config

/-- The pattern a rule calls undefined (R7). The argument is the draw's number, State.free at the draw. -/
opaque freeWord : Nat → Word

/-- A word that lies in another package, by the draw's number and the word's address (log 10). -/
opaque foreignWord (draw addr : Nat) : Word

/-- Its poison tag. -/
opaque foreignTag (draw addr : Nat) : Bool

/-- The core number that the management core's identity CSRs read: R12 numbers the compute cores only (log 7). -/
opaque mgmtCoreNumber : BitVec 12

/-- What a fetch from another package brings at a cycle, by the cycle and the address: the two words' bits with their poison
tag, or none where that package answers with an error (R169, R175, log 10). -/
opaque foreignFetch (cycle addr : Nat) : Option (Word × Bool)

/-- The answer of another package to an access that an engine, a copy or a walker makes there: no fault, refused for want of
ownership (true) or unbacked (false) (R171, R175, log 10). -/
opaque foreignFault (draw addr : Nat) : Option Bool

/-- The host completes a read request with an error status, by the cycle and the host address (R294, log 61). -/
opaque hostAborts (cycle addr : Nat) : Bool

/-- The way that a line newly held by a cluster's cache takes, by the cycle and the line's number: R179 leaves it open (log
62). -/
opaque fillWay (cycle line : Nat) : Nat

/-- Packets beyond the least that a router's input buffer for a virtual channel holds: R61 gives no size (log 64). -/
opaque bufferPackets (router vc : Nat) : Nat

/-- A walk finds a next-table entry still in its router's walk cache, by the cycle and the address: R185 gives no size (log
63). -/
opaque walkHit (cycle addr : Nat) : Bool

/-- The word of the management core's ROM at an address, none beyond the ROM: no rule gives its image (R299, log 14). -/
opaque romWord (addr : Nat) : Option IWord

/-- A measurement after another digest has been extended into it: no rule gives the function (R303, log 73). -/
opaque extendDigest (measurement digest : BitVec 256) : BitVec 256

/-- The digest of words of the package itself: of the floor map (R304, log 73). -/
opaque digestWords (l : List Word) : BitVec 256

/-- The digest of the ROM (R304, log 73). -/
opaque romDigest : BitVec 256

end Sys2Proof.Config
end

