-- ==== Sys2Proof/Syntax.lean ====
section
/-!
DEFINITION. The instructions of the Pollum: one constructor per row of spec/opcode_table.json. The first 203 are the
32-bit words of chapter 13 (R309 to R328). The other 99 are steps of the hardware that no word names (spec/95): an
arrival, a grant, a retirement, a write by another agent. Their operands name the item the step acts on.
-/

namespace Sys2Proof

/-! ### Operand fields -/

/-- A general register number (R309). -/
abbrev Reg := BitVec 5
/-- A vector register number (R309). -/
abbrev VReg := BitVec 4
/-- A mask register number (R309). -/
abbrev MReg := BitVec 3
/-- An accumulator tile number (R309). -/
abbrev Acc := BitVec 2
/-- A barrier tag (R105). -/
abbrev Tag := BitVec 3

/-- Scopes (R195, Table 8-1). -/
inductive Scope where
  | core | cluster | group | package | domain
  deriving DecidableEq, Repr

/-- Orders of the M format (R195). -/
inductive MemOrder where
  | plain | acq | rel | acqRel
  deriving DecidableEq, Repr

/-- Scalar floating-point formats (R316). -/
inductive FFmt where
  | f32 | f64 | bf16 | f16
  deriving DecidableEq, Repr

/-- The rounding field of an instruction (R222, Table 9-4). -/
inductive Rm where
  | rne | rna | rtz | rtp | rtn | dyn
  deriving DecidableEq, Repr

/-- Integer types of FCVT (R316). -/
inductive IType where
  | i64 | n64 | i32 | n32
  deriving DecidableEq, Repr

/-- Modes of FSGN (R316). -/
inductive SgnMode where
  | cpy | neg | xor
  deriving DecidableEq, Repr

/-- Sizes of LD and LDX (R319). -/
inductive LdSize where
  | b | h | w | d | bz | hz | wz
  deriving DecidableEq, Repr

/-- Sizes of ST and STX (R319). -/
inductive StSize where
  | b | h | w | d
  deriving DecidableEq, Repr

/-- Sizes of the MEMO forms (Table 8-2): 32 or 64 bits. -/
inductive MSize where
  | w | d
  deriving DecidableEq, Repr

/-- Element sizes of the vector loads and stores (R324). -/
inductive ESize where
  | b | h | w
  deriving DecidableEq, Repr

/-- Lane types of the V format (R322). -/
inductive VType where
  | fp32 | bf16 | fp16 | int32 | n32 | int16 | int8 | n8
  deriving DecidableEq, Repr

/-- Format codes of VCVT and VQUANT (R325). -/
inductive CvtFmt where
  | fp32 | bf16 | fp16 | int32 | n32 | int16 | int8 | n8 | e4m3 | e5m2 | e3m2 | e2m3 | e2m1
  deriving DecidableEq, Repr

/-- Activation codes of VACT (R238). -/
inductive ActCode where
  | relu | gelu | silu | exp2 | rcp | rsq | logi | tanh
  deriving DecidableEq, Repr

/-! ### Operands of the hardware's own steps -/

/-- Who writes a device register (R302). -/
inductive Writer where
  | host | supervisor | rootFirmware | serviceFirmware
  deriving DecidableEq, Repr

/-- The outcome of a SECDED check (R59, R275). -/
inductive Secded where
  | clean | corrected | uncorrectable
  deriving DecidableEq, Repr

/-- A packet of the fabric: its virtual channel, its 64-bit flits with their poison bits, and the sideband: source core
(4096 the management core) and retry-buffer entry (R59). `via` is the Wiolo port by which its source router sends it out
of the package (R80). -/
structure Packet where
  vc     : Nat
  flits  : List (BitVec 64 × Bool)
  srcPkg : BitVec 10
  srcCore : BitVec 13
  entry  : Option Nat
  via    : Option Nat
  deriving DecidableEq, Repr

/-- What the host does through its BARs (R291, R293): reads and writes bytes through BAR4 at an offset, reads bytes of BAR0
or BAR2 at an offset, writes BAR0 or BAR2 otherwise than by aligned 64 bits, or sets the size of BAR4 by its capability. -/
inductive HostAccess where
  | read (o : Nat) (n : Nat)
  | write (o : Nat) (bytes : List (BitVec 8))
  | readRegister (bar2 : Bool) (o : Nat) (n : Nat)
  | unalignedWrite
  | resize (logSize : Nat)
  deriving DecidableEq, Repr

/-- The answer to an access that another package performs (R175): data with its poison, an access refused for want of
ownership (R171), or an error response (R79). -/
inductive ExtAnswer where
  | data (v : BitVec 64) (psn : Bool)
  | prot
  | error
  deriving DecidableEq, Repr

/-- What a context of another package asks of this one (R171, R175, R189, R213). `fn` of an atomic is that of Table 8-2. -/
inductive ForeignOp where
  | load (n : Nat)
  | store (n : Nat) (v : BitVec 64) (psn : Bool)
  | atomic (fn : Nat) (n : Nat) (v e : BitVec 64)
  | zeroLine
  | qread (lines : List Nat)
  | qstore (data : List (BitVec 1024 × BitVec 16))
  | ldfe (take : Bool)
  | stfe (fill : Bool) (v : BitVec 64) (psn : Bool)
  | empty
  | probe
  | withdraw
  deriving DecidableEq, Repr

/-- A request of another package: the package, core and slot, the realm, whether a supervisor makes it, the window address
(or physical address), whether its page is NC, and what it asks. -/
structure ForeignReq where
  pkg : BitVec 10
  core : BitVec 12
  slot : BitVec 3
  realm : BitVec 12
  super : Bool
  win : Bool
  addr : Nat
  nc : Bool
  op : ForeignOp
  const : Bool := false
  deriving DecidableEq, Repr

/-- An access performed at its home (R181): a posted access, by its number; the write-back (R179) or the loss by replacement
of a line of a cluster's cache; the write-back, the fetch or the loss of a host-aperture line at a slice; a request of another
package (R175). -/
inductive SliceOp where
  | access (id : Nat)
  | writeBack (cluster line : Nat)
  | evict (cluster line : Nat)
  | hostWriteBack (line : Nat)
  | hostFetch (line : Nat)
  | hostEvict (line : Nat)
  | foreign (r : ForeignReq)
  deriving DecidableEq, Repr

/-- What a copy engine does next with a linear copy (R209): so many words in order, or the read or the write of one word. -/
inductive CopyMove where
  | run (words : Nat)
  | read (word : Nat)
  | write (word : Nat)
  deriving DecidableEq, Repr

/-- A piece of a work of the hardware, named by the work's number: all that is left of it, or one of its moves (R209). -/
structure Piece where
  work : Nat
  only : Option Nat := none
  deriving DecidableEq, Repr

/-- The lanes of a Wiolo port that its training has locked (Table 3-11). -/
structure LockedLanes where
  port : BitVec 4
  lanes : BitVec 4
  deriving DecidableEq, Repr

/-- A firmware image as its check sees it (R303): header words 0x00 and 0x08, the digest of its header, whether the body has
that digest, whether the signature is valid, whether all other header bytes are 0, and, of a configuration image, the least
SVN of kinds 1 to 3. -/
structure FwImage where
  w0 : BitVec 64
  w1 : BitVec 64
  digest : BitVec 256
  matched : Bool
  signed : Bool
  restZero : Bool
  minima : List (BitVec 32) := []
  deriving DecidableEq, Repr

/-- How a request reaches the responder: MCTP over I3C, or DOE over PCI Express (R301). -/
inductive Carrier where
  | mctp | doe
  deriving DecidableEq, Repr

/-- The SPDM requests of R304; `other` stands for every other request, those of secured sessions among them. -/
inductive SpdmCode where
  | getVersion | getCapabilities | negotiateAlgorithms | getDigests | getCertificate | challenge | getMeasurements | other
  deriving DecidableEq, Repr

/-- A PLDM sensor (R301): a die's TMAX, the package's power, a die's throttle step. -/
inductive Sensor where
  | tmax (die : BitVec 4)
  | power
  | step (die : BitVec 4)
  deriving DecidableEq, Repr

/-- A request to the responder (R301, R304). -/
inductive MgmtRequest where
  | spdm (via : Carrier) (code : SpdmCode)
  | pldm (sensor : Sensor)
  deriving DecidableEq, Repr

/-- What a bring-up stage found (Table 12-6): whether it passed, the units self-test marked out (R18), the package
number of the configuration image (R332) and the trip point it gives (R306). -/
structure BringupResult where
  ok : Bool
  /-- the configuration and root images that the ROM reads at stage 1, the service image of stage 7 (R303) -/
  config : Option FwImage := none
  root : Option FwImage := none
  service : Option FwImage := none
  badCores : List Nat
  badQuads : List Nat
  badClusters : List Nat
  package : BitVec 10
  trip : Option (BitVec 16)
  deriving DecidableEq, Repr

/-- A soft error (R275): the array (UKIND of Table 11-6), the channel or router of kinds 5 and 6, the word's key in memory,
and what the code found. -/
structure SoftError where
  ukind : Nat
  unit : Nat
  key : Nat
  kind : Secded
  syndrome : BitVec 16
  /-- the word lies in a queue, as its word of this number: operands captured in the core's dispatch queue (kind 1), flits
  at the router's inputs (kind 6) -/
  queued : Option Nat := none
  /-- the bits that have flipped in the array: of the word, or of the LPDDR6 line (R440) -/
  flips : BitVec 1024 := 0
  deriving DecidableEq, Repr

/-- A Wiolo frame (R78, R81): its sequence number, whether its CRC is good, the number of frames it acknowledges, and the
packets it carries. -/
structure Frame where
  seq : Nat
  crcOk : Bool
  ack : Nat
  packets : List Packet
  deriving DecidableEq, Repr

/-! ### The instructions -/

/-- The rows of spec/opcode_table.json. -/
inductive Instr where
  -- OPR (R314, Table 13-5)
  | add (d a b : Reg) (w : Bool)
  | sub (d a b : Reg) (w : Bool)
  | and (d a b : Reg)
  | or (d a b : Reg)
  | xor (d a b : Reg)
  | sll (d a b : Reg) (w : Bool)
  | srl (d a b : Reg) (w : Bool)
  | sra (d a b : Reg) (w : Bool)
  | slt (d a b : Reg)
  | sltu (d a b : Reg)
  | min (d a b : Reg)
  | max (d a b : Reg)
  | minu (d a b : Reg)
  | maxu (d a b : Reg)
  | mul (d a b : Reg) (w : Bool)
  | mulh (d a b : Reg)
  | mulhu (d a b : Reg)
  | div (d a b : Reg) (w : Bool)
  | divu (d a b : Reg) (w : Bool)
  | rem (d a b : Reg) (w : Bool)
  | remu (d a b : Reg) (w : Bool)
  | cmovnz (d a b : Reg)
  | cmovz (d a b : Reg)
  | clz (d a : Reg) (w : Bool)
  | ctz (d a : Reg) (w : Bool)
  | popc (d a : Reg) (w : Bool)
  -- immediates (R315)
  | addi (d a : Reg) (i : BitVec 16)
  | andi (d a : Reg) (i : BitVec 16)
  | ori (d a : Reg) (i : BitVec 16)
  | xori (d a : Reg) (i : BitVec 16)
  | slti (d a : Reg) (i : BitVec 16)
  | sltiu (d a : Reg) (i : BitVec 16)
  | slli (d a : Reg) (w : Bool) (s : BitVec 6)
  | srli (d a : Reg) (w : Bool) (s : BitVec 6)
  | srai (d a : Reg) (w : Bool) (s : BitVec 6)
  | lui (d : Reg) (i : BitVec 16)
  | addpc (d : Reg) (i : BitVec 16)
  | ldpc (d : Reg) (i : BitVec 16)
  -- OPF (R316, Table 13-6)
  | fadd (d a b : Reg) (f : FFmt) (r : Rm)
  | fsub (d a b : Reg) (f : FFmt) (r : Rm)
  | fmul (d a b : Reg) (f : FFmt) (r : Rm)
  | fdiv (d a b : Reg) (f : FFmt) (r : Rm)
  | fsqrt (d a : Reg) (f : FFmt) (r : Rm)
  | fmin (d a b : Reg) (f : FFmt)
  | fmax (d a b : Reg) (f : FFmt)
  | feq (d a b : Reg) (f : FFmt)
  | flt (d a b : Reg) (f : FFmt)
  | fle (d a b : Reg) (f : FFmt)
  | fclass (d a : Reg) (f : FFmt)
  | fcvtI (d a : Reg) (t : IType) (f : FFmt) (r : Rm)
  | fcvtF (d a : Reg) (t : IType) (f : FFmt) (r : Rm)
  | fcvtFF (d a : Reg) (src : FFmt) (f : FFmt) (r : Rm)
  | fsgn (d a b : Reg) (f : FFmt) (m : SgnMode)
  -- FMAC (R317)
  | fma (d a b c : Reg) (f64 : Bool) (r : Rm)
  | fms (d a b c : Reg) (f64 : Bool) (r : Rm)
  | fnma (d a b c : Reg) (f64 : Bool) (r : Rm)
  | fnms (d a b c : Reg) (f64 : Bool) (r : Rm)
  -- BF, CELLKEY (R318); l is the length less one
  | bext (d a : Reg) (p l : BitVec 6)
  | bextu (d a : Reg) (p l : BitVec 6)
  | bins (d a : Reg) (p l : BitVec 6)
  | cellkey (d a : Reg)
  -- loads and stores (R319)
  | ld (d a : Reg) (i : BitVec 12) (z : LdSize)
  | st (s a : Reg) (i : BitVec 12) (z : StSize)
  | ldx (d a b : Reg) (k : BitVec 2) (z : LdSize)
  | stx (s a b : Reg) (k : BitVec 2) (z : StSize)
  -- MEMO (R196, Table 8-2)
  | ldo (d a : Reg) (c : Scope) (o : MemOrder) (z : MSize)
  | sto (a b : Reg) (c : Scope) (o : MemOrder) (z : MSize)
  | amoAdd (d a b : Reg) (c : Scope) (o : MemOrder) (z : MSize)
  | amoAnd (d a b : Reg) (c : Scope) (o : MemOrder) (z : MSize)
  | amoOr (d a b : Reg) (c : Scope) (o : MemOrder) (z : MSize)
  | amoXor (d a b : Reg) (c : Scope) (o : MemOrder) (z : MSize)
  | amoMin (d a b : Reg) (c : Scope) (o : MemOrder) (z : MSize)
  | amoMax (d a b : Reg) (c : Scope) (o : MemOrder) (z : MSize)
  | amoMinu (d a b : Reg) (c : Scope) (o : MemOrder) (z : MSize)
  | amoMaxu (d a b : Reg) (c : Scope) (o : MemOrder) (z : MSize)
  | amoSwap (d a b : Reg) (c : Scope) (o : MemOrder) (z : MSize)
  | amoCas (d a b : Reg) (c : Scope) (o : MemOrder) (z : MSize)
  | amoFadd (d a b : Reg) (c : Scope) (o : MemOrder) (z : MSize)
  | fence (c : Scope) (o : MemOrder) (sc : Bool)
  -- full-empty (R320)
  | ldfe (d a : Reg) (c : Scope)
  | ldfeTake (d a : Reg) (c : Scope)
  | stfe (a b : Reg) (c : Scope)
  | stfeFill (a b : Reg) (c : Scope)
  | feempty (a : Reg)
  | feprobe (d a : Reg)
  -- QMEM (R189); k is the line count less one
  | qread (d a b : Reg) (k : BitVec 2)
  | qstore (d a : Reg)
  -- CACHE (R188)
  | pref (a : Reg)
  | clean (a : Reg)
  | inval (a : Reg)
  | zerol (a : Reg)
  -- branches and jumps (R321)
  | beq (a b : Reg) (i : BitVec 16)
  | bne (a b : Reg) (i : BitVec 16)
  | blt (a b : Reg) (i : BitVec 16)
  | bge (a b : Reg) (i : BitVec 16)
  | bltu (a b : Reg) (i : BitVec 16)
  | bgeu (a b : Reg) (i : BitVec 16)
  | jal (d : Reg) (i : BitVec 21)
  | jalr (d a : Reg) (i : BitVec 16)
  -- vector memory (R324)
  | vld (d : VReg) (b : Reg) (m : MReg) (e : ESize)
  | vlds (d : VReg) (b s : Reg) (m : MReg) (e : ESize)
  | vldx (d : VReg) (b : Reg) (i : VReg) (m : MReg) (e : ESize)
  | vst (d : VReg) (b : Reg) (m : MReg) (e : ESize)
  | vsts (d : VReg) (b s : Reg) (m : MReg) (e : ESize)
  | vstx (d : VReg) (b : Reg) (i : VReg) (m : MReg) (e : ESize)
  -- VOP (R322, Table 13-7)
  | vadd (d a b : VReg) (m : MReg) (t : VType) (z s : Bool)
  | vsub (d a b : VReg) (m : MReg) (t : VType) (z s : Bool)
  | vmul (d a b : VReg) (m : MReg) (t : VType) (z s : Bool)
  | vmin (d a b : VReg) (m : MReg) (t : VType) (z : Bool)
  | vmax (d a b : VReg) (m : MReg) (t : VType) (z : Bool)
  | vabs (d a : VReg) (m : MReg) (t : VType) (z : Bool)
  | vneg (d a : VReg) (m : MReg) (t : VType) (z : Bool)
  | vand (d a b : VReg) (m : MReg) (t : VType) (z : Bool)
  | vor (d a b : VReg) (m : MReg) (t : VType) (z : Bool)
  | vxor (d a b : VReg) (m : MReg) (t : VType) (z : Bool)
  | vshl (d a b : VReg) (m : MReg) (t : VType) (z : Bool)
  | vshr (d a b : VReg) (m : MReg) (t : VType) (z : Bool)
  | vcmpeq (d : MReg) (a b : VReg) (m : MReg) (t : VType)
  | vcmplt (d : MReg) (a b : VReg) (m : MReg) (t : VType)
  | vcmple (d : MReg) (a b : VReg) (m : MReg) (t : VType)
  | vsel (d a b : VReg) (m : MReg) (t : VType)
  | vmov (d a : VReg) (m : MReg) (t : VType) (z : Bool)
  | vsplat (v : VReg) (g : Reg) (t : VType)
  | vext (v : VReg) (g i : Reg) (t : VType)
  | vins (v : VReg) (g i : Reg) (t : VType)
  -- VFMA, VMSK, VRED, VPERM (R323)
  | vfma (d a b : VReg) (m : MReg) (t : VType) (z : Bool)
  | vfms (d a b : VReg) (m : MReg) (t : VType) (z : Bool)
  | vfnma (d a b : VReg) (m : MReg) (t : VType) (z : Bool)
  | mand (d a b : MReg)
  | mor (d a b : MReg)
  | mxor (d a b : MReg)
  | mnot (d a : MReg)
  | mpopc (v : MReg) (g : Reg) (t : VType)
  | msetn (v : MReg) (g : Reg) (t : VType)
  | vredadd (d a : VReg) (m : MReg) (t : VType)
  | vredmax (d a : VReg) (m : MReg) (t : VType)
  | vredmin (d a : VReg) (m : MReg) (t : VType)
  | vperm (d a b : VReg) (m : MReg) (t : VType) (z : Bool)
  | vrot (d a b : VReg) (m : MReg) (t : VType) (z : Bool)
  | vcompress (d a : VReg) (m : MReg) (t : VType)
  -- VEVT (R33, Table 2-3)
  | vscmac (d a b : Reg)
  | vdring (d a b : Reg)
  | vsdscan (d a b : Reg)
  | vdtick (d a : Reg)
  -- VCVT family, VACT (R325, R323)
  | vcvt (d a : VReg) (src : CvtFmt) (m : MReg) (dst : CvtFmt) (r : Rm)
  | vquant (d a b : VReg) (m : MReg) (dst : CvtFmt) (r : Rm)
  | vact (d a : VReg) (m : MReg) (z : Bool) (c : ActCode)
  -- MAT (R251)
  | mma (c : Acc) (a b : Reg)
  | mmas (c : Acc) (a b : Reg)
  | mzero (c : Acc)
  | mldacc (c : Acc) (a : Reg)
  | mstacc (c : Acc) (a : Reg)
  | mxform (c s : Acc) (b : Reg)
  | mwait (d : Reg)
  -- MRG (R257); d names the even register pair
  | isect (d : BitVec 3) (a b : VReg) (n32 : Bool)
  | union (d : BitVec 3) (a b : VReg) (n32 : Bool)
  | merge (d : BitVec 3) (a b : VReg) (n32 : Bool)
  -- RPT (R248); k and n less one
  | rpt (k : BitVec 4) (n : BitVec 8) (sd sa sb : BitVec 2)
  -- MSG (R326); n less one
  | emit (a : Reg) (r : Bool)
  | send (a b : Reg) (r : Bool) (n : BitVec 2)
  | sendr (a b : Reg) (r : Bool) (n : BitVec 2)
  | evpop (d a : Reg)
  | evpopv (v : VReg) (a : Reg)
  | rcmask (a : Reg)
  | rcunmask (a : Reg)
  | ctxtok (d : Reg)
  -- COPY (R258)
  | ccopy (d a b : Reg)
  | ccopy2d (a : Reg)
  | cgather (a : Reg)
  | cscatter (a : Reg)
  | cseal (d : Reg)
  | cwait (a : Reg)
  | syncarm (a b : Reg) (lv : Bool) (l : BitVec 4)
  -- WALK (R128), GRAPH (R164)
  | wlaunch (d a : Reg)
  | wsplit (d a : Reg)
  | wpermit (d a b : Reg)
  | tdone
  | nspawn (d a b : Reg)
  | nfail (d a : Reg)
  | nstat (d a : Reg)
  | ntoken (d a : Reg)
  -- BAR (R106)
  | join (t : Tag)
  | leave (t : Tag)
  | bar (t : Tag)
  | bararr (t : Tag)
  | bwait (t : Tag)
  -- CSR (R327)
  | csrr (d : Reg) (c : BitVec 12)
  | csrw (d a : Reg) (c : BitVec 12)
  | csrs (d a : Reg) (c : BitVec 12)
  | csrc (d a : Reg) (c : BitVec 12)
  -- SYS (R328)
  | endt
  | trap (c : BitVec 8)
  | eret (a : Reg)
  | waitev (a : Reg)
  | pause
  | brkpt
  | halt
  | ctxsave (a : Reg)
  | ctxload (d a : Reg)
  | tlbinvPg (a b : Reg) (c : Scope)
  | tlbinvRl (b : Reg) (c : Scope)
  | tlbinvAll (c : Scope)
  | tkill
  -- writes by other agents
  | registerWrite (who : Writer) (off : BitVec 22) (v : Word)
  | routeClassWrite (router cls : BitVec 6) (hi : Bool) (v : Word)
  | msgmaxWrite (v : Word)
  | quantumWrite (cluster : BitVec 8) (v : Word)
  | quantumExpiry (cluster : BitVec 8)
  | tagWrite (t : Tag) (word : BitVec 5) (v : Word)
  | ownershipWrite (isCluster : Bool) (n : BitVec 12) (v : Word)
  | bankmodeWrite (cluster : BitVec 8) (v : Word)
  | bankSwitchDone (cluster : BitVec 8) (bank : BitVec 4)
  | clflagsclrWrite (cluster : BitVec 8) (v : Word)
  -- the Ephemeris
  | bind (k : BitVec 15) (v : Word)
  | bindCheckDone (k : BitVec 15)
  | graphCancel (k : BitVec 15) (v : Word)
  | trigger (k : BitVec 15) (v : Word)
  | nodeDispatch (shard : BitVec 4)
  | tokenDelivery (i : Nat)
  | nodeBodyEnd (i : Nat)
  | nodeFault (i : Nat)
  | sweepVisit (graph : Nat)
  | runFinal (graph : Nat)
  | completionRecordWrite
  -- the host, bring-up and the stop
  | hostseqWrite (v : Word)
  | go (v : Word)
  | functionLevelReset
  | fundamentalReset
  | bringupStage (r : BringupResult)
  | hostApertureAccess (a : HostAccess)
  | stop (v : Word)
  | stopDelivery (core : BitVec 12)
  | walkerStop (router : BitVec 6)
  | stopComplete
  | resume (v : Word)
  | resumeComplete
  -- the fabric and the network interfaces
  | routerPacketArrival (router : BitVec 6) (i : Nat)
  | linkFlitReceive (router : BitVec 6) (i : Nat) (r : List Secded)
  | eventFlitArrival (core : BitVec 12) (i : Nat)
  | vc4BufferDrain (core : BitVec 12)
  | taskMessageArrival (core : BitVec 12) (i : Nat)
  | refuseNotice (i : Nat)
  | freeNotice (i : Nat)
  | acceptance (i : Nat)
  | replyDelivery (core : BitVec 12) (i : Nat)
  | slotFree (core : BitVec 12) (engine : Bool)
  | watchNoticeArrival (i : Nat)
  -- traps and waits
  | trapHandoff (core : BitVec 13)
  | coprocRaise (core : BitVec 12)
  | budgetExpiry (core : BitVec 12) (slot : BitVec 3)
  | waitLimitExpiry (core : BitVec 13) (slot : BitVec 3)
  | pauseEnd (core : BitVec 13) (slot : BitVec 3)
  -- the engines
  | engineGrant (core : BitVec 12)
  | engineRetire (core : BitVec 12) (seq : BitVec 16)
  | scanFlitAccepted (core : BitVec 12)
  -- memory
  | loadResponse (id : Nat) (ext : ExtAnswer)
  | pageWalkDone (id : Nat)
  | sliceRequest (op : SliceOp)
  | feQueueService (key : Nat)
  | fifoPortWake (cluster : BitVec 8) (bank : BitVec 4)
  | copyExecute (id : Nat) (m : CopyMove)
  | indirectCopyChunk (copy : Piece)
  | batchFinish (core : BitVec 13) (slot : BitVec 3)
  -- barriers
  | barrierGenComplete (t : Tag)
  | barrierRelease (t : Tag)
  | barrierFlitSend (t : Tag) (pkg : BitVec 10)
  | barrierFlitArrival (flit : Word)
  -- walkers
  | launchRequest (i : Nat)
  | walkerLoadDone (inst : BitVec 16)
  | walkerDispatch (inst : BitVec 16)
  | splitServe (i : Nat)
  | permitServe (i : Nat)
  | walkerAnswer (i : Nat)
  | graphAnswer (i : Nat)
  | footprintFetchDone (inst : BitVec 16) (tile : Piece)
  | tileStart (core : BitVec 12) (i : Nat)
  | tileRetire (inst : BitVec 16) (tile : Piece)
  | walkerFault (inst : BitVec 16) (tile : Nat)
  | launchCancel (inst : BitVec 16)
  | partDone (inst : BitVec 16)
  | doneMessageArrival (i : Nat)
  -- Wiolo
  | wioloFrameReceive (port : BitVec 4) (f : Frame)
  | wioloFrameResend (port : BitVec 4)
  | wioloLinkLoss (port : BitVec 4)
  | wioloRetrainDone (locked : LockedLanes)
  -- errors, power, management
  | softErrorDetect (e : SoftError)
  | sensorRead (die : BitVec 4) (sense : Word)
  | overcurrentReport
  | overcurrentClear
  | pollPeriod
  | mctpPacketArrival (bytes : List (BitVec 8))
  | serviceHandlerStart
  | spdmRequest (r : MgmtRequest)
  | mgmtCoreReset
  -- completions
  | writeAcknowledgement (id : Nat)
  | tlbinvComplete (core : BitVec 13)
  | packetAccepted (core : BitVec 13) (slot : BitVec 3)
  | barrierTreeApply
  -- fetch and decode failures
  | illegal (w : IWord)
  | fetchFault
  -- PCI Express
  | pcieLinkLoss
  | pcieLinkUp
  deriving DecidableEq, Repr

end Sys2Proof
end

