-- ==== Sys2Proof/WellFormed.lean ====
section
/-!
DEFINITION. Which instructions the encoding admits: the relations between fields that R314 to R328 and the family rules
state and that the types of the fields do not already hold. A term that fails them is no instruction word.
-/

namespace Sys2Proof

/-- The integer lane types (R322, types 3 to 7). -/
def VType.isInt : VType → Bool
  | .int32 | .n32 | .int16 | .int8 | .n8 => true
  | .fp32 | .bf16 | .fp16 => false

/-- The types of VABS and VNEG (Table 13-7): every type but N32 and N8. -/
def VType.isSigned : VType → Bool
  | .n32 | .n8 => false
  | .fp32 | .bf16 | .fp16 | .int32 | .int16 | .int8 => true

/-- FP32, BF16 and FP16 among the conversion formats (Table 17-1). -/
def CvtFmt.isWideFloat : CvtFmt → Bool
  | .fp32 | .bf16 | .fp16 => true
  | _ => false

/-- The integer formats of Table 17-1. -/
def CvtFmt.isInt : CvtFmt → Bool
  | .int32 | .n32 | .int16 | .int8 | .n8 => true
  | _ => false

/-- E4M3 to E2M1 (Table 17-1). -/
def CvtFmt.isNarrowFloat : CvtFmt → Bool
  | .e4m3 | .e5m2 | .e3m2 | .e2m3 | .e2m1 => true
  | _ => false

/-- The pairs VCVT accepts (R422, Table 17-1). -/
def cvtPair (src dst : CvtFmt) : Bool :=
  (src.isWideFloat && (dst.isWideFloat || dst.isNarrowFloat || dst.isInt)) ||
  (src.isNarrowFloat && dst.isWideFloat) || (src.isInt && (dst.isWideFloat || dst.isInt))

/-- The formats VQUANT writes (R424): INT8 and codes 8 to 12. -/
def quantDst (d : CvtFmt) : Bool := d.isNarrowFloat || d == .int8

/-- A W shift takes an amount below 32 (R315). -/
def shiftOk (w : Bool) (s : BitVec 6) : Bool := !w || s.toNat < 32

/-- Position and length of a bit field stay within 64 bits (R318). -/
def bitFieldOk (p l : BitVec 6) : Bool := p.toNat + l.toNat + 1 ≤ 64

/-- A scope is nonzero only with an order (R196). -/
def scopeOk (c : Scope) (o : MemOrder) : Bool := c == .core || o != .plain

/-- Payload registers of SEND end at g31 (R326); n is the count less one. -/
def payloadOk (b : Reg) (n : BitVec 2) : Bool := b.toNat + n.toNat ≤ 31

/-- Core numbers of compute cores, and 4096 for the management core (log 7). -/
def coreOk (c : BitVec 13) : Bool := c.toNat ≤ 4096

/-- The instructions that the encoding admits. A step of the hardware is well formed when its operands can name an
item: sizes of host accesses, words of a copy, units. -/
def Instr.wf : Instr → Bool
  | .slli _ _ w s | .srli _ _ w s | .srai _ _ w s => shiftOk w s
  | .bext _ _ p l | .bextu _ _ p l | .bins _ _ p l => bitFieldOk p l
  | .ldo _ _ c o _ => scopeOk c o && (o == .plain || o == .acq)
  | .sto _ _ c o _ => scopeOk c o && (o == .plain || o == .rel)
  | .amoAdd _ _ _ c o _ | .amoAnd _ _ _ c o _ | .amoOr _ _ _ c o _ | .amoXor _ _ _ c o _ | .amoMin _ _ _ c o _
  | .amoMax _ _ _ c o _ | .amoMinu _ _ _ c o _ | .amoMaxu _ _ _ c o _ | .amoSwap _ _ _ c o _ | .amoCas _ _ _ c o _
  | .amoFadd _ _ _ c o _ => scopeOk c o
  | .fence _ o sc => o != .plain && (!sc || o == .acqRel)
  | .vadd _ _ _ _ t _ s | .vsub _ _ _ _ t _ s | .vmul _ _ _ _ t _ s => !s || t.isInt
  | .vabs _ _ _ t _ | .vneg _ _ _ t _ => t.isSigned
  | .vand _ _ _ _ t _ | .vor _ _ _ _ t _ | .vxor _ _ _ _ t _ | .vshl _ _ _ _ t _ | .vshr _ _ _ _ t _ => t.isInt
  | .vfma _ _ _ _ t _ | .vfms _ _ _ _ t _ | .vfnma _ _ _ _ t _ => !t.isInt
  | .vcvt _ _ src _ dst _ => cvtPair src dst
  | .vquant _ _ _ _ dst _ => quantDst dst
  | .send _ b _ n | .sendr _ b _ n => payloadOk b n
  | .hostApertureAccess (.read _ n) => 1 ≤ n && n ≤ 4096
  | .hostApertureAccess (.write _ bytes) => 1 ≤ bytes.length && bytes.length ≤ 4096
  | .trapHandoff c | .waitLimitExpiry c _ | .pauseEnd c _ | .batchFinish c _ | .tlbinvComplete c
  | .packetAccepted c _ => coreOk c
  | _ => true

end Sys2Proof
end

