-- ==== Sys2Proof/Decode.lean ====
section
/-!
DEFINITION. The decoder (R311 to R328): total on every 32-bit word, refusing by name what R329 refuses. After it the
encoder, written from the same tables, and the word forms the host asks for.
-/

namespace Sys2Proof

/-- Why a word is no instruction (R329). -/
inductive Reject where
  /-- major opcode 0x00 or 0x34 to 0x3F -/
  | majorOpcode
  /-- a function value its family's table leaves unassigned -/
  | function
  /-- a nonzero field that must be 0 -/
  | nonzeroField
  /-- a W, SAT, REL, scope, order, size, rm, type or operand value the form does not accept -/
  | value
  deriving DecidableEq, Repr

/-- The field of n bits whose lowest bit is lo. -/
def fld (w : IWord) (lo n : Nat) : BitVec n := w.extractLsb' lo n

/-- One bit as a Bool. -/
def bit (w : IWord) (i : Nat) : Bool := (fld w i 1) == 1#1

/-! ### The codes of the fields, both ways -/

/-- Scope codes (Table 8-1); 5 to 7 name none. -/
def Scope.toBits : Scope → BitVec 3
  | .core => 0#3
  | .cluster => 1#3
  | .group => 2#3
  | .package => 3#3
  | .domain => 4#3

/-- Scope codes (Table 8-1); 5 to 7 name none. -/
def Scope.ofBits (x : BitVec 3) : Option Scope :=
  match x.toNat with
  | 0 => some .core
  | 1 => some .cluster
  | 2 => some .group
  | 3 => some .package
  | 4 => some .domain
  | _ => none

/-- Order codes (R195). -/
def MemOrder.toBits : MemOrder → BitVec 2
  | .plain => 0#2
  | .acq => 1#2
  | .rel => 2#2
  | .acqRel => 3#2

/-- Order codes (R195). -/
def MemOrder.ofBits (x : BitVec 2) : Option MemOrder :=
  match x.toNat with
  | 0 => some .plain
  | 1 => some .acq
  | 2 => some .rel
  | 3 => some .acqRel
  | _ => none

/-- Format codes of OPF (R316); 4 to 7 name none. -/
def FFmt.toBits : FFmt → BitVec 3
  | .f32 => 0#3
  | .f64 => 1#3
  | .bf16 => 2#3
  | .f16 => 3#3

/-- Format codes of OPF (R316); 4 to 7 name none. -/
def FFmt.ofBits (x : BitVec 3) : Option FFmt :=
  match x.toNat with
  | 0 => some .f32
  | 1 => some .f64
  | 2 => some .bf16
  | 3 => some .f16
  | _ => none

/-- Rounding codes (Table 9-4); 5 and 6 name none. -/
def Rm.toBits : Rm → BitVec 3
  | .rne => 0#3
  | .rna => 1#3
  | .rtz => 2#3
  | .rtp => 3#3
  | .rtn => 4#3
  | .dyn => 7#3

/-- Rounding codes (Table 9-4); 5 and 6 name none. -/
def Rm.ofBits (x : BitVec 3) : Option Rm :=
  match x.toNat with
  | 0 => some .rne
  | 1 => some .rna
  | 2 => some .rtz
  | 3 => some .rtp
  | 4 => some .rtn
  | 7 => some .dyn
  | _ => none

/-- Integer types in the b field (Table 13-6). -/
def IType.toBits : IType → BitVec 5
  | .i64 => 0#5
  | .n64 => 1#5
  | .i32 => 2#5
  | .n32 => 3#5

/-- Integer types in the b field (Table 13-6). -/
def IType.ofBits (x : BitVec 5) : Option IType :=
  match x.toNat with
  | 0 => some .i64
  | 1 => some .n64
  | 2 => some .i32
  | 3 => some .n32
  | _ => none

/-- FSGN modes in the rm field (Table 13-6). -/
def SgnMode.toBits : SgnMode → BitVec 3
  | .cpy => 0#3
  | .neg => 1#3
  | .xor => 2#3

/-- FSGN modes in the rm field (Table 13-6). -/
def SgnMode.ofBits (x : BitVec 3) : Option SgnMode :=
  match x.toNat with
  | 0 => some .cpy
  | 1 => some .neg
  | 2 => some .xor
  | _ => none

/-- Load sizes (R319). -/
def LdSize.toBits : LdSize → BitVec 4
  | .b => 0#4
  | .h => 1#4
  | .w => 2#4
  | .d => 3#4
  | .bz => 4#4
  | .hz => 5#4
  | .wz => 6#4

/-- Load sizes (R319). -/
def LdSize.ofBits (x : BitVec 4) : Option LdSize :=
  match x.toNat with
  | 0 => some .b
  | 1 => some .h
  | 2 => some .w
  | 3 => some .d
  | 4 => some .bz
  | 5 => some .hz
  | 6 => some .wz
  | _ => none

/-- Store sizes (R319). -/
def StSize.toBits : StSize → BitVec 4
  | .b => 0#4
  | .h => 1#4
  | .w => 2#4
  | .d => 3#4

/-- Store sizes (R319). -/
def StSize.ofBits (x : BitVec 4) : Option StSize :=
  match x.toNat with
  | 0 => some .b
  | 1 => some .h
  | 2 => some .w
  | 3 => some .d
  | _ => none

/-- MEMO sizes (Table 8-2). -/
def MSize.toBits : MSize → BitVec 2
  | .w => 0#2
  | .d => 1#2

/-- MEMO sizes (Table 8-2). -/
def MSize.ofBits (x : BitVec 2) : Option MSize :=
  match x.toNat with
  | 0 => some .w
  | 1 => some .d
  | _ => none

/-- Vector element sizes (R324). -/
def ESize.toBits : ESize → BitVec 2
  | .b => 0#2
  | .h => 1#2
  | .w => 2#2

/-- Vector element sizes (R324). -/
def ESize.ofBits (x : BitVec 2) : Option ESize :=
  match x.toNat with
  | 0 => some .b
  | 1 => some .h
  | 2 => some .w
  | _ => none

/-- Lane types (R322). -/
def VType.toBits : VType → BitVec 3
  | .fp32 => 0#3
  | .bf16 => 1#3
  | .fp16 => 2#3
  | .int32 => 3#3
  | .n32 => 4#3
  | .int16 => 5#3
  | .int8 => 6#3
  | .n8 => 7#3

/-- Lane types (R322). -/
def VType.ofBits (x : BitVec 3) : Option VType :=
  match x.toNat with
  | 0 => some .fp32
  | 1 => some .bf16
  | 2 => some .fp16
  | 3 => some .int32
  | 4 => some .n32
  | 5 => some .int16
  | 6 => some .int8
  | 7 => some .n8
  | _ => none

/-- Format codes (R325); 13 to 15 name none. -/
def CvtFmt.toBits : CvtFmt → BitVec 4
  | .fp32 => 0#4
  | .bf16 => 1#4
  | .fp16 => 2#4
  | .int32 => 3#4
  | .n32 => 4#4
  | .int16 => 5#4
  | .int8 => 6#4
  | .n8 => 7#4
  | .e4m3 => 8#4
  | .e5m2 => 9#4
  | .e3m2 => 10#4
  | .e2m3 => 11#4
  | .e2m1 => 12#4

/-- Format codes (R325); 13 to 15 name none. -/
def CvtFmt.ofBits (x : BitVec 4) : Option CvtFmt :=
  match x.toNat with
  | 0 => some .fp32
  | 1 => some .bf16
  | 2 => some .fp16
  | 3 => some .int32
  | 4 => some .n32
  | 5 => some .int16
  | 6 => some .int8
  | 7 => some .n8
  | 8 => some .e4m3
  | 9 => some .e5m2
  | 10 => some .e3m2
  | 11 => some .e2m3
  | 12 => some .e2m1
  | _ => none

/-- VACT codes (R323). -/
def ActCode.toBits : ActCode → BitVec 3
  | .relu => 0#3
  | .gelu => 1#3
  | .silu => 2#3
  | .exp2 => 3#3
  | .rcp => 4#3
  | .rsq => 5#3
  | .logi => 6#3
  | .tanh => 7#3

/-- VACT codes (R323). -/
def ActCode.ofBits (x : BitVec 3) : Option ActCode :=
  match x.toNat with
  | 0 => some .relu
  | 1 => some .gelu
  | 2 => some .silu
  | 3 => some .exp2
  | 4 => some .rcp
  | 5 => some .rsq
  | 6 => some .logi
  | 7 => some .tanh
  | _ => none

/-- The source format of FCVT.FF in the b field (Table 13-6); 4 to 31 name none. -/
def FFmt.ofBits5 (x : BitVec 5) : Option FFmt := if x.toNat < 4 then FFmt.ofBits (x.extractLsb' 0 3) else none

/-! ### Small helpers of the decoder -/

/-- A field that must be 0 (R329). -/
def zeroThen (b : Bool) (r : Except Reject Instr) : Except Reject Instr := if b then r else .error .nonzeroField

/-- A field value the form must accept (R329). -/
def valueThen {α : Type} (o : Option α) (k : α → Except Reject Instr) : Except Reject Instr :=
  match o with
  | some x => k x
  | none => .error .value

/-- A relation between fields that the form must meet (R329). -/
def okThen (b : Bool) (r : Except Reject Instr) : Except Reject Instr := if b then r else .error .value

/-- The d field of the R, I, F4, X and Z formats. -/
abbrev fd (w : IWord) : Reg := fld w 21 5
/-- The a field. -/
abbrev fa (w : IWord) : Reg := fld w 16 5
/-- The b field. -/
abbrev fb (w : IWord) : Reg := fld w 11 5
/-- imm16. -/
abbrev fi (w : IWord) : BitVec 16 := fld w 0 16
/-- vd of the V format. -/
abbrev vfd (w : IWord) : VReg := fld w 22 4
/-- va of the V format. -/
abbrev vfa (w : IWord) : VReg := fld w 18 4
/-- vb of the V format. -/
abbrev vfb (w : IWord) : VReg := fld w 14 4
/-- m of the V format. -/
abbrev vfm (w : IWord) : MReg := fld w 11 3
/-- z of the V format. -/
abbrev vfz (w : IWord) : Bool := bit w 7

/-! ### The families -/

/-- OPR (R314, Table 13-5). -/
def decodeOpr (w : IWord) : Except Reject Instr :=
  let W := bit w 10
  zeroThen (fld w 6 4 == 0) <|
  match (fld w 0 6).toNat with
  | 0 => .ok (.add (fd w) (fa w) (fb w) W)
  | 1 => .ok (.sub (fd w) (fa w) (fb w) W)
  | 2 => okThen (!W) (.ok (.and (fd w) (fa w) (fb w)))
  | 3 => okThen (!W) (.ok (.or (fd w) (fa w) (fb w)))
  | 4 => okThen (!W) (.ok (.xor (fd w) (fa w) (fb w)))
  | 5 => .ok (.sll (fd w) (fa w) (fb w) W)
  | 6 => .ok (.srl (fd w) (fa w) (fb w) W)
  | 7 => .ok (.sra (fd w) (fa w) (fb w) W)
  | 8 => okThen (!W) (.ok (.slt (fd w) (fa w) (fb w)))
  | 9 => okThen (!W) (.ok (.sltu (fd w) (fa w) (fb w)))
  | 10 => okThen (!W) (.ok (.min (fd w) (fa w) (fb w)))
  | 11 => okThen (!W) (.ok (.max (fd w) (fa w) (fb w)))
  | 12 => okThen (!W) (.ok (.minu (fd w) (fa w) (fb w)))
  | 13 => okThen (!W) (.ok (.maxu (fd w) (fa w) (fb w)))
  | 14 => .ok (.mul (fd w) (fa w) (fb w) W)
  | 15 => okThen (!W) (.ok (.mulh (fd w) (fa w) (fb w)))
  | 16 => okThen (!W) (.ok (.mulhu (fd w) (fa w) (fb w)))
  | 17 => .ok (.div (fd w) (fa w) (fb w) W)
  | 18 => .ok (.divu (fd w) (fa w) (fb w) W)
  | 19 => .ok (.rem (fd w) (fa w) (fb w) W)
  | 20 => .ok (.remu (fd w) (fa w) (fb w) W)
  | 21 => okThen (!W) (.ok (.cmovnz (fd w) (fa w) (fb w)))
  | 22 => okThen (!W) (.ok (.cmovz (fd w) (fa w) (fb w)))
  | 23 => zeroThen (fb w == 0) (.ok (.clz (fd w) (fa w) W))
  | 24 => zeroThen (fb w == 0) (.ok (.ctz (fd w) (fa w) W))
  | 25 => zeroThen (fb w == 0) (.ok (.popc (fd w) (fa w) W))
  | _ => .error .function

/-- SHIFTI (R315). -/
def decodeShift (w : IWord) : Except Reject Instr :=
  let W := bit w 6
  let s : BitVec 6 := fld w 0 6
  zeroThen (fld w 7 7 == 0) <|
  match (fld w 14 2).toNat with
  | 0 => okThen (shiftOk W s) (.ok (.slli (fd w) (fa w) W s))
  | 1 => okThen (shiftOk W s) (.ok (.srli (fd w) (fa w) W s))
  | 2 => okThen (shiftOk W s) (.ok (.srai (fd w) (fa w) W s))
  | _ => .error .function

/-- OPF (R316, Table 13-6). -/
def decodeOpf (w : IWord) : Except Reject Instr :=
  let d := fd w; let a := fa w; let b := fb w
  let r3 : BitVec 3 := fld w 5 3
  valueThen (FFmt.ofBits (fld w 8 3)) fun f =>
  match (fld w 0 5).toNat with
  | 0 => valueThen (Rm.ofBits r3) fun r => .ok (.fadd d a b f r)
  | 1 => valueThen (Rm.ofBits r3) fun r => .ok (.fsub d a b f r)
  | 2 => valueThen (Rm.ofBits r3) fun r => .ok (.fmul d a b f r)
  | 3 => valueThen (Rm.ofBits r3) fun r => .ok (.fdiv d a b f r)
  | 4 => zeroThen (b == 0) <| valueThen (Rm.ofBits r3) fun r => .ok (.fsqrt d a f r)
  | 5 => okThen (r3 == 0) (.ok (.fmin d a b f))
  | 6 => okThen (r3 == 0) (.ok (.fmax d a b f))
  | 7 => okThen (r3 == 0) (.ok (.feq d a b f))
  | 8 => okThen (r3 == 0) (.ok (.flt d a b f))
  | 9 => okThen (r3 == 0) (.ok (.fle d a b f))
  | 10 => zeroThen (b == 0) <| okThen (r3 == 0) (.ok (.fclass d a f))
  | 11 => valueThen (IType.ofBits b) fun t => valueThen (Rm.ofBits r3) fun r => .ok (.fcvtI d a t f r)
  | 12 => valueThen (IType.ofBits b) fun t => valueThen (Rm.ofBits r3) fun r => .ok (.fcvtF d a t f r)
  | 13 => valueThen (FFmt.ofBits5 b) fun s => valueThen (Rm.ofBits r3) fun r => .ok (.fcvtFF d a s f r)
  | 14 => valueThen (SgnMode.ofBits r3) fun m => .ok (.fsgn d a b f m)
  | _ => .error .function

/-- FMAC (R317). -/
def decodeFmac (w : IWord) : Except Reject Instr :=
  let c : Reg := fld w 6 5
  let f := bit w 5
  valueThen (Rm.ofBits (fld w 0 3)) fun r =>
  match (fld w 3 2).toNat with
  | 0 => .ok (.fma (fd w) (fa w) (fb w) c f r)
  | 1 => .ok (.fms (fd w) (fa w) (fb w) c f r)
  | 2 => .ok (.fnma (fd w) (fa w) (fb w) c f r)
  | _ => .ok (.fnms (fd w) (fa w) (fb w) c f r)

/-- BF (R318). -/
def decodeBf (w : IWord) : Except Reject Instr :=
  let p : BitVec 6 := fld w 10 6
  let l : BitVec 6 := fld w 4 6
  match (fld w 0 4).toNat with
  | 0 => okThen (bitFieldOk p l) (.ok (.bext (fd w) (fa w) p l))
  | 1 => okThen (bitFieldOk p l) (.ok (.bextu (fd w) (fa w) p l))
  | 2 => okThen (bitFieldOk p l) (.ok (.bins (fd w) (fa w) p l))
  | _ => .error .function

/-- MEMO (R196, Table 8-2). -/
def decodeMemo (w : IWord) : Except Reject Instr :=
  let d := fd w; let a := fa w; let b := fb w
  let sz : BitVec 2 := fld w 4 2
  let fn := (fld w 0 4).toNat
  valueThen (Scope.ofBits (fld w 8 3)) fun c =>
  valueThen (MemOrder.ofBits (fld w 6 2)) fun o =>
  if fn = 13 then
    zeroThen (d == 0 && a == 0 && b == 0) <|
    okThen (sz.toNat < 2 && o != .plain && (sz == 0 || o == .acqRel)) (.ok (.fence c o (sz == 1)))
  else
    valueThen (MSize.ofBits sz) fun z =>
    okThen (scopeOk c o) <|
    match fn with
    | 0 => zeroThen (b == 0) <| okThen (o == .plain || o == .acq) (.ok (.ldo d a c o z))
    | 1 => zeroThen (d == 0) <| okThen (o == .plain || o == .rel) (.ok (.sto a b c o z))
    | 2 => .ok (.amoAdd d a b c o z)
    | 3 => .ok (.amoAnd d a b c o z)
    | 4 => .ok (.amoOr d a b c o z)
    | 5 => .ok (.amoXor d a b c o z)
    | 6 => .ok (.amoMin d a b c o z)
    | 7 => .ok (.amoMax d a b c o z)
    | 8 => .ok (.amoMinu d a b c o z)
    | 9 => .ok (.amoMaxu d a b c o z)
    | 10 => .ok (.amoSwap d a b c o z)
    | 11 => .ok (.amoCas d a b c o z)
    | 12 => .ok (.amoFadd d a b c o z)
    | _ => .error .function

/-- FE (R320). -/
def decodeFe (w : IWord) : Except Reject Instr :=
  let d := fd w; let a := fa w; let b := fb w
  okThen (fld w 4 2 == 1#2 && fld w 6 2 == 0#2) <|
  valueThen (Scope.ofBits (fld w 8 3)) fun c =>
  match (fld w 0 4).toNat with
  | 0 => zeroThen (b == 0) (.ok (.ldfe d a c))
  | 1 => zeroThen (b == 0) (.ok (.ldfeTake d a c))
  | 2 => zeroThen (d == 0) (.ok (.stfe a b c))
  | 3 => zeroThen (d == 0) (.ok (.stfeFill a b c))
  | 4 => zeroThen (d == 0 && b == 0) <| okThen (c == .core) (.ok (.feempty a))
  | 5 => zeroThen (b == 0) <| okThen (c == .core) (.ok (.feprobe d a))
  | _ => .error .function

/-- QMEM (R189). -/
def decodeQmem (w : IWord) : Except Reject Instr :=
  zeroThen (fld w 4 4 == 0 && fld w 10 1 == 0) <|
  match (fld w 0 4).toNat with
  | 0 => .ok (.qread (fd w) (fa w) (fb w) (fld w 8 2))
  | 1 => zeroThen (fb w == 0 && fld w 8 2 == 0) (.ok (.qstore (fd w) (fa w)))
  | _ => .error .function

/-- CACHE (R188). -/
def decodeCache (w : IWord) : Except Reject Instr :=
  zeroThen (fd w == 0 && fb w == 0 && fld w 4 7 == 0) <|
  match (fld w 0 4).toNat with
  | 0 => .ok (.pref (fa w))
  | 1 => .ok (.clean (fa w))
  | 2 => .ok (.inval (fa w))
  | 3 => .ok (.zerol (fa w))
  | _ => .error .function

/-- The VLD and VST families (R324). -/
def decodeVmem (store : Bool) (w : IWord) : Except Reject Instr :=
  let g : Reg := fld w 17 5
  let s : Reg := fld w 12 5
  let m : MReg := fld w 9 3
  valueThen (ESize.ofBits (fld w 7 2)) fun e =>
  match (fld w 0 7).toNat with
  | 0 => zeroThen (s == 0) (.ok (if store then .vst (vfd w) g m e else .vld (vfd w) g m e))
  | 1 => .ok (if store then .vsts (vfd w) g s m e else .vlds (vfd w) g s m e)
  | 2 => zeroThen (fld w 16 1 == 0) <|
    .ok (if store then .vstx (vfd w) g (fld w 12 4) m e else .vldx (vfd w) g (fld w 12 4) m e)
  | _ => .error .function

/-- VOP (R322, Table 13-7). Bit 6 is SAT in the V layout and part of op in the VG layout. -/
def decodeVop (w : IWord) : Except Reject Instr :=
  let d := vfd w; let a := vfa w; let b := vfb w; let m := vfm w; let z := vfz w
  let sat := bit w 6
  let g : Reg := fld w 17 5
  let gi : Reg := fld w 12 5
  let d3 : MReg := fld w 22 3
  valueThen (VType.ofBits (fld w 8 3)) fun t =>
  match (fld w 0 6).toNat with
  | 0 => okThen (!sat || t.isInt) (.ok (.vadd d a b m t z sat))
  | 1 => okThen (!sat || t.isInt) (.ok (.vsub d a b m t z sat))
  | 2 => okThen (!sat || t.isInt) (.ok (.vmul d a b m t z sat))
  | 3 => okThen (!sat) (.ok (.vmin d a b m t z))
  | 4 => okThen (!sat) (.ok (.vmax d a b m t z))
  | 5 => okThen (!sat && t.isSigned) <| zeroThen (b == 0) (.ok (.vabs d a m t z))
  | 6 => okThen (!sat && t.isSigned) <| zeroThen (b == 0) (.ok (.vneg d a m t z))
  | 7 => okThen (!sat && t.isInt) (.ok (.vand d a b m t z))
  | 8 => okThen (!sat && t.isInt) (.ok (.vor d a b m t z))
  | 9 => okThen (!sat && t.isInt) (.ok (.vxor d a b m t z))
  | 10 => okThen (!sat && t.isInt) (.ok (.vshl d a b m t z))
  | 11 => okThen (!sat && t.isInt) (.ok (.vshr d a b m t z))
  | 12 => okThen (!sat) <| zeroThen (fld w 25 1 == 0 && !z) (.ok (.vcmpeq d3 a b m t))
  | 13 => okThen (!sat) <| zeroThen (fld w 25 1 == 0 && !z) (.ok (.vcmplt d3 a b m t))
  | 14 => okThen (!sat) <| zeroThen (fld w 25 1 == 0 && !z) (.ok (.vcmple d3 a b m t))
  | 15 => okThen (!sat) <| zeroThen (!z) (.ok (.vsel d a b m t))
  | 16 => okThen (!sat) <| zeroThen (b == 0) (.ok (.vmov d a m t z))
  | 17 => okThen (!sat) <| zeroThen (!z && fld w 11 1 == 0 && gi == 0) (.ok (.vsplat d g t))
  | 18 => okThen (!sat) <| zeroThen (!z && fld w 11 1 == 0) (.ok (.vext d g gi t))
  | 19 => okThen (!sat) <| zeroThen (!z && fld w 11 1 == 0) (.ok (.vins d g gi t))
  | _ => .error .function

/-- VFMA (R323). -/
def decodeVfma (w : IWord) : Except Reject Instr :=
  valueThen (VType.ofBits (fld w 8 3)) fun t =>
  match (fld w 0 7).toNat with
  | 0 => okThen (!t.isInt) (.ok (.vfma (vfd w) (vfa w) (vfb w) (vfm w) t (vfz w)))
  | 1 => okThen (!t.isInt) (.ok (.vfms (vfd w) (vfa w) (vfb w) (vfm w) t (vfz w)))
  | 2 => okThen (!t.isInt) (.ok (.vfnma (vfd w) (vfa w) (vfb w) (vfm w) t (vfz w)))
  | _ => .error .function

/-- VMSK (R323). -/
def decodeVmsk (w : IWord) : Except Reject Instr :=
  let d3 : MReg := fld w 22 3
  let a3 : MReg := fld w 18 3
  let b3 : MReg := fld w 14 3
  let g : Reg := fld w 17 5
  let zed := fld w 25 1 == 0 && fld w 21 1 == 0 && fld w 17 1 == 0 && fld w 7 7 == 0
  match (fld w 0 7).toNat with
  | 0 => zeroThen zed (.ok (.mand d3 a3 b3))
  | 1 => zeroThen zed (.ok (.mor d3 a3 b3))
  | 2 => zeroThen zed (.ok (.mxor d3 a3 b3))
  | 3 => zeroThen (zed && b3 == 0) (.ok (.mnot d3 a3))
  | 4 => zeroThen (fld w 25 1 == 0 && fld w 11 6 == 0 && fld w 7 1 == 0) <|
    valueThen (VType.ofBits (fld w 8 3)) fun t => .ok (.mpopc d3 g t)
  | 5 => zeroThen (fld w 25 1 == 0 && fld w 11 6 == 0 && fld w 7 1 == 0) <|
    valueThen (VType.ofBits (fld w 8 3)) fun t => .ok (.msetn d3 g t)
  | _ => .error .function

/-- VRED (R323). -/
def decodeVred (w : IWord) : Except Reject Instr :=
  zeroThen (vfb w == 0 && !vfz w) <|
  valueThen (VType.ofBits (fld w 8 3)) fun t =>
  match (fld w 0 7).toNat with
  | 0 => .ok (.vredadd (vfd w) (vfa w) (vfm w) t)
  | 1 => .ok (.vredmax (vfd w) (vfa w) (vfm w) t)
  | 2 => .ok (.vredmin (vfd w) (vfa w) (vfm w) t)
  | _ => .error .function

/-- VPERM (R323). -/
def decodeVperm (w : IWord) : Except Reject Instr :=
  valueThen (VType.ofBits (fld w 8 3)) fun t =>
  match (fld w 0 7).toNat with
  | 0 => .ok (.vperm (vfd w) (vfa w) (vfb w) (vfm w) t (vfz w))
  | 1 => .ok (.vrot (vfd w) (vfa w) (vfb w) (vfm w) t (vfz w))
  | 2 => zeroThen (vfb w == 0 && !vfz w) (.ok (.vcompress (vfd w) (vfa w) (vfm w) t))
  | _ => .error .function

/-- VEVT (R33). -/
def decodeVevt (w : IWord) : Except Reject Instr :=
  match (fld w 0 11).toNat with
  | 0 => .ok (.vscmac (fd w) (fa w) (fb w))
  | 1 => .ok (.vdring (fd w) (fa w) (fb w))
  | 2 => .ok (.vsdscan (fd w) (fa w) (fb w))
  | 3 => zeroThen (fb w == 0) (.ok (.vdtick (fd w) (fa w)))
  | _ => .error .function

/-- The VCVT family (R325). -/
def decodeVcvt (w : IWord) : Except Reject Instr :=
  valueThen (CvtFmt.ofBits (fld w 7 4)) fun dst =>
  valueThen (Rm.ofBits (fld w 4 3)) fun r =>
  match (fld w 0 4).toNat with
  | 0 => valueThen (CvtFmt.ofBits (fld w 14 4)) fun src =>
    okThen (cvtPair src dst) (.ok (.vcvt (vfd w) (vfa w) src (vfm w) dst r))
  | 1 => okThen (quantDst dst) (.ok (.vquant (vfd w) (vfa w) (vfb w) (vfm w) dst r))
  | _ => .error .function

/-- VACT (R323). -/
def decodeVact (w : IWord) : Except Reject Instr :=
  zeroThen (vfb w == 0 && fld w 8 3 == 0 && fld w 3 4 == 0) <|
  valueThen (ActCode.ofBits (fld w 0 3)) fun c => .ok (.vact (vfd w) (vfa w) (vfm w) (vfz w) c)

/-- MAT (R251). -/
def decodeMat (w : IWord) : Except Reject Instr :=
  let c : Acc := fld w 21 2
  let hi := fld w 23 3 == 0
  match (fld w 0 11).toNat with
  | 0 => zeroThen hi (.ok (.mma c (fa w) (fb w)))
  | 1 => zeroThen hi (.ok (.mmas c (fa w) (fb w)))
  | 2 => zeroThen (hi && fa w == 0 && fb w == 0) (.ok (.mzero c))
  | 3 => zeroThen (hi && fb w == 0) (.ok (.mldacc c (fa w)))
  | 4 => zeroThen (hi && fb w == 0) (.ok (.mstacc c (fa w)))
  | 5 => zeroThen (hi && fld w 18 3 == 0) (.ok (.mxform c (fld w 16 2) (fb w)))
  | 6 => zeroThen (fa w == 0 && fb w == 0) (.ok (.mwait (fd w)))
  | _ => .error .function

/-- MRG (R257): types INT32 (3) and N32 (4), an even vd, m and z zero. -/
def decodeMrg (w : IWord) : Except Reject Instr :=
  let d : BitVec 3 := fld w 23 3
  let t := (fld w 8 3).toNat
  zeroThen (fld w 22 1 == 0 && fld w 11 3 == 0 && !vfz w) <|
  okThen (t == 3 || t == 4) <|
  match (fld w 0 7).toNat with
  | 0 => .ok (.isect d (vfa w) (vfb w) (t == 4))
  | 1 => .ok (.union d (vfa w) (vfb w) (t == 4))
  | 2 => .ok (.merge d (vfa w) (vfb w) (t == 4))
  | _ => .error .function

/-- MSG (R326, Table 13-11). -/
def decodeMsg (w : IWord) : Except Reject Instr :=
  let d := fd w; let a := fa w; let b := fb w
  let n : BitVec 2 := fld w 8 2
  let r := bit w 10
  zeroThen (fld w 3 5 == 0) <|
  match (fld w 0 3).toNat with
  | 0 => zeroThen (d == 0 && b == 0 && n == 0) (.ok (.emit a r))
  | 1 => zeroThen (d == 0) <| okThen (payloadOk b n) (.ok (.send a b r n))
  | 2 => zeroThen (d == 0) <| okThen (payloadOk b n) (.ok (.sendr a b r n))
  | 3 => zeroThen (b == 0 && n == 0 && !r) (.ok (.evpop d a))
  | 4 => zeroThen (fld w 25 1 == 0 && b == 0 && n == 0 && !r) (.ok (.evpopv (fld w 21 4) a))
  | 5 => zeroThen (d == 0 && b == 0 && n == 0 && !r) (.ok (.rcmask a))
  | 6 => zeroThen (d == 0 && b == 0 && n == 0 && !r) (.ok (.rcunmask a))
  | _ => zeroThen (a == 0 && b == 0 && n == 0 && !r) (.ok (.ctxtok d))

/-- COPY (R258, Table 10-6). -/
def decodeCopy (w : IWord) : Except Reject Instr :=
  let d := fd w; let a := fa w; let b := fb w
  let hi := fld w 6 5 == 0
  zeroThen (fld w 3 3 == 0) <|
  match (fld w 0 3).toNat with
  | 0 => zeroThen hi (.ok (.ccopy d a b))
  | 1 => zeroThen (hi && d == 0 && b == 0) (.ok (.ccopy2d a))
  | 2 => zeroThen (hi && d == 0 && b == 0) (.ok (.cgather a))
  | 3 => zeroThen (hi && d == 0 && b == 0) (.ok (.cscatter a))
  | 4 => zeroThen (hi && a == 0 && b == 0) (.ok (.cseal d))
  | 5 => zeroThen (hi && d == 0 && b == 0) (.ok (.cwait a))
  | 6 => zeroThen (d == 0) (.ok (.syncarm a b (bit w 10) (fld w 6 4)))
  | _ => .error .function

/-- WALK (R128, Table 5-6). -/
def decodeWalk (w : IWord) : Except Reject Instr :=
  match (fld w 0 11).toNat with
  | 0 => zeroThen (fb w == 0) (.ok (.wlaunch (fd w) (fa w)))
  | 1 => zeroThen (fb w == 0) (.ok (.wsplit (fd w) (fa w)))
  | 2 => .ok (.wpermit (fd w) (fa w) (fb w))
  | 3 => zeroThen (fd w == 0 && fa w == 0 && fb w == 0) (.ok .tdone)
  | _ => .error .function

/-- GRAPH (R164, Table 6-6). -/
def decodeGraph (w : IWord) : Except Reject Instr :=
  match (fld w 0 11).toNat with
  | 0 => .ok (.nspawn (fd w) (fa w) (fb w))
  | 1 => zeroThen (fb w == 0) (.ok (.nfail (fd w) (fa w)))
  | 2 => zeroThen (fb w == 0) (.ok (.nstat (fd w) (fa w)))
  | 3 => zeroThen (fb w == 0) (.ok (.ntoken (fd w) (fa w)))
  | _ => .error .function

/-- BAR (R106, Table 4-8). -/
def decodeBar (w : IWord) : Except Reject Instr :=
  let t : Tag := fld w 8 3
  zeroThen (fld w 11 15 == 0 && fld w 3 5 == 0) <|
  match (fld w 0 3).toNat with
  | 0 => .ok (.join t)
  | 1 => .ok (.leave t)
  | 2 => .ok (.bar t)
  | 3 => .ok (.bararr t)
  | 4 => .ok (.bwait t)
  | _ => .error .function

/-- CSR (R327, Table 13-12). -/
def decodeCsr (w : IWord) : Except Reject Instr :=
  let c : BitVec 12 := fld w 4 12
  match (fld w 0 4).toNat with
  | 0 => zeroThen (fa w == 0) (.ok (.csrr (fd w) c))
  | 1 => .ok (.csrw (fd w) (fa w) c)
  | 2 => .ok (.csrs (fd w) (fa w) c)
  | 3 => .ok (.csrc (fd w) (fa w) c)
  | _ => .error .function

/-- SYS (R328, Table 13-13). -/
def decodeSys (w : IWord) : Except Reject Instr :=
  let d := fd w; let a := fa w; let b := fb w
  let mid := fld w 4 7 == 0
  match (fld w 0 4).toNat with
  | 0 => zeroThen (d == 0 && a == 0 && b == 0 && mid) (.ok .endt)
  | 1 => zeroThen (d == 0 && a == 0 && fld w 4 4 == 0) (.ok (.trap (fld w 8 8)))
  | 2 => zeroThen (d == 0 && b == 0 && mid) (.ok (.eret a))
  | 3 => zeroThen (d == 0 && b == 0 && mid) (.ok (.waitev a))
  | 4 => zeroThen (d == 0 && a == 0 && b == 0 && mid) (.ok .pause)
  | 5 => zeroThen (d == 0 && a == 0 && b == 0 && mid) (.ok .brkpt)
  | 6 => zeroThen (d == 0 && a == 0 && b == 0 && mid) (.ok .halt)
  | 7 => zeroThen (d == 0 && b == 0 && mid) (.ok (.ctxsave a))
  | 8 => zeroThen (b == 0 && mid) (.ok (.ctxload d a))
  | 9 => zeroThen (d == 0) <| valueThen (Scope.ofBits (fld w 8 3)) fun c =>
    match (fld w 4 4).toNat with
    | 0 => .ok (.tlbinvPg a b c)
    | 1 => zeroThen (a == 0) (.ok (.tlbinvRl b c))
    | 2 => zeroThen (a == 0 && b == 0) (.ok (.tlbinvAll c))
    | _ => .error .value
  | 10 => zeroThen (d == 0 && a == 0 && b == 0 && mid) (.ok .tkill)
  | _ => .error .function

/-- The decoder, by major opcode (R313, Table 13-4). -/
def decode (w : IWord) : Except Reject Instr :=
  let d := fd w; let a := fa w; let b := fb w; let i := fi w
  match (fld w 26 6).toNat with
  | 0x01 => decodeOpr w
  | 0x02 => .ok (.addi d a i)
  | 0x03 => .ok (.andi d a i)
  | 0x04 => .ok (.ori d a i)
  | 0x05 => .ok (.xori d a i)
  | 0x06 => .ok (.slti d a i)
  | 0x07 => .ok (.sltiu d a i)
  | 0x08 => decodeShift w
  | 0x09 => zeroThen (a == 0) (.ok (.lui d i))
  | 0x0A => zeroThen (a == 0) (.ok (.addpc d i))
  | 0x0B => zeroThen (a == 0) (.ok (.ldpc d i))
  | 0x0C => decodeOpf w
  | 0x0D => decodeFmac w
  | 0x0E => decodeBf w
  | 0x0F => zeroThen (fld w 0 16 == 0) (.ok (.cellkey d a))
  | 0x10 => valueThen (LdSize.ofBits (fld w 0 4)) fun z => .ok (.ld d a (fld w 4 12) z)
  | 0x11 => valueThen (StSize.ofBits (fld w 0 4)) fun z => .ok (.st d a (fld w 4 12) z)
  | 0x12 => zeroThen (fld w 6 5 == 0) <|
    valueThen (LdSize.ofBits (fld w 0 4)) fun z => .ok (.ldx d a b (fld w 4 2) z)
  | 0x13 => zeroThen (fld w 6 5 == 0) <|
    valueThen (StSize.ofBits (fld w 0 4)) fun z => .ok (.stx d a b (fld w 4 2) z)
  | 0x14 => decodeMemo w
  | 0x15 => decodeFe w
  | 0x16 => decodeQmem w
  | 0x17 => decodeCache w
  | 0x18 => .ok (.beq d a i)
  | 0x19 => .ok (.bne d a i)
  | 0x1A => .ok (.blt d a i)
  | 0x1B => .ok (.bge d a i)
  | 0x1C => .ok (.bltu d a i)
  | 0x1D => .ok (.bgeu d a i)
  | 0x1E => .ok (.jal d (fld w 0 21))
  | 0x1F => .ok (.jalr d a i)
  | 0x20 => decodeVmem false w
  | 0x21 => decodeVmem true w
  | 0x22 => decodeVop w
  | 0x23 => decodeVfma w
  | 0x24 => decodeVmsk w
  | 0x25 => decodeVred w
  | 0x26 => decodeVperm w
  | 0x27 => decodeVevt w
  | 0x28 => decodeVcvt w
  | 0x29 => decodeVact w
  | 0x2A => decodeMat w
  | 0x2B => decodeMrg w
  | 0x2C => zeroThen (fld w 0 8 == 0)
      (.ok (.rpt (fld w 22 4) (fld w 14 8) (fld w 12 2) (fld w 10 2) (fld w 8 2)))
  | 0x2D => decodeMsg w
  | 0x2E => decodeCopy w
  | 0x2F => decodeWalk w
  | 0x30 => decodeGraph w
  | 0x31 => decodeBar w
  | 0x32 => decodeCsr w
  | 0x33 => decodeSys w
  | _ => .error .majorOpcode

/-! ### The encoder -/

/-- One bit. -/
abbrev b1 (b : Bool) : BitVec 1 := BitVec.ofBool b

/-- The R and X formats: major opcode, d, a, b, fn (Table 13-3). -/
def fmtX (op : BitVec 6) (d a b : Reg) (fn : BitVec 11) : IWord := op ++ d ++ a ++ b ++ fn

/-- The I format. -/
def fmtI (op : BitVec 6) (d a : Reg) (i : BitVec 16) : IWord := op ++ d ++ a ++ i

/-- OPR: the W bit, four zeros and fn (R314). -/
def encOpr (d a b : Reg) (w : Bool) (fn : BitVec 6) : IWord := fmtX 0x01#6 d a b (b1 w ++ 0#4 ++ fn)

/-- SHIFTI (R315). -/
def encShift (k : BitVec 2) (d a : Reg) (w : Bool) (s : BitVec 6) : IWord := fmtI 0x08#6 d a (k ++ 0#7 ++ b1 w ++ s)

/-- OPF (R316). -/
def encOpf (d a b : Reg) (f : FFmt) (r : BitVec 3) (fn : BitVec 5) : IWord := fmtX 0x0C#6 d a b (f.toBits ++ r ++ fn)

/-- FMAC (R317). -/
def encFmac (v : BitVec 2) (d a b c : Reg) (f64 : Bool) (r : Rm) : IWord :=
  fmtX 0x0D#6 d a b (c ++ b1 f64 ++ v ++ r.toBits)

/-- The M format (Table 13-3). -/
def encM (op : BitVec 6) (d a b : Reg) (c : Scope) (o : MemOrder) (z : BitVec 2) (fn : BitVec 4) : IWord :=
  fmtX op d a b (c.toBits ++ o.toBits ++ z ++ fn)

/-- The V format (Table 13-3). -/
def encV (op : BitVec 6) (d a b : VReg) (m : MReg) (t : BitVec 3) (z : Bool) (fn : BitVec 7) : IWord :=
  op ++ d ++ a ++ b ++ m ++ t ++ b1 z ++ fn

/-- The VM format (Table 13-3). -/
def encVM (op : BitVec 6) (d : VReg) (g s : Reg) (m : MReg) (e : ESize) (fn : BitVec 7) : IWord :=
  op ++ d ++ g ++ s ++ m ++ e.toBits ++ fn

/-- The VG format (Table 13-3). -/
def encVG (op : BitVec 6) (v : VReg) (g gi : Reg) (t : VType) (fn : BitVec 7) : IWord :=
  op ++ v ++ g ++ gi ++ 0#1 ++ t.toBits ++ 0#1 ++ fn

/-- The VCVT family (R325). -/
def encCvt (d a s : BitVec 4) (m : MReg) (dst : CvtFmt) (r : Rm) (fn : BitVec 4) : IWord :=
  0x28#6 ++ d ++ a ++ s ++ m ++ dst.toBits ++ r.toBits ++ fn

/-- MSG (R326). -/
def encMsg (d a b : Reg) (r : Bool) (n : BitVec 2) (fn : BitVec 3) : IWord :=
  fmtX 0x2D#6 d a b (b1 r ++ n ++ 0#5 ++ fn)

/-- BAR (R106). -/
def encBar (t : Tag) (fn : BitVec 3) : IWord := 0x31#6 ++ 0#15 ++ t ++ 0#5 ++ fn

/-- CSR (R327). -/
def encCsr (d a : Reg) (c : BitVec 12) (fn : BitVec 4) : IWord := 0x32#6 ++ d ++ a ++ c ++ fn

/-- The word of an instruction; a step of the hardware has none. -/
def encode : Instr → Option IWord
  | .add d a b w => some (encOpr d a b w 0x00#6)
  | .sub d a b w => some (encOpr d a b w 0x01#6)
  | .and d a b => some (encOpr d a b false 0x02#6)
  | .or d a b => some (encOpr d a b false 0x03#6)
  | .xor d a b => some (encOpr d a b false 0x04#6)
  | .sll d a b w => some (encOpr d a b w 0x05#6)
  | .srl d a b w => some (encOpr d a b w 0x06#6)
  | .sra d a b w => some (encOpr d a b w 0x07#6)
  | .slt d a b => some (encOpr d a b false 0x08#6)
  | .sltu d a b => some (encOpr d a b false 0x09#6)
  | .min d a b => some (encOpr d a b false 0x0A#6)
  | .max d a b => some (encOpr d a b false 0x0B#6)
  | .minu d a b => some (encOpr d a b false 0x0C#6)
  | .maxu d a b => some (encOpr d a b false 0x0D#6)
  | .mul d a b w => some (encOpr d a b w 0x0E#6)
  | .mulh d a b => some (encOpr d a b false 0x0F#6)
  | .mulhu d a b => some (encOpr d a b false 0x10#6)
  | .div d a b w => some (encOpr d a b w 0x11#6)
  | .divu d a b w => some (encOpr d a b w 0x12#6)
  | .rem d a b w => some (encOpr d a b w 0x13#6)
  | .remu d a b w => some (encOpr d a b w 0x14#6)
  | .cmovnz d a b => some (encOpr d a b false 0x15#6)
  | .cmovz d a b => some (encOpr d a b false 0x16#6)
  | .clz d a w => some (encOpr d a 0#5 w 0x17#6)
  | .ctz d a w => some (encOpr d a 0#5 w 0x18#6)
  | .popc d a w => some (encOpr d a 0#5 w 0x19#6)
  | .addi d a i => some (fmtI 0x02#6 d a i)
  | .andi d a i => some (fmtI 0x03#6 d a i)
  | .ori d a i => some (fmtI 0x04#6 d a i)
  | .xori d a i => some (fmtI 0x05#6 d a i)
  | .slti d a i => some (fmtI 0x06#6 d a i)
  | .sltiu d a i => some (fmtI 0x07#6 d a i)
  | .slli d a w s => some (encShift 0#2 d a w s)
  | .srli d a w s => some (encShift 1#2 d a w s)
  | .srai d a w s => some (encShift 2#2 d a w s)
  | .lui d i => some (fmtI 0x09#6 d 0#5 i)
  | .addpc d i => some (fmtI 0x0A#6 d 0#5 i)
  | .ldpc d i => some (fmtI 0x0B#6 d 0#5 i)
  | .fadd d a b f r => some (encOpf d a b f r.toBits 0#5)
  | .fsub d a b f r => some (encOpf d a b f r.toBits 1#5)
  | .fmul d a b f r => some (encOpf d a b f r.toBits 2#5)
  | .fdiv d a b f r => some (encOpf d a b f r.toBits 3#5)
  | .fsqrt d a f r => some (encOpf d a 0#5 f r.toBits 4#5)
  | .fmin d a b f => some (encOpf d a b f 0#3 5#5)
  | .fmax d a b f => some (encOpf d a b f 0#3 6#5)
  | .feq d a b f => some (encOpf d a b f 0#3 7#5)
  | .flt d a b f => some (encOpf d a b f 0#3 8#5)
  | .fle d a b f => some (encOpf d a b f 0#3 9#5)
  | .fclass d a f => some (encOpf d a 0#5 f 0#3 10#5)
  | .fcvtI d a t f r => some (encOpf d a t.toBits f r.toBits 11#5)
  | .fcvtF d a t f r => some (encOpf d a t.toBits f r.toBits 12#5)
  | .fcvtFF d a s f r => some (encOpf d a (0#2 ++ s.toBits) f r.toBits 13#5)
  | .fsgn d a b f m => some (encOpf d a b f m.toBits 14#5)
  | .fma d a b c f r => some (encFmac 0#2 d a b c f r)
  | .fms d a b c f r => some (encFmac 1#2 d a b c f r)
  | .fnma d a b c f r => some (encFmac 2#2 d a b c f r)
  | .fnms d a b c f r => some (encFmac 3#2 d a b c f r)
  | .bext d a p l => some (fmtI 0x0E#6 d a (p ++ l ++ 0#4))
  | .bextu d a p l => some (fmtI 0x0E#6 d a (p ++ l ++ 1#4))
  | .bins d a p l => some (fmtI 0x0E#6 d a (p ++ l ++ 2#4))
  | .cellkey d a => some (fmtI 0x0F#6 d a 0#16)
  | .ld d a i z => some (fmtI 0x10#6 d a (i ++ z.toBits))
  | .st s a i z => some (fmtI 0x11#6 s a (i ++ z.toBits))
  | .ldx d a b k z => some (fmtX 0x12#6 d a b (0#5 ++ k ++ z.toBits))
  | .stx s a b k z => some (fmtX 0x13#6 s a b (0#5 ++ k ++ z.toBits))
  | .ldo d a c o z => some (encM 0x14#6 d a 0#5 c o z.toBits 0#4)
  | .sto a b c o z => some (encM 0x14#6 0#5 a b c o z.toBits 1#4)
  | .amoAdd d a b c o z => some (encM 0x14#6 d a b c o z.toBits 2#4)
  | .amoAnd d a b c o z => some (encM 0x14#6 d a b c o z.toBits 3#4)
  | .amoOr d a b c o z => some (encM 0x14#6 d a b c o z.toBits 4#4)
  | .amoXor d a b c o z => some (encM 0x14#6 d a b c o z.toBits 5#4)
  | .amoMin d a b c o z => some (encM 0x14#6 d a b c o z.toBits 6#4)
  | .amoMax d a b c o z => some (encM 0x14#6 d a b c o z.toBits 7#4)
  | .amoMinu d a b c o z => some (encM 0x14#6 d a b c o z.toBits 8#4)
  | .amoMaxu d a b c o z => some (encM 0x14#6 d a b c o z.toBits 9#4)
  | .amoSwap d a b c o z => some (encM 0x14#6 d a b c o z.toBits 10#4)
  | .amoCas d a b c o z => some (encM 0x14#6 d a b c o z.toBits 11#4)
  | .amoFadd d a b c o z => some (encM 0x14#6 d a b c o z.toBits 12#4)
  | .fence c o sc => some (encM 0x14#6 0#5 0#5 0#5 c o (0#1 ++ b1 sc) 13#4)
  | .ldfe d a c => some (encM 0x15#6 d a 0#5 c .plain 1#2 0#4)
  | .ldfeTake d a c => some (encM 0x15#6 d a 0#5 c .plain 1#2 1#4)
  | .stfe a b c => some (encM 0x15#6 0#5 a b c .plain 1#2 2#4)
  | .stfeFill a b c => some (encM 0x15#6 0#5 a b c .plain 1#2 3#4)
  | .feempty a => some (encM 0x15#6 0#5 a 0#5 .core .plain 1#2 4#4)
  | .feprobe d a => some (encM 0x15#6 d a 0#5 .core .plain 1#2 5#4)
  | .qread d a b k => some (fmtX 0x16#6 d a b (0#1 ++ k ++ 0#8))
  | .qstore d a => some (fmtX 0x16#6 d a 0#5 1#11)
  | .pref a => some (fmtX 0x17#6 0#5 a 0#5 0#11)
  | .clean a => some (fmtX 0x17#6 0#5 a 0#5 1#11)
  | .inval a => some (fmtX 0x17#6 0#5 a 0#5 2#11)
  | .zerol a => some (fmtX 0x17#6 0#5 a 0#5 3#11)
  | .beq a b i => some (fmtI 0x18#6 a b i)
  | .bne a b i => some (fmtI 0x19#6 a b i)
  | .blt a b i => some (fmtI 0x1A#6 a b i)
  | .bge a b i => some (fmtI 0x1B#6 a b i)
  | .bltu a b i => some (fmtI 0x1C#6 a b i)
  | .bgeu a b i => some (fmtI 0x1D#6 a b i)
  | .jal d i => some (0x1E#6 ++ d ++ i)
  | .jalr d a i => some (fmtI 0x1F#6 d a i)
  | .vld d b m e => some (encVM 0x20#6 d b 0#5 m e 0#7)
  | .vlds d b s m e => some (encVM 0x20#6 d b s m e 1#7)
  | .vldx d b i m e => some (encVM 0x20#6 d b (0#1 ++ i) m e 2#7)
  | .vst d b m e => some (encVM 0x21#6 d b 0#5 m e 0#7)
  | .vsts d b s m e => some (encVM 0x21#6 d b s m e 1#7)
  | .vstx d b i m e => some (encVM 0x21#6 d b (0#1 ++ i) m e 2#7)
  | .vadd d a b m t z s => some (encV 0x22#6 d a b m t.toBits z (b1 s ++ 0#6))
  | .vsub d a b m t z s => some (encV 0x22#6 d a b m t.toBits z (b1 s ++ 1#6))
  | .vmul d a b m t z s => some (encV 0x22#6 d a b m t.toBits z (b1 s ++ 2#6))
  | .vmin d a b m t z => some (encV 0x22#6 d a b m t.toBits z 3#7)
  | .vmax d a b m t z => some (encV 0x22#6 d a b m t.toBits z 4#7)
  | .vand d a b m t z => some (encV 0x22#6 d a b m t.toBits z 7#7)
  | .vor d a b m t z => some (encV 0x22#6 d a b m t.toBits z 8#7)
  | .vxor d a b m t z => some (encV 0x22#6 d a b m t.toBits z 9#7)
  | .vshl d a b m t z => some (encV 0x22#6 d a b m t.toBits z 10#7)
  | .vshr d a b m t z => some (encV 0x22#6 d a b m t.toBits z 11#7)
  | .vabs d a m t z => some (encV 0x22#6 d a 0#4 m t.toBits z 5#7)
  | .vneg d a m t z => some (encV 0x22#6 d a 0#4 m t.toBits z 6#7)
  | .vmov d a m t z => some (encV 0x22#6 d a 0#4 m t.toBits z 16#7)
  | .vcmpeq d a b m t => some (encV 0x22#6 (0#1 ++ d) a b m t.toBits false 12#7)
  | .vcmplt d a b m t => some (encV 0x22#6 (0#1 ++ d) a b m t.toBits false 13#7)
  | .vcmple d a b m t => some (encV 0x22#6 (0#1 ++ d) a b m t.toBits false 14#7)
  | .vsel d a b m t => some (encV 0x22#6 d a b m t.toBits false 15#7)
  | .vsplat v g t => some (encVG 0x22#6 v g 0#5 t 17#7)
  | .vext v g i t => some (encVG 0x22#6 v g i t 18#7)
  | .vins v g i t => some (encVG 0x22#6 v g i t 19#7)
  | .vfma d a b m t z => some (encV 0x23#6 d a b m t.toBits z 0#7)
  | .vfms d a b m t z => some (encV 0x23#6 d a b m t.toBits z 1#7)
  | .vfnma d a b m t z => some (encV 0x23#6 d a b m t.toBits z 2#7)
  | .mand d a b => some (encV 0x24#6 (0#1 ++ d) (0#1 ++ a) (0#1 ++ b) 0#3 0#3 false 0#7)
  | .mor d a b => some (encV 0x24#6 (0#1 ++ d) (0#1 ++ a) (0#1 ++ b) 0#3 0#3 false 1#7)
  | .mxor d a b => some (encV 0x24#6 (0#1 ++ d) (0#1 ++ a) (0#1 ++ b) 0#3 0#3 false 2#7)
  | .mnot d a => some (encV 0x24#6 (0#1 ++ d) (0#1 ++ a) 0#4 0#3 0#3 false 3#7)
  | .mpopc v g t => some (encVG 0x24#6 (0#1 ++ v) g 0#5 t 4#7)
  | .msetn v g t => some (encVG 0x24#6 (0#1 ++ v) g 0#5 t 5#7)
  | .vredadd d a m t => some (encV 0x25#6 d a 0#4 m t.toBits false 0#7)
  | .vredmax d a m t => some (encV 0x25#6 d a 0#4 m t.toBits false 1#7)
  | .vredmin d a m t => some (encV 0x25#6 d a 0#4 m t.toBits false 2#7)
  | .vperm d a b m t z => some (encV 0x26#6 d a b m t.toBits z 0#7)
  | .vrot d a b m t z => some (encV 0x26#6 d a b m t.toBits z 1#7)
  | .vcompress d a m t => some (encV 0x26#6 d a 0#4 m t.toBits false 2#7)
  | .vscmac d a b => some (fmtX 0x27#6 d a b 0#11)
  | .vdring d a b => some (fmtX 0x27#6 d a b 1#11)
  | .vsdscan d a b => some (fmtX 0x27#6 d a b 2#11)
  | .vdtick d a => some (fmtX 0x27#6 d a 0#5 3#11)
  | .vcvt d a src m dst r => some (encCvt d a src.toBits m dst r 0#4)
  | .vquant d a b m dst r => some (encCvt d a b m dst r 1#4)
  | .vact d a m z c => some (encV 0x29#6 d a 0#4 m 0#3 z (0#4 ++ c.toBits))
  | .mma c a b => some (fmtX 0x2A#6 (0#3 ++ c) a b 0#11)
  | .mmas c a b => some (fmtX 0x2A#6 (0#3 ++ c) a b 1#11)
  | .mzero c => some (fmtX 0x2A#6 (0#3 ++ c) 0#5 0#5 2#11)
  | .mldacc c a => some (fmtX 0x2A#6 (0#3 ++ c) a 0#5 3#11)
  | .mstacc c a => some (fmtX 0x2A#6 (0#3 ++ c) a 0#5 4#11)
  | .mxform c s b => some (fmtX 0x2A#6 (0#3 ++ c) (0#3 ++ s) b 5#11)
  | .mwait d => some (fmtX 0x2A#6 d 0#5 0#5 6#11)
  | .isect d a b n => some (encV 0x2B#6 (d ++ 0#1) a b 0#3 (if n then 4#3 else 3#3) false 0#7)
  | .union d a b n => some (encV 0x2B#6 (d ++ 0#1) a b 0#3 (if n then 4#3 else 3#3) false 1#7)
  | .merge d a b n => some (encV 0x2B#6 (d ++ 0#1) a b 0#3 (if n then 4#3 else 3#3) false 2#7)
  | .rpt k n sd sa sb => some (0x2C#6 ++ k ++ n ++ sd ++ sa ++ sb ++ 0#8)
  | .emit a r => some (encMsg 0#5 a 0#5 r 0#2 0#3)
  | .send a b r n => some (encMsg 0#5 a b r n 1#3)
  | .sendr a b r n => some (encMsg 0#5 a b r n 2#3)
  | .evpop d a => some (encMsg d a 0#5 false 0#2 3#3)
  | .evpopv v a => some (encMsg (0#1 ++ v) a 0#5 false 0#2 4#3)
  | .rcmask a => some (encMsg 0#5 a 0#5 false 0#2 5#3)
  | .rcunmask a => some (encMsg 0#5 a 0#5 false 0#2 6#3)
  | .ctxtok d => some (encMsg d 0#5 0#5 false 0#2 7#3)
  | .ccopy d a b => some (fmtX 0x2E#6 d a b 0#11)
  | .ccopy2d a => some (fmtX 0x2E#6 0#5 a 0#5 1#11)
  | .cgather a => some (fmtX 0x2E#6 0#5 a 0#5 2#11)
  | .cscatter a => some (fmtX 0x2E#6 0#5 a 0#5 3#11)
  | .cseal d => some (fmtX 0x2E#6 d 0#5 0#5 4#11)
  | .cwait a => some (fmtX 0x2E#6 0#5 a 0#5 5#11)
  | .syncarm a b lv l => some (fmtX 0x2E#6 0#5 a b (b1 lv ++ l ++ 6#6))
  | .wlaunch d a => some (fmtX 0x2F#6 d a 0#5 0#11)
  | .wsplit d a => some (fmtX 0x2F#6 d a 0#5 1#11)
  | .wpermit d a b => some (fmtX 0x2F#6 d a b 2#11)
  | .tdone => some (fmtX 0x2F#6 0#5 0#5 0#5 3#11)
  | .nspawn d a b => some (fmtX 0x30#6 d a b 0#11)
  | .nfail d a => some (fmtX 0x30#6 d a 0#5 1#11)
  | .nstat d a => some (fmtX 0x30#6 d a 0#5 2#11)
  | .ntoken d a => some (fmtX 0x30#6 d a 0#5 3#11)
  | .join t => some (encBar t 0#3)
  | .leave t => some (encBar t 1#3)
  | .bar t => some (encBar t 2#3)
  | .bararr t => some (encBar t 3#3)
  | .bwait t => some (encBar t 4#3)
  | .csrr d c => some (encCsr d 0#5 c 0#4)
  | .csrw d a c => some (encCsr d a c 1#4)
  | .csrs d a c => some (encCsr d a c 2#4)
  | .csrc d a c => some (encCsr d a c 3#4)
  | .endt => some (fmtX 0x33#6 0#5 0#5 0#5 0#11)
  | .trap c => some (0x33#6 ++ 0#10 ++ c ++ 1#8)
  | .eret a => some (fmtX 0x33#6 0#5 a 0#5 2#11)
  | .waitev a => some (fmtX 0x33#6 0#5 a 0#5 3#11)
  | .pause => some (fmtX 0x33#6 0#5 0#5 0#5 4#11)
  | .brkpt => some (fmtX 0x33#6 0#5 0#5 0#5 5#11)
  | .halt => some (fmtX 0x33#6 0#5 0#5 0#5 6#11)
  | .ctxsave a => some (fmtX 0x33#6 0#5 a 0#5 7#11)
  | .ctxload d a => some (fmtX 0x33#6 d a 0#5 8#11)
  | .tlbinvPg a b c => some (fmtX 0x33#6 0#5 a b (c.toBits ++ 0#4 ++ 9#4))
  | .tlbinvRl b c => some (fmtX 0x33#6 0#5 0#5 b (c.toBits ++ 1#4 ++ 9#4))
  | .tlbinvAll c => some (fmtX 0x33#6 0#5 0#5 0#5 (c.toBits ++ 2#4 ++ 9#4))
  | .tkill => some (fmtX 0x33#6 0#5 0#5 0#5 10#11)
  | _ => none

/-- The decoder as an option: the instruction a word holds, if any. -/
def decode? (w : IWord) : Option Instr :=
  match decode w with
  | .ok i => some i
  | .error _ => none

/-- The four bytes of a word as they lie in memory, lowest address first (R311). -/
def wordBytes (w : IWord) : List Byte :=
  [w.extractLsb' 0 8, w.extractLsb' 8 8, w.extractLsb' 16 8, w.extractLsb' 24 8]

/-- The word that four bytes in memory hold (R311). -/
def bytesWord : List Byte → IWord
  | [b0, b1, b2, b3] => b3 ++ b2 ++ b1 ++ b0
  | _ => 0

/-- The instruction that a table row's bits hold: the row's word, laid out as memory holds it and read back. A step of
the hardware has no bits. -/
def decodeTableWord (nbits w : Nat) : Option Instr :=
  if nbits = 0 then none else decode? (bytesWord (wordBytes (BitVec.ofNat 32 w)))

end Sys2Proof
end

