-- ==== Sys2Proof/Machine/State.lean ====
section
/-!
DEFINITION. The state of a package as plain data: cores with their contexts and engines, clusters, routers, walkers, the
Ephemeris, barrier tags, memory, the host interface, the management core. Every default value is the value at reset,
so a unit that no map lists stands as reset leaves it. Fields marked MODEL are the model's own and not the spec's.
-/

namespace Sys2Proof.Machine

/-! ### How a step stops -/

/-- Reasons a run stops with a fault. -/
inductive Fault where
  /-- Raised by `step` when the agenda asks a context to issue that holds no task, or that sleeps, is frozen, paused or
  halted (R84, R98): no such step exists in the part. Safe. -/
  | notReady
  deriving DecidableEq, Repr

/-- Reasons an instruction has no meaning. -/
inductive Refusal where
  /-- Raised by `exec` for an instruction whose meaning is not written. Safe. -/
  | notModelled (mnemonic : String)
  deriving DecidableEq, Repr

/-! ### Traps -/

/-- Trap causes (R268, Table 11-1). -/
inductive Cause where
  | illegal | priv | align | page | prot | bounds | waitLimit | budget | poison | barrier | coproc | msgLen | cls
  | brk | watch | syscall | rpt | qspan | walk | graph
  deriving DecidableEq, Repr


/-- Wait kinds (R270, Table 11-2). -/
inductive WaitKind where
  | fullEmpty | barrier | event | cwait | cseal | send | queue | fifo
  deriving DecidableEq, Repr

/-- A trap as it is raised: what the trap CSRs will hold (R271, Table 11-3). `slot` is the frozen context's slot, or none
for WALK and for notices. `time` is the cycle in which a held trap was raised, and `wait` the kind and the awaited item of
the wait that the trap ended (R363). -/
structure TrapRec where
  cause : Cause
  pc    : Word
  val   : Word
  ctx   : Word
  seq   : BitVec 16
  slot  : Option Nat
  imprec : Bool
  time  : Nat := 0
  wait  : Option (WaitKind × Word) := none
  deriving DecidableEq, Repr

/-- The trap CSRs of a core (Table 11-3) and the traps it holds, in the order in which they were raised (R271). -/
structure TrapCsrs where
  tcause : BitVec 8 := 0
  tpc : Word := 0
  tval : Word := 0
  tseq : BitVec 16 := 0
  gen : BitVec 8 := 0
  active : Bool := false
  ctxv : Bool := false
  slot : BitVec 3 := 0
  imprec : Bool := false
  wskip : Bool := false
  tvec : BitVec 62 := 0
  tscratch : Word := 0
  tctx : Word := 0
  held : List TrapRec := []
  /-- the trap being handled, as it was raised: what ERET, TKILL, CTXSAVE and NFAIL dispose of (R274) -/
  handled : Option TrapRec := none
  deriving DecidableEq, Repr

/-- Where an access goes (R166 to R175): a resolved address. -/
inductive Place where
  /-- local SRAM of a core at an offset; through the window or not (R168) -/
  | sram (core off : Nat) (win : Bool)
  /-- cluster scratch -/
  | scratch (cluster off : Nat) (win : Bool)
  /-- a FIFO port: bank and port offset (R180) -/
  | fifo (cluster bank port : Nat)
  /-- LPDDR6 or scheduler memory at a package offset; NC and C of the page -/
  | global (off : Nat) (nc const : Bool)
  /-- the host aperture at a package offset -/
  | host (off : Nat) (nc const : Bool)
  /-- a device register at a BAR0 offset -/
  | device (off : Nat)
  /-- another package: package number, and the window or physical address there -/
  | other (pkg : Nat) (addr : Nat) (win : Bool)
  deriving DecidableEq, Repr

/-! ### Contexts -/

/-- A wait in progress (R84, R270): its kind, the TVAL that names what is awaited, the cycles of WAITLIM left. `redo` marks
a wait whose instruction is to execute again, with the cycles it has left (R283, R362); `mark` is the number of faulted batches
that a CWAIT has seen (R364). -/
structure Wait where
  kind : WaitKind
  val  : Word
  left : Nat
  mark : Nat := 0
  redo : Bool := false
  deriving DecidableEq, Repr

/-- What a fault of a copy holds (R261, R263): cause, address, and the instruction's fn. -/
structure CopyFault where
  cause : Cause
  addr  : Word
  fn    : Nat
  deriving DecidableEq, Repr

/-- A sealed batch that has not finished (R262): its number and, once a copy of it has faulted, the first fault (R263). -/
structure Batch where
  num : BitVec 16
  fault : Option CopyFault := none
  deriving DecidableEq, Repr

/-- A release in progress (R202): its scope value and the observed set when it began. -/
structure Releasing where
  scope : Scope
  obs : BitVec 16
  deriving DecidableEq, Repr

/-- A context of a core (R87, R89, Table 4-1, and the CSRs of Table 13-16 held per context). Unless a rule gives a value
the defaults are a DESIGN CHOICE (log 1). -/
structure Ctx where
  /-- the slot holds a task; slot 7 runs -/
  occupied : Bool := false
  /-- the cycle in which its task left the slot, which is not yet free (R86) -/
  freed : Option Nat := none
  /-- the writes of QUANTUM that its cluster had seen when the task started (R100) -/
  qver : Nat := 0
  gen : BitVec 8 := 0
  /-- g1 to g31; g0 is never stored (R309) -/
  g : FMap Word := []
  gpsn : FMap Bool := []
  lock : FMap Bool := []
  pc : Word := 0
  fflags : BitVec 5 := 0
  frm : BitVec 3 := 0
  waitlim : BitVec 32 := 0
  tbudget : BitVec 32 := 0
  prio : BitVec 2 := 0
  realm : BitVec 12 := 0
  tinfo : Word := 0
  walkid : Word := 0
  nodeid : Word := 0
  launch : Word := 0
  instret : Word := 0
  barMember : BitVec 8 := 0
  barArr : BitVec 16 := 0
  /-- CSEQ.LAST (Table 10-9) -/
  cseq : BitVec 16 := 0
  /-- sealed unfinished batches, oldest first -/
  batches : List Batch := []
  /-- copies joined to the open batch (OPENN) -/
  openN : Nat := 0
  /-- the first fault of the open batch -/
  openFault : Option CopyFault := none
  /-- the batch whose fault CWAIT or ENDT has raised (R263) -/
  copyFaulted : Option (BitVec 16) := none
  pulse : BitVec 16 := 0
  /-- observed set (R202): all ones at task start -/
  obs : BitVec 16 := 0xFFFF
  wait : Option Wait := none
  pauseLeft : Nat := 0
  /-- the barrier wait in progress (R107): the generation awaited, and whether the instruction acts anew after it (IN2) -/
  barAwait : Option (Nat × Bool) := none
  /-- a barrier wait that ERET resumes without a new arrival (R107) -/
  barResume : Bool := false
  /-- a JOIN is on its way to the tree (R439) -/
  joining : Bool := false
  releasing : Option Releasing := none
  /-- frozen by a trap (R271) or by a stop (R283) -/
  frozen : Bool := false
  bypass : Nat := 0
  /-- a GRAPH trap pending at the next boundary: the node id (R268, R273) -/
  graphTrap : Option Word := none
  /-- the next instruction completes without core watchpoints (R288) -/
  wskip : Bool := false
  /-- the number of the posted access whose answer the instruction at PC awaits (R175, R189, R348, R186) -/
  await : Option Nat := none
  /-- the answer that has come for it: data, poison -/
  answer : Option (Word × Bool) := none
  /-- the answer that came while the core was stopped is a fault: its cause and the address (R175, R283) -/
  answerErr : Option (Cause × Word) := none
  /-- what the awaited access asked of another package: the addresses as issued and where they lead (R175) -/
  asked : List (Word × Place) := []
  /-- the packet handed to the network interface and not yet accepted (R367) -/
  sending : Option Packet := none
  /-- MODEL: the context issued in this cycle and stalled -/
  stalled : Bool := false
  deriving DecidableEq, Repr

/-! ### Engines -/

/-- An engine instruction dispatched and not retired (R241): its sequence number and PC, the word, the captured
operands with their poison, and what it captured of the configuration. -/
structure Entry where
  seq : BitVec 16
  /-- the generation of the task that dispatched it -/
  gen : BitVec 8 := 0
  pc : Word
  word : IWord
  opA : Word := 0
  opB : Word := 0
  psnA : Bool := false
  psnB : Bool := false
  /-- the general register locked for its result (R244) -/
  d : Option Reg := none
  /-- the registers locked against writes until it retires (R244) -/
  srcs : List Reg := []
  /-- posted accesses below this number come before it (R208) -/
  mark : Nat := 0
  frm : BitVec 3 := 0
  realm : BitVec 12 := 0
  cfg0 : Word := 0
  cfg1 : Word := 0
  cfg2 : Word := 0
  cfg3 : Word := 0
  /-- frame word: the strides and repeat count of its RPT, n less one (R248) -/
  frame : Option (BitVec 8 × BitVec 2 × BitVec 2 × BitVec 2) := none
  /-- replays completed (REP) -/
  rep : Nat := 0
  /-- progress (PROG, Table 11-10) -/
  prog : Nat := 0
  /-- the flags of the part done, raised at retirement (R229) -/
  fl : BitVec 5 := 0
  /-- the 16 words that EVPOPV popped, with their poison (R371) -/
  popped : List (Word × Bool) := []
  deriving DecidableEq, Repr

/-- STATE of a dispatch-ring entry (Table 10-2). -/
inductive RingState where
  | retired | live | faulted | discarded
  deriving DecidableEq, Repr

/-- An entry of the dispatch ring (R246, Table 10-2). -/
structure RingEntry where
  seq : BitVec 16 := 0
  state : RingState := .retired
  pc : Word := 0
  word : IWord := 0
  rep : BitVec 8 := 0
  opA : Word := 0
  opB : Word := 0
  deriving DecidableEq, Repr

/-- A flit of a scan that the network interface has not accepted (R40): its poison, the element's new reconstruction (none
for the tick), and whether its count was clamped. -/
structure ScanFlit where
  word : Word
  psn : Bool := false
  recon : Option (BitVec 32) := none
  clamped : Bool := false
  deriving DecidableEq, Repr

/-- A scan in progress in the event pipe (R39, R40): the descriptor's words as they stand, the element to examine next,
what it has counted, and the flit that waits. -/
structure Scan where
  words : List Word
  elem : Nat
  emitted : Nat := 0
  clamped : Nat := 0
  nan : Bool := false
  psn : Bool := false
  ticked : Bool := false
  fl : BitVec 5 := 0
  flit : Option ScanFlit := none
  /-- the scan began on another core: what it counted there stands in no image (R44) -/
  moved : Bool := false
  deriving DecidableEq, Repr

/-- The registers of the engine task of slot 0 (R309, Table 10-4), with the valid bits of R87. -/
structure EngRegs where
  v : FMap (BitVec 1024) := []
  vpsn : FMap (BitVec 128) := []
  vvalid : BitVec 16 := 0
  m : FMap (BitVec 128) := []
  mpsn : FMap Bool := []
  mvalid : BitVec 7 := 0
  /-- element (i, j) of acc t at key 4096t + 64i + j -/
  acc : FMap (BitVec 32) := []
  accPsn : FMap Bool := []
  accValid : BitVec 4 := 0
  matcfg0 : Word := 0
  matcfg1 : Word := 0
  matcfg2 : Word := 0
  matcfg3 : Word := 0
  progValid : Bool := false
  progGroup : BitVec 5 := 0
  progAcc : BitVec 2 := 0
  /-- the number that the task dispatched last (R256) -/
  last : Option (BitVec 16) := none
  deriving DecidableEq, Repr

/-- The part of the quad engine that serves one core (R241 to R256). -/
structure Engine extends EngRegs where
  /-- the dispatch queue, head first -/
  queue : List Entry := []
  /-- the RPT in the frame register, with the entries of its frame still to grant (R241, R243) -/
  rptHeld : Option (BitVec 16) := none
  /-- granted and not retired -/
  running : List Entry := []
  /-- faulted or discarded entries, awaiting replay or drop (R245, R247) -/
  dropped : List Entry := []
  /-- the pending fault, or the one being handled: sequence number, TVAL (R245) -/
  fault : Option (BitVec 16 × Word) := none
  /-- COPROC has been raised for the fault and not yet answered (R245) -/
  raised : Bool := false
  nextSeq : BitVec 16 := 0
  ring : FMap RingEntry := []
  ersel : BitVec 6 := 0
  erDrop : Bool := false
  scan : Option Scan := none
  /-- the registers of killed tasks of slot 0 that still have instructions outstanding, by generation (R274) -/
  old : List (BitVec 8 × EngRegs) := []
  deriving DecidableEq, Repr

/-! ### Cores -/

/-- The registers of one class at a core (Tables 2-6, 2-8, 4-4), and whether it is enabled, pending, or has a handler. -/
structure ClassRegs where
  mode : BitVec 2 := 0
  logsize : BitVec 4 := 0
  base : BitVec 16 := 0
  head : BitVec 17 := 0
  tail : BitVec 17 := 0
  thresh : BitVec 32 := 0
  handler : Word := 0
  dropq : BitVec 32 := 0
  dropf : BitVec 32 := 0
  evdrop : Bool := false
  enabled : Bool := false
  pending : Bool := false
  deriving DecidableEq, Repr

/-- A copy of a sent task message in the retry buffer (R94). -/
structure Retry where
  packet : Packet
  refused : Bool := false
  /-- order of first sending -/
  order : Nat
  deriving DecidableEq, Repr

/-- A task start that waits at a core for a slot (R126, R150): a tile or a node task. -/
structure Start where
  engine : Bool
  prio : BitVec 2
  entry : Word
  args : List (Word × Bool)
  budget : BitVec 32
  realm : BitVec 12
  tinfo : Word
  walkid : Word
  nodeid : Word
  launch : Word
  deriving DecidableEq, Repr

/-- A watchpoint (R287, Table 11-11). -/
structure Watchpoint where
  addr : Word := 0
  en : Bool := false
  rd : Bool := false
  wr : Bool := false
  x : Bool := false
  len : BitVec 6 := 3
  realm : BitVec 12 := 0
  rmatch : Bool := false
  target : BitVec 22 := 0
  deriving DecidableEq, Repr

/-- An address translation as a TLB holds it (R185): realm, the page's first address, log2 of its size, the page's
physical address and its permission bits [6:2]. -/
structure TlbEntry where
  realm : BitVec 12
  vpage : Nat
  logSize : Nat
  ppage : Nat
  perms : BitVec 5
  deriving DecidableEq, Repr

/-- A core (R84, Table 4-3, Table 11-3 and the other CSRs held per core). -/
structure Core where
  slots : FMap Ctx := []
  classes : FMap ClassRegs := []
  sptop : FMap (BitVec 44) := []
  droplogCount : BitVec 7 := 0
  droplogBase : BitVec 10 := 0
  discards : BitVec 16 := 0
  writes : BitVec 48 := 0
  orphans : BitVec 32 := 0
  /-- packets that have reached the network interface, oldest first -/
  arrivals : List Packet := []
  vc4buf : List Packet := []
  retry : FMap (Option Retry) := []
  retryOrder : Nat := 0
  /-- refusal list: sender core, its package, slot kind engine? (R93) -/
  refusals : List (BitVec 10 × BitVec 13 × Bool) := []
  refusalOverflow : Bool := false
  starts : List Start := []
  /-- tile starts on their way to the core (R125) -/
  incoming : List Start := []
  trap : TrapCsrs := {}
  watchq : BitVec 32 := 0
  errCount : Word := 0
  errLogn : BitVec 4 := 0
  errBase : BitVec 13 := 0
  errEn : Bool := false
  engine : Engine := {}
  watch : FMap Watchpoint := []
  sramWatch : FMap Watchpoint := []
  /-- round-robin positions of R98: slot last chosen at each level, and by age at key 4 -/
  rr : FMap Nat := []
  halted : Bool := false
  microTlb : List TlbEntry := []
  /-- frozen by a stop (R283) -/
  stopped : Bool := false
  /-- MODEL: slot 7 stands at firmware whose words no rule gives, and issues nothing until its next trap (log 14) -/
  parked : Bool := false
  deriving DecidableEq, Repr

/-! ### Clusters -/

/-- Bank modes (Table 7-6). -/
inductive BankMode where
  | cache | scratch | fifo
  deriving DecidableEq, Repr

/-- A memory bank of a cluster (R177 to R180). -/
structure Bank where
  mode : BankMode := .cache
  busy : Bool := false
  /-- the mode it leaves while it switches -/
  from_ : BankMode := .cache
  /-- the cycle at which the transition's fixed steps end -/
  due : Nat := 0
  /-- FIFO entries with their poison, oldest first -/
  fifo : List (Word × Bool) := []
  /-- sleepers at the FIFO port: core, slot, and the pushed entry (none for a pop) with its destination register -/
  sleepers : List (Nat × Nat × Option (Word × Bool) × Nat) := []
  deriving DecidableEq, Repr

/-- A line of a cluster cache (R179, R202, R203): its 128 bytes, which of them are present and which dirty, poison per
64-bit word, the cores that wrote it, the stale mark, and its way. -/
structure Line where
  data : BitVec 1024 := 0
  present : BitVec 128 := 0
  dirty : BitVec 128 := 0
  psn : BitVec 16 := 0
  writers : BitVec 16 := 0
  stale : Bool := false
  /-- the bank that holds it, one way of its set -/
  way : Nat := 0
  deriving DecidableEq, Repr

/-- A cluster (R12, R102, R177, R179, R185, R230, R307). -/
structure Cluster where
  banks : FMap Bank := []
  /-- cached lines, by line number (offset / 128) -/
  lines : FMap (Option Line) := []
  tlb : List TlbEntry := []
  qcyc : BitVec 32 := 0
  qcount : Nat := 0
  /-- writes of QUANTUM so far, and the quanta written before the last one, by the write that set them: QCYC and the count,
  which still run for the tasks that started under them (R100) -/
  qver : Nat := 0
  oldQuanta : FMap (Nat × Nat) := []
  osstep : BitVec 3 := 0
  /-- the core of a quad that a pipe granted last, at 4 × quad + pipe (R243) -/
  pipeLast : FMap Nat := []
  /-- the step that holds in the current window of 8 cycles (R307) -/
  step : Nat := 0
  clflags : BitVec 5 := 0
  /-- the flags that have reached CLFLAGS in this cycle, which a clear leaves set (R230) -/
  newFlags : BitVec 5 := 0
  deriving DecidableEq, Repr

/-! ### Memory and the accesses in flight -/

/-- A posted access of a context (R384, R202): load or store, not yet performed or not yet answered. -/
structure Req where
  id : Nat
  core : Nat
  slot : Nat
  gen : BitVec 8
  realm : BitVec 12
  /-- the address as issued -/
  va : Word
  place : Place
  size : Nat
  store : Bool
  /-- data to store, or data read once performed -/
  data : Word := 0
  psn : Bool := false
  /-- destination register of a load -/
  d : Nat := 0
  /-- sign-extend the loaded value -/
  signed : Bool := false
  done : Bool := false
  /-- a window access that a CORE-scope release of its context has passed while it was outstanding (R202, R205) -/
  fenced : Bool := false
  /-- a word of a ZEROL: it is performed after the access numbered just before it (R188) -/
  chained : Bool := false
  /-- the Wiolo port by which a request to another package left (R80) -/
  port : Nat := 0
  deriving DecidableEq, Repr

/-- What a full-empty sleeper does when served (R213, R214). -/
inductive FeKind where
  | ldfe (d : Nat) | take (d : Nat) | stfe (v : Word) (psn : Bool)
  deriving DecidableEq, Repr

/-- A sleeper on a full-empty word (R214). -/
structure FeSleeper where
  core : Nat
  slot : Nat
  kind : FeKind
  /-- scope of its acquire -/
  scope : Scope
  /-- the cycle in which its request reached the SRAM -/
  since : Nat := 0
  /-- the cycle in which a round of service ended before it: the next one is made later -/
  turn : Option Nat := none
  /-- the realm of a context of another package -/
  realm : Option (BitVec 12) := none
  deriving DecidableEq, Repr

/-- A reservation of QREAD (R190 to R192): the lines by offset / 128 as QREAD listed them, and their package (none: this one);
`nc` lists those that lie in the host aperture on an NC page. -/
structure Reservation where
  core : Nat
  slot : Nat
  lines : List Nat
  k : Nat
  other : Option Nat
  broken : Bool := false
  nc : List Nat := []
  /-- the addresses that QREAD listed, which core watchpoints compare (R288) -/
  vas : List Word := []
  deriving DecidableEq, Repr

/-- A host-aperture line that a slice holds (R181): the bytes it holds and those it has not yet written to the host. -/
structure AperLine where
  present : BitVec 128 := 0
  dirty : BitVec 128 := 0
  deriving DecidableEq, Repr

/-- A non-leaf entry of a router's walk cache (R185): realm, level, the address bits above the level's page, and the next
table. -/
structure WalkEntry where
  realm : BitVec 12
  level : Nat
  vpage : Nat
  table : Nat
  deriving DecidableEq, Repr

/-- A page-table walk in progress (R183): the waiting access's context with its task's generation, realm and address. -/
structure Walk where
  id : Nat
  core : Nat
  slot : Nat
  gen : BitVec 8
  realm : BitVec 12
  va : Word
  deriving DecidableEq, Repr

/-- Which copy instruction posted a copy (Table 10-6). -/
inductive CopyKind where
  | linear | gather | scatter
  deriving DecidableEq, Repr

/-- A posted copy, gather or scatter (R259, R261, R267). -/
structure Copy where
  id : Nat
  core : Nat
  slot : Nat
  gen : BitVec 8
  realm : BitVec 12
  /-- supervisor contexts are not checked for ownership (R171) -/
  super : Bool
  kind : CopyKind
  fn : Nat
  dst : Word
  src : Word
  rowBytes : Nat
  rows : Nat
  dstride : Word := 0
  sstride : Word := 0
  idx : Word := 0
  esize : Nat := 8
  iw64 : Bool := false
  count : Nat := 0
  /-- key of the arrival word, when counted -/
  aw : Option Nat := none
  /-- 64-bit words done (chunks, for a gather or scatter) -/
  prog : Nat := 0
  /-- linear: words written out of order beyond `prog` (R209); gather or scatter: the destination lines of the chunk that have been
  begun (R264) -/
  ahead : List Nat := []
  /-- linear: words read and not yet written, with their poison (R209) -/
  got : FMap (Option (Word × Bool)) := []
  /-- gather or scatter: the writes of the chunk that are still to be made (R209, R267) -/
  pending : List (Place × Word × Bool) := []
  fault : Option CopyFault := none
  /-- the batch it belongs to; none while the batch is open -/
  batch : Option (BitVec 16) := none
  /-- its context has ended: faults are discarded (R264) -/
  orphan : Bool := false
  deriving DecidableEq, Repr

/-- Memory (R172, R176, R275) and what is in flight towards it. Keys of cells are in Machine/Ops.lean. -/
structure Mem where
  cells : List Host.Cell := []
  /-- keys of the 64-bit words that are poisoned -/
  poison : List Nat := []
  /-- keys of the words whose full-empty bit is full -/
  full : List Nat := []
  /-- host-aperture lines held at slices, by package offset / 128 (R181) -/
  aper : FMap AperLine := []
  feq : FMap (List FeSleeper) := []
  /-- keys of the arrival words that SYNCARM has armed (R211) -/
  armed : List Nat := []
  reqs : List Req := []
  nextReq : Nat := 0
  walks : List Walk := []
  resv : List Reservation := []
  copies : List Copy := []
  /-- REALMTAB bits [51:16] (R182) -/
  realmtab : BitVec 36 := 0
  /-- ownership words of cores and of clusters (R170) -/
  ownCore : FMap Word := []
  ownCluster : FMap Word := []
  deriving DecidableEq, Repr

/-! ### The fabric -/

/-- A route-class entry (R64, Table 3-5). -/
structure RouteEntry where
  valid : Bool := false
  vc : BitVec 3 := 0
  cast : Bool := false
  coal : Bool := false
  domain : Bool := false
  lenmax : BitVec 4 := 0
  rowset : BitVec 8 := 0
  colset : BitVec 8 := 0
  localmask : Word := 0
  deriving DecidableEq, Repr

/-- Where a router's output leads (R11): another router, a cluster's local port with the cores of the cluster that the copy
goes to, or a Wiolo port's I/O die. -/
inductive OutPort where
  | router (n : Nat)
  | cluster (n : Nat) (cores : BitVec 16)
  | wiolo (port : Nat)
  deriving DecidableEq, Repr

/-- The input of a router by which a packet came: a cluster's local port (256: a unit of the router itself), the row or the
column link from a router (R70), or a Wiolo port's I/O die. -/
inductive CameFrom where
  | localPort (cluster : Nat)
  | row (router : Nat)
  | column (router : Nat)
  | wiolo (port : Nat)
  deriving DecidableEq, Repr

/-- A copy of a packet in an output queue (R48): its output, and the input whose buffer entry it shares with the packet's other
copies, by a number (R71). -/
structure OutCopy where
  out : OutPort
  p : Packet
  src : CameFrom
  id : Nat
  /-- its packet is a lossless one of a multicast class -/
  cast : Bool := false
  deriving DecidableEq, Repr

/-- A CONST read outstanding at a slice router (R76): the posted access that made it, its line's package offset, the
requests merged into it, and the line it answers with. -/
structure ConstRead where
  id : Nat
  line : Nat
  merged : Nat
  data : BitVec 1024
  psn : BitVec 16
  deriving DecidableEq, Repr

/-- A router (R64, R77, R79) and the packets it holds. -/
structure Router where
  entries : FMap RouteEntry := []
  counters : FMap Word := []
  domainPorts : FMap (BitVec 8) := []
  /-- packets that have reached an input and are not routed yet -/
  inq : List (CameFrom × Packet) := []
  /-- copies that wait for their outputs, oldest first, and the number of the next packet routed -/
  outq : List OutCopy := []
  nextCopy : Nat := 0
  /-- the channel of 2 to 5 that each output took last (R61), by the keys of Machine/Fabric.lean -/
  vcLast : FMap Nat := []
  /-- CONST reads of its slices that have not been answered -/
  constReads : List ConstRead := []
  /-- the page-table walker's walk cache (R185) -/
  walkCache : List WalkEntry := []
  /-- the walker slot that dispatched last (R116), and the cycle of that decision -/
  walkLast : Nat := 3
  walkCycle : Option Nat := none
  /-- the cycle in which it last served a request to launch (R434) -/
  launchCycle : Option Nat := none
  deriving DecidableEq, Repr

/-- A notice or a message of the wired paths on its way: acceptances, REFUSE, FREE, WATCH and done messages, tile
starts and answers (R63, R94, R132). -/
inductive Note where
  /-- acceptance: sender core, entry (R94) -/
  | acceptance (core entry : Nat)
  /-- REFUSE: sender core, entry -/
  | refuse (core entry : Nat)
  /-- FREE: freeing core with its package above it, destination core (none: every usable core) -/
  | free (src : Nat) (dest : Option Nat)
  /-- WATCH: destination core, header flit, address (R289) -/
  | watch (core : Nat) (hdr addr : Word)
  deriving DecidableEq, Repr

/-- A done message on its way (R132): to a part, by its instance word, or to a node of the Ephemeris. -/
structure Done where
  inst : BitVec 16
  node : Option Nat
  status : Word
  deriving DecidableEq, Repr

/-- A Wiolo port (R81, R82, Table 3-11). -/
structure WioloPort where
  state : BitVec 2 := 0
  laneup : BitVec 4 := 0
  retries : BitVec 32 := 0
  crcerr : Word := 0
  heldcyc : Word := 0
  /-- sequence number of the next frame to send, and of the next expected -/
  sendSeq : Nat := 0
  recvSeq : Nat := 0
  /-- frames sent and not acknowledged, oldest first: the replay buffer -/
  replay : List Frame := []
  /-- packets held for the port -/
  held : List Packet := []
  deriving DecidableEq, Repr

/-! ### Walkers -/

/-- States of a walker instance (R117, Table 5-3). -/
inductive WState where
  | free | load | run | drain | fault | cancel
  deriving DecidableEq, Repr

/-- Phases of an unretired tile (R138): fetching, its start on the way, its start delivered, writing back. -/
inductive Phase where
  | fetching | starting | started | writingBack
  deriving DecidableEq, Repr

/-- A tile dispatched and not retired (R119, R138). -/
structure Tile where
  index : Nat
  core : Nat
  set : Nat
  phase : Phase
  /-- the fault it waits on: REASON, WB, OPER, address (R134) -/
  fault : Option (Nat × Bool × Nat × Word) := none
  /-- WALK has been raised for the fault -/
  raised : Bool := false
  /-- retire without write-back (R127, R136) -/
  noWrite : Bool := false
  /-- moves of the fetch or write-back in progress that have been made, by their place in the list (R209) -/
  moved : List Nat := []
  /-- what moves that are still to be made have read, with its poison, by their place in the list (R209) -/
  got : FMap (Option (Word × Bool)) := []
  /-- the launch record's words when it was dispatched, where a resume has read others since (R110); else none -/
  words : List Word := []
  deriving DecidableEq, Repr

/-- A walker slot (R116, R117, R138). -/
structure Walker where
  sgen : BitVec 8 := 0
  state : WState := .free
  frozen : Bool := false
  realm : BitVec 12 := 0
  /-- address of the launch record in the realm, its physical address, and its words as read at load or resume (R110) -/
  record : Word := 0
  phys : Nat := 0
  words : List Word := []
  cur : Nat := 0
  end_ : Nat := 0
  parent : BitVec 16 := 0
  root : BitVec 16 := 0
  part : BitVec 16 := 0
  children : Nat := 0
  retired : Nat := 0
  flags : BitVec 8 := 0
  /-- clusters the part targets -/
  mask : List Nat := []
  permits : FMap (BitVec 16) := []
  lastCore : Nat := 0
  tiles : List Tile := []
  /-- a cancel of the launch is on its way to the part (R136) -/
  cancelPending : Bool := false
  /-- next part id of the launch, held at the root (R130) -/
  nextPart : BitVec 16 := 1
  /-- the node that fired it, for a LAUNCH node -/
  node : Option Nat := none
  /-- the requester that awaits the LOAD's answer: core, slot -/
  asker : Option (Nat × Nat × BitVec 8 × Nat) := none
  /-- the cycle in which it last served a WSPLIT (R131) -/
  splitCycle : Option Nat := none
  deriving DecidableEq, Repr

/-- A request to the walkers (R128): the issuing context and its locked register. -/
structure WReq where
  core : Nat
  slot : Nat
  gen : BitVec 8
  d : Nat
  realm : BitVec 12
  fn : Nat
  opA : Word
  opB : Word
  /-- the node of the issuing node task (R164) -/
  issuer : Option Nat := none
  /-- the cycle in which it was sent -/
  time : Nat := 0
  deriving DecidableEq, Repr

/-- An answer on its way to a context (R128, R164): the value, or the node id of a GRAPH trap. -/
structure Answer where
  core : Nat
  slot : Nat
  gen : BitVec 8
  d : Nat
  val : Word
  graphTrap : Bool := false
  deriving DecidableEq, Repr

/-! ### The Ephemeris -/

/-- A trigger's binding word (R144, Table 6-4). -/
structure Binding where
  enable : Bool := false
  bstat : BitVec 2 := 0
  realm : BitVec 12 := 0
  graph : BitVec 32 := 0
  deriving DecidableEq, Repr

/-- The sweeps of a graph's run (R156, R162): the failed nodes whose sweep has not begun, the queue of nodes to visit, the
nodes visited in this run, whether a cancel's visits are being made, and the cycle of the next visit. -/
structure Sweep where
  pend : List Nat := []
  queue : List Nat := []
  seen : List Nat := []
  cancelling : Bool := false
  due : Nat := 0
  deriving DecidableEq, Repr

/-- A completion record waiting or to be written (R295). -/
structure CRec where
  trigger : Nat
  w1 : Word
  w2 : Word
  w3 : Word
  /-- the HOST-NOTE node whose body ends when it is written -/
  note : Option Nat := none
  deriving DecidableEq, Repr

/-- The records of a graph as its header named them when its run began: NODES, POOL and POOLN (R143). -/
structure Extent where
  nodes : Nat
  pool : Nat
  poolN : Nat
  deriving DecidableEq, Repr

/-- What reaches the Ephemeris while the package is stopped (R163). -/
inductive KeptEvent where
  | trigger (k : Nat) (v : Word)
  | ended (n : Nat) (killed : Bool)
  | failed (n reason : Nat) (code : BitVec 32)
  | launchDone (n : Nat) (status : Word)
  deriving DecidableEq, Repr

/-- The Ephemeris beside its records in scheduler memory (R139, R144, R148, R149, R156). -/
structure Eph where
  bindings : FMap Binding := []
  badnode : BitVec 32 := 0
  badoff : BitVec 8 := 0
  /-- READY nodes with the decisions that bypassed them, in the order in which they became READY -/
  ready : List (Nat × Nat) := []
  /-- tokens in flight, in the order of sending: the node addressed -/
  tokens : List Nat := []
  /-- ends of bodies that have reached the Ephemeris: node, and whether its task was killed (R151) -/
  ends : List (Nat × Bool) := []
  /-- faults that have reached it: node, REASON, CODE -/
  faults : List (Nat × Nat × BitVec 32) := []
  sweeps : FMap Sweep := []
  /-- nodes whose task, launch or note has not ended -/
  live : List Nat := []
  /-- pool records in use -/
  taken : List Nat := []
  /-- what arrived while the package was stopping, in arrival order (R163) -/
  kept : List KeptEvent := []
  /-- the extent of each graph whose run is not final (R140) -/
  runs : FMap (Option Extent) := []
  /-- core chosen last, per TASK node with a cluster PLACE -/
  lastCore : FMap Nat := []
  requests : List WReq := []
  /-- the trigger that started each graph's run -/
  runTrigger : FMap Nat := []
  heldTrigger : FMap (Option Nat) := []
  deriving DecidableEq, Repr

/-! ### Barrier tags -/

/-- A member of a tag at the tree (R107, R108): the first generation it is a member of, and the one its next arrival
counts in. -/
structure Member where
  core : Nat
  slot : Nat
  first : Nat
  next : Nat
  deriving DecidableEq, Repr

/-- A release that a task left behind when it was killed, failed or saved: the context, its task's generation, the observed set
then, the widest scope that its LEAVEs and the end of its node's body ask for, and the node whose body's end waits for it
(R108, R153, R202). With `run` it is no release: the end of that node's run alone waits for the task's writes (R296). -/
structure Owed where
  core : Nat
  slot : Nat
  gen : BitVec 8
  obs : BitVec 16
  scope : Scope
  node : Option Nat := none
  run : Option Nat := none
  deriving DecidableEq, Repr

/-- What an operation does at the tree (R107). -/
inductive TreeKind where
  | join | leave | arrive
  deriving DecidableEq, Repr

/-- An operation on its way to the tree (R108). -/
structure TreeOp where
  core : Nat
  slot : Nat
  tag : Nat
  kind : TreeKind
  /-- the generation of the task whose JOIN instruction awaits it -/
  asker : Option (BitVec 8) := none
  deriving DecidableEq, Repr

/-- A barrier tag (R105, R108, R109). Generations are counted without wrapping; GEN shows the low 32 bits. -/
structure BarTag where
  enable : Bool := false
  scope : BitVec 3 := 3
  xdom : Bool := false
  realm : BitVec 12 := 0
  pkgmap : BitVec 1024 := 0
  /-- generations released -/
  gen : Nat := 0
  /-- generations completed -/
  done : Nat := 0
  members : List Member := []
  /-- arrivals counted per generation -/
  arrivals : FMap Nat := []
  /-- generations completed and not released, oldest first, with the cycle of completion -/
  completed : List (Nat × Nat) := []
  /-- barrier flits sent: generation, package -/
  sent : List (Nat × Nat) := []
  /-- barrier flits held: generation modulo 2^32, package, cycle of arrival -/
  flits : List (Nat × Nat × Nat) := []
  deriving DecidableEq, Repr

/-! ### Host, stop, errors, power, management -/

/-- How a host access completes (R291, R293): bytes with their poison, Unsupported Request, or Completer Abort. -/
inductive HostAnswer where
  | data (l : List Byte) (psn : Bool)
  | unsupported
  | aborted
  deriving DecidableEq, Repr

/-- The host interface (Table 12-3) and the completion queue (R296). -/
structure HostIf where
  crbase : BitVec 59 := 0
  cren : Bool := false
  crint : Bool := false
  crlogn : BitVec 4 := 4
  devseq : Word := 0
  hostseq : Word := 0
  crlost : Word := 0
  hostbase : BitVec 34 := 0
  aperbase : BitVec 12 := 0
  bootstat : BitVec 7 := 0
  entry : BitVec 46 := 0
  queue : List CRec := []
  trigseq : FMap (BitVec 32) := []
  linkUp : Bool := false
  /-- MSI-X vector 0 raised, a count -/
  msix : Nat := 0
  /-- the size of BAR4, as a power of two from 1 GiB to 1 TiB (R291, log 73) -/
  bar4 : Nat := 40
  /-- completions of host accesses: an output, newest first -/
  reads : List HostAnswer := []
  deriving DecidableEq, Repr

/-- Stop control (R281, Table 11-8). -/
structure StopCtl where
  phase : BitVec 2 := 0
  serr : Bool := false
  stopbase : BitVec 32 := 0
  stopcyc : Word := 0
  /-- the cycle of injection -/
  since : Nat := 0
  deriving DecidableEq, Repr

/-- The package error ring (R280, Table 11-7). -/
structure ErrRing where
  base : BitVec 46 := 0
  logn : BitVec 4 := 0
  cerec : Bool := false
  en : Bool := false
  lost : BitVec 32 := 0
  count : Word := 0
  ce : FMap Word := []
  deriving DecidableEq, Repr

/-- A die's thermal block (R306, Table 12-7). -/
structure Die where
  sense : Word := 0
  tmax : BitVec 16 := 0
  fwstep : BitVec 3 := 0
  hi : BitVec 16 := 0x7FFF
  trip : Bool := false
  alert : Bool := false
  trippt : BitVec 16 := 0x0690
  /-- the previous reading found TMAX at or above HI -/
  wasHigh : Bool := false
  deriving DecidableEq, Repr

/-- An answer over MCTP or DOE (R301, R304): the request is not supported; the answer to an SPDM request, with the bits that
no rule gives; the measurement blocks from 1 on, signed; a sensor's reading. -/
inductive MgmtReply where
  | unsupported
  | spdm (code : SpdmCode) (v : Word)
  | measurements (blocks : List (BitVec 256)) (signature : Word)
  | reading (v : Word)
  deriving DecidableEq, Repr

/-- The management core's own registers (R299, R300). -/
structure Mgmt where
  mpbase : FMap (BitVec 40) := []
  /-- EN, RD, W, X at [9:6], LOGSIZE at [5:0] -/
  mpctl : FMap (BitVec 10) := []
  mpend : BitVec 4 := 0
  mperiod : BitVec 32 := 0
  mrxbuf : BitVec 46 := 0
  mentryEn : BitVec 4 := 0
  mentry : FMap (BitVec 46) := []
  resets : Nat := 0
  /-- the next die of a POLL round; 16 once the handler for the last has started -/
  pollDie : Nat := 0
  pollCount : Nat := 0
  /-- package records handed to a handler -/
  errHanded : Word := 0
  /-- the least SVN of kinds 1 to 3 (R303), and the measurements of blocks 1 to 4 (R304) -/
  minima : List (BitVec 32) := []
  measured : FMap (BitVec 256) := []
  /-- answers given over MCTP or DOE (R301, R304): an output -/
  replies : List MgmtReply := []
  deriving DecidableEq, Repr

/-! ### The package -/

/-- MODEL: one move of the machine: a context issues, a step of the hardware happens, or the clock advances. -/
inductive Move where
  | issue (core slot : Nat)
  | event (i : Instr)
  | tick
  deriving DecidableEq, Repr

/-- The package. -/
structure State where
  cores : FMap Core
  clusters : FMap Cluster
  routers : FMap Router
  walkers : FMap Walker
  wioloPorts : FMap WioloPort
  mem : Mem
  eph : Eph
  tags : FMap BarTag
  treeOps : List TreeOp
  /-- releases of ended tasks that are not complete -/
  owed : List Owed
  notes : List Note
  wreqs : List WReq
  /-- MODEL: what the write-backs of each launch have written, by its root's instance word: the tile's part and index, the
  key and the size (R125) -/
  launchOuts : FMap (List (BitVec 16 × Nat × Nat × Nat))
  answers : List Answer
  dones : List Done
  /-- answers given to other packages (R175): the requester as a number of Machine/Memory.lean; an output, newest first -/
  exits : List (Nat × ExtAnswer)
  host : HostIf
  stop : StopCtl
  errs : ErrRing
  dies : FMap Die
  overcurrent : Bool
  /-- the cycle from which the current has stayed below the limit (R308) -/
  belowSince : Nat
  sliceWatch : FMap Watchpoint
  mgmt : Mgmt
  msgmax : BitVec 5
  /-- the floor map: cores and clusters marked out (R18, R19) -/
  badCores : List Nat
  badClusters : List Nat
  package : BitVec 10
  cycle : Word
  /-- MODEL: the context whose instruction `exec` runs: core (4096 the management core), slot -/
  cur : Nat × Nat
  /-- MODEL: the moves chosen from outside, first first (log 4) -/
  agenda : List Move
  /-- MODEL: the next core the default order lets issue (log 4) -/
  turn : Nat
  /-- MODEL: free values drawn (log 3) -/
  free : Nat
  deriving DecidableEq, Repr

/-- The management core's number in the model (log 7). -/
def mgmtCore : Nat := 4096

/-- The management core at reset: its supervisor context stands at ROM address 0, parked until bring-up begins (R299, log
14). -/
def mgmtCoreReset : Core := { slots := [(7, { occupied := true })], parked := true }

/-- The machine right after reset: every unit at its reset value, no supervisor running until GO (R305), memory with
nothing listed (log 2). -/
def State.reset : State where
  cores := []
  clusters := []
  routers := []
  walkers := []
  wioloPorts := []
  mem := {}
  eph := {}
  tags := []
  treeOps := []
  owed := []
  notes := []
  wreqs := []
  launchOuts := []
  answers := []
  dones := []
  exits := []
  host := {}
  stop := {}
  errs := {}
  dies := []
  overcurrent := false
  belowSince := 0
  sliceWatch := []
  mgmt := {}
  msgmax := 16
  badCores := []
  badClusters := []
  package := 0
  cycle := 0
  cur := (0, 7)
  agenda := []
  turn := 0
  free := 0

end Sys2Proof.Machine
end

