-- ==== Sys2Proof/Machine/Ops.lean ====
section
/-!
DEFINITION. The named operations of the machine: keyed lists, units and contexts, registers, memory with its poison and
full-empty bits, watchpoints, error records, taking a trap and returning from one.
-/

namespace Sys2Proof.Machine

/-- The outcome of a meaning. -/
abbrev Result := Host.Outcome State Fault Refusal

/-! ### Keyed lists -/

/-- The value of a key: the first pair that lists it, or the default d. -/
def fget {α : Type} (m : FMap α) (d : α) (k : Nat) : α :=
  match m with
  | [] => d
  | (j, x) :: r => if j = k then x else fget r d k

/-- Puts a pair in its place. -/
def fput {α : Type} (m : FMap α) (k : Nat) (v : α) : FMap α :=
  match m with
  | [] => [(k, v)]
  | (j, x) :: r => if j < k then (j, x) :: fput r k v else if j = k then (k, v) :: r else (k, v) :: (j, x) :: r

/-- Takes a key out. -/
def fdrop {α : Type} (m : FMap α) (k : Nat) : FMap α :=
  match m with
  | [] => []
  | (j, x) :: r => if j = k then fdrop r k else (j, x) :: fdrop r k

/-- Sets a key; the default value is held by not listing the key. -/
def fset {α : Type} [DecidableEq α] (m : FMap α) (d : α) (k : Nat) (v : α) : FMap α :=
  if v = d then fdrop m k else fput m k v

/-- The canonical form of a keyed list: keys rise strictly and no default value is listed. -/
def fwf {α : Type} [DecidableEq α] (d : α) : FMap α → Bool
  | [] => true
  | [(_, x)] => x ≠ d
  | (j, x) :: (k, y) :: r => x ≠ d && j < k && fwf d ((k, y) :: r)

/-- Puts a number into a rising list of numbers. -/
def nput (l : List Nat) (k : Nat) : List Nat :=
  match l with
  | [] => [k]
  | j :: r => if j < k then j :: nput r k else if j = k then j :: r else k :: j :: r

/-- Takes a number out. -/
def ndrop (l : List Nat) (k : Nat) : List Nat := l.filter (· ≠ k)

/-- The canonical form of a set of numbers. -/
def nwf : List Nat → Bool
  | j :: k :: r => j < k && nwf (k :: r)
  | _ => true

/-- The element at a position of a list, taken out. -/
def takeAt {α : Type} (l : List α) (i : Nat) : Option (α × List α) :=
  match l, i with
  | [], _ => none
  | x :: r, 0 => some (x, r)
  | x :: r, i + 1 =>
    match takeAt r i with
    | some (y, r') => some (y, x :: r')
    | none => none

/-! ### Units -/

/-- A core at reset: the management core has its supervisor context, the others none (R299, R305). -/
def coreDefault (c : Nat) : Core := if c = mgmtCore then mgmtCoreReset else {}

/-- A core. -/
def State.core (s : State) (c : Nat) : Core := fget s.cores (coreDefault c) c

/-- Changes a core. -/
def State.modCore (s : State) (c : Nat) (f : Core → Core) : State :=
  { s with cores := fset s.cores (coreDefault c) c (f (s.core c)) }

/-- A context of a core. -/
def Core.ctx (x : Core) (k : Nat) : Ctx := fget x.slots {} k

/-- Changes a context of a core. -/
def Core.modCtx (x : Core) (k : Nat) (f : Ctx → Ctx) : Core := { x with slots := fset x.slots {} k (f (x.ctx k)) }

/-- Context k of core c. -/
def State.ctxAt (s : State) (c k : Nat) : Ctx := (s.core c).ctx k

/-- Changes context k of core c. -/
def State.modCtxAt (s : State) (c k : Nat) (f : Ctx → Ctx) : State := s.modCore c (·.modCtx k f)

/-- The issuing context. -/
def State.ctx (s : State) : Ctx := s.ctxAt s.cur.1 s.cur.2

/-- Changes the issuing context. -/
def State.modCtx (s : State) (f : Ctx → Ctx) : State := s.modCtxAt s.cur.1 s.cur.2 f

/-- The issuing core. -/
def State.here (s : State) : Core := s.core s.cur.1

/-- Changes the issuing core. -/
def State.modHere (s : State) (f : Core → Core) : State := s.modCore s.cur.1 f

/-- A cluster. -/
def State.cluster (s : State) (n : Nat) : Cluster := fget s.clusters {} n

/-- Changes a cluster. -/
def State.modCluster (s : State) (n : Nat) (f : Cluster → Cluster) : State :=
  { s with clusters := fset s.clusters {} n (f (s.cluster n)) }

/-- A router. -/
def State.router (s : State) (n : Nat) : Router := fget s.routers {} n

/-- Changes a router. -/
def State.modRouter (s : State) (n : Nat) (f : Router → Router) : State :=
  { s with routers := fset s.routers {} n (f (s.router n)) }

/-- Changes the memory. -/
def State.modMem (s : State) (f : Mem → Mem) : State := { s with mem := f s.mem }

/-- A core's quad engine state. -/
def State.engine (s : State) (c : Nat) : Engine := (s.core c).engine

/-- Changes a core's quad engine state. -/
def State.modEngine (s : State) (c : Nat) (f : Engine → Engine) : State :=
  s.modCore c fun x => { x with engine := f x.engine }

/-- The registers of a class at a core; class 62 is always enabled (Table 4-3). -/
def Core.cls (x : Core) (c : Nat) : ClassRegs := fget x.classes {} c

/-- Changes the registers of a class at a core. -/
def Core.modCls (x : Core) (c : Nat) (f : ClassRegs → ClassRegs) : Core :=
  { x with classes := fset x.classes {} c (f (x.cls c)) }

/-- A barrier tag. -/
def State.tag (s : State) (t : Nat) : BarTag := fget s.tags {} t

/-- Changes a barrier tag. -/
def State.modTag (s : State) (t : Nat) (f : BarTag → BarTag) : State :=
  { s with tags := fset s.tags {} t (f (s.tag t)) }

/-- A die's thermal block. -/
def State.die (s : State) (d : Nat) : Die := fget s.dies {} d

/-- Changes a die's thermal block. -/
def State.modDie (s : State) (d : Nat) (f : Die → Die) : State := { s with dies := fset s.dies {} d (f (s.die d)) }

/-! ### Numbering (R10 to R13) -/

/-- The router of a core: bits [11:6] (R12). The management core enters at router 0 (R13). -/
def routerOf (c : Nat) : Nat := if c = mgmtCore then 0 else c / 64

/-- The cluster of a core: bits [11:4] (R12). -/
def clusterOf (c : Nat) : Nat := c / 16

/-- Die (i, j) of a router at (x, y) is (x / 2, y / 2); its slice router lies at x = 2i + j mod 2, y = 2j + i mod 2
(R9, R10). -/
def isSliceRouter (r : Nat) : Bool :=
  let x := r % 8
  let y := r / 8
  x == 2 * (x / 2) + (y / 2) % 2 && y == 2 * (y / 2) + (x / 2) % 2

/-- The die index of a router: 4j + i (R9). -/
def dieOf (r : Nat) : Nat := 4 * ((r / 8) / 2) + (r % 8) / 2

/-- The slice router of die d (R10). -/
def sliceRouterOf (d : Nat) : Nat :=
  let i := d % 4
  let j := d / 4
  8 * (2 * j + i % 2) + (2 * i + j % 2)

/-- The number names a cluster (R12). -/
def isCluster (n : Nat) : Bool := n < 256 && !isSliceRouter (n / 4)

/-- The number names a core (R12). -/
def isCore (c : Nat) : Bool := c < 4096 && !isSliceRouter (c / 64)

/-- The cluster is usable (R18). -/
def State.usableCluster (s : State) (n : Nat) : Bool := isCluster n && !s.badClusters.contains n

/-- The core is usable (R18). -/
def State.usableCore (s : State) (c : Nat) : Bool :=
  isCore c && !s.badCores.contains c && !s.badClusters.contains (clusterOf c)

/-- The core number that CTXID and CORELOC read (R12); the management core's is no rule's (log 7). -/
def coreNumber (c : Nat) : BitVec 12 := if c = mgmtCore then Config.mgmtCoreNumber else BitVec.ofNat 12 c

/-- The identity word of a context (R12, Table 13-17). -/
def ctxid (c k : Nat) (gen : BitVec 8) : Word :=
  BitVec.ofNat 64 ((coreNumber c).toNat * 2048 + (k % 8) * 256) ||| gen.setWidth 64

/-! ### General registers (R309) -/

/-- g[r]; g0 reads zero. -/
def Ctx.reg (x : Ctx) (r : Reg) : Word := if r = 0 then 0 else fget x.g 0 r.toNat

/-- The poison tag of g[r]; g0's reads clear. -/
def Ctx.psn (x : Ctx) (r : Reg) : Bool := if r = 0 then false else fget x.gpsn false r.toNat

/-- Writes g[r] and its tag; a write to g0 is discarded. -/
def Ctx.setReg (x : Ctx) (r : Reg) (v : Word) (p : Bool) : Ctx :=
  if r = 0 then x else { x with g := fset x.g 0 r.toNat v, gpsn := fset x.gpsn false r.toNat p }

/-- g[r] is locked (R35, R128, R244, R384). -/
def Ctx.locked (x : Ctx) (r : Reg) : Bool := if r = 0 then false else fget x.lock false r.toNat

/-- Locks or unlocks g[r]; g0 is never locked. -/
def Ctx.setLock (x : Ctx) (r : Reg) (b : Bool) : Ctx :=
  if r = 0 then x else { x with lock := fset x.lock false r.toNat b }

/-- Some register of the list is locked. -/
def Ctx.anyLocked (x : Ctx) (l : List Reg) : Bool := l.any x.locked

/-- ORs flags into FFLAGS (R228). -/
def Ctx.raiseFlags (x : Ctx) (f : BitVec 5) : Ctx := { x with fflags := x.fflags ||| f }

/-- Raises flags in context k of core c: in its FFLAGS and, on a compute core, in its cluster's CLFLAGS (R228, R230). -/
def State.raise (s : State) (c k : Nat) (f : BitVec 5) : State :=
  if f = 0 then s
  else
    let s := s.modCtxAt c k (·.raiseFlags f)
    if c = mgmtCore then s else s.modCluster (clusterOf c) fun n =>
      { n with clflags := n.clflags ||| f, newFlags := n.newFlags ||| f }

/-- The instruction at PC is complete: PC moves to the next word, INSTRET counts it (R332), what its wait held ends. -/
def Ctx.advance (x : Ctx) : Ctx :=
  { x with pc := x.pc + 4, instret := x.instret + 1, wait := none, barAwait := none, barResume := false,
           joining := false, await := none, answer := none, answerErr := none, asked := [],
           releasing := none, stalled := false, wskip := false }

/-- As `advance`, to a target (R312). -/
def Ctx.jump (x : Ctx) (target : Word) : Ctx := { x.advance with pc := target }

/-- The context stays before its instruction: a stall (R244, R204) in this cycle. -/
def stall (s : State) : Result :=
  .next { (s.modCtx fun x => { x with stalled := true, bypass := 0 }) with turn := s.cur.1 }

/-- g[r] of the issuing context is a source of an unretired MMA or MMAS: a writer stalls (R244). -/
def State.writeLocked (s : State) (r : Reg) : Bool :=
  s.cur.2 == 0 && r ≠ 0 &&
    (s.here.engine.queue ++ s.here.engine.running ++ s.here.engine.dropped).any fun e =>
      e.gen == s.ctx.gen && e.srcs.contains r

/-- Runs f unless a register that the instruction writes (w) or reads (r) is locked: a reader or a writer of a locked
register stalls (R35, R128, R244, R384). -/
def unlessLocked (w r : List Reg) (f : State → Result) (s : State) : Result :=
  if s.ctx.anyLocked (w ++ r) || w.any s.writeLocked then stall s else f s

/-- The engine state belongs to slot 0 of a compute core. -/
def State.inSlot0 (s : State) : Bool := s.cur.2 == 0

/-- The issuing context is a supervisor: slot 7 (R84, R298). -/
def State.isSuper (s : State) : Bool := s.cur.2 == 7

/-! ### Free values (R7, log 3) -/

/-- A free value. -/
def State.freeVal (s : State) : Word := Config.freeWord s.free

/-- A word of another package, with its tag (log 10). -/
def State.foreign (s : State) (addr : Nat) : Word × Bool := (Config.foreignWord s.free addr, Config.foreignTag s.free addr)

/-- The next draw is another value. -/
def State.drawn (s : State) : State := { s with free := s.free + 1 }

/-! ### Memory -/

/-- The key of a byte of this package's physical address space (R172): its offset in the package. -/
def keyGlobal (off : Nat) : Nat := off

/-- The key of a byte of a core's local SRAM (R176). -/
def keySram (core off : Nat) : Nat := 2 ^ 48 + core * 0x80000 + off

/-- The key of a byte of a cluster's scratch (R166). -/
def keyScratch (cluster off : Nat) : Nat := 2 ^ 48 + 2 ^ 31 + cluster * 0x800000 + off

/-- The key of a byte of the host aperture as a slice holds it, by its package offset (R181). -/
def keyAper (off : Nat) : Nat := 2 ^ 50 + off

/-- The key of a byte of host memory (R294). -/
def keyHost (addr : Nat) : Nat := 2 ^ 64 + addr

/-- The package offset lies in the host aperture (Table 7-5). -/
def isAper (off : Nat) : Bool := 0x10000000000 ≤ off && off < 0x20000000000

/-- One byte. A byte that nothing has written reads 0 (log 2). -/
def Mem.byte (m : Mem) (k : Nat) : Byte := fget m.cells 0 k

/-- Writes one byte. -/
def Mem.setByte (m : Mem) (k : Nat) (v : Byte) : Mem := { m with cells := fset m.cells 0 k v }

/-- n bytes from key k, the lowest address least significant (R3). -/
def Mem.read (m : Mem) (k : Nat) : Nat → Nat
  | 0 => 0
  | n + 1 => (m.byte k).toNat + 256 * m.read (k + 1) n

/-- Writes the n low bytes of v from key k (R3). -/
def Mem.write (m : Mem) (k : Nat) : Nat → Nat → Mem
  | 0, _ => m
  | n + 1, v => (m.setByte k (BitVec.ofNat 8 v)).write (k + 1) n (v / 256)

/-- The key of the 64-bit word that holds a byte. -/
def wordKey (k : Nat) : Nat := k - k % 8

/-- The word that holds byte k is poisoned (R276). -/
def Mem.psn (m : Mem) (k : Nat) : Bool := m.poison.contains (wordKey k)

/-- Sets or clears the poison of the word that holds byte k. -/
def Mem.setPsn (m : Mem) (k : Nat) (p : Bool) : Mem :=
  { m with poison := if p then nput m.poison (wordKey k) else ndrop m.poison (wordKey k) }

/-- A write of n bytes, n at most 8 and within one word, with its poison: poisoned data poisons the word, a clean write
of all 8 bytes clears it, a clean narrower write leaves it (R276, Table 11-5). -/
def Mem.store (m : Mem) (k n : Nat) (v : Word) (p : Bool) : Mem :=
  let m := m.write k n v.toNat
  if p then m.setPsn k true else if n = 8 then m.setPsn k false else m

/-- A read of n bytes within one word. -/
def Mem.load (m : Mem) (k n : Nat) : Word := BitVec.ofNat 64 (m.read k n)

/-- The full-empty bit of the word at key k (R176). -/
def Mem.isFull (m : Mem) (k : Nat) : Bool := m.full.contains k

/-- Sets a full-empty bit. -/
def Mem.setFull (m : Mem) (k : Nat) (b : Bool) : Mem :=
  { m with full := if b then nput m.full k else ndrop m.full k }

/-- The canonical form of memory: cells rising with no zero listed, and the sets of words rising. -/
def Mem.wf (m : Mem) : Bool := fwf (0 : Byte) m.cells && nwf m.poison && nwf m.full

/-! ### Slices and lines (R173, R174) -/

/-- The slice that homes a line of LPDDR6 or of the host aperture (R173). -/
def homeSlice (off : Nat) : Nat :=
  let l := off / 128
  (l % 32) ^^^ (l / 32 % 32) ^^^ (l / 1024 % 32) ^^^ (l / 32768 % 32) ^^^ (l / 1048576 % 32) ^^^
    (l / 33554432 % 32) ^^^ (l / 1073741824 % 32)

/-- The slice of any offset of the package: scheduler memory by R174, all else by R173. -/
def sliceOf (off : Nat) : Nat :=
  if 0x38000000000 ≤ off then
    let o := off - 0x38000000000
    2 * (o / 128 % 16) + o / 2048 % 2
  else homeSlice off

/-- The slice router of a slice (R11). -/
def sliceRouter (slice : Nat) : Nat := sliceRouterOf (slice / 2)

/-- The physical address of a package offset (R172). -/
def State.phys (s : State) (off : Nat) : Word := (s.package.setWidth 64 <<< 42) ||| BitVec.ofNat 64 off

/-- The window address of a byte of a core's local SRAM (Table 7-2). -/
def State.windowSram (s : State) (core off : Nat) : Word :=
  0xFFFF800000000000 ||| (s.package.setWidth 64 <<< 37) |||
    BitVec.ofNat 64 (core / 64 * 2 ^ 31 + core / 16 % 4 * 2 ^ 29 + core % 16 * 2 ^ 24 + off)

/-- The window address of a byte of a cluster's scratch (Table 7-2). -/
def State.windowScratch (s : State) (cluster off : Nat) : Word :=
  0xFFFF800000000000 ||| (s.package.setWidth 64 <<< 37) |||
    BitVec.ofNat 64 (cluster / 4 * 2 ^ 31 + cluster % 4 * 2 ^ 29 + 16 * 2 ^ 24 + off)

/-! ### Watchpoints on writes (R287, R289) -/

/-- Who performs a write, as WKIND, WPKG and WCORE report it (Table 11-12; no package: this one), the realm that makes it, if
one does, and whether it is a plain write (R211). -/
structure WriterId where
  wkind : Nat
  wcore : Nat
  realm : Option (BitVec 12) := none
  pkg : Option (BitVec 10) := none
  plain : Bool := true
  deriving DecidableEq, Repr

/-- The watchpoint's block and the access of n bytes at a overlap (R287). -/
def Watchpoint.hits (w : Watchpoint) (a n : Nat) : Bool :=
  let base := w.addr.toNat / 2 ^ w.len.toNat * 2 ^ w.len.toNat
  w.en && base < a + n && a < base + 2 ^ w.len.toNat

/-- The header flit of a WATCH notice (Table 11-12). -/
def watchHeader (s : State) (src wp : Nat) (w : WriterId) (dest : Nat) : Word :=
  BitVec.ofNat 64 (2 * 2 ^ 60 + src * 2 ^ 58 + wp * 2 ^ 57 + w.wkind * 2 ^ 54 + (w.pkg.getD s.package).toNat * 2 ^ 44 +
    w.wcore * 2 ^ 32 + dest)

/-- The notices that a write of n bytes at an SRAM offset of a core sends (R289). -/
def sramNotices (s : State) (core off n : Nat) (w : WriterId) : List Note :=
  [0, 1].filterMap fun i =>
    let wp := fget (s.core core).sramWatch {} i
    if wp.hits off n && (!wp.rmatch || w.realm == some wp.realm) then
      some (.watch core (watchHeader s 2 i w (s.package.toNat * 4096 + core)) (s.windowSram core off))
    else none

/-- The notices that a write of n bytes at a package offset sends (R289); each slice has two watchpoints. -/
def sliceNotices (s : State) (off n : Nat) (w : WriterId) : List Note :=
  [0, 1].filterMap fun i =>
    let wp := fget s.sliceWatch {} (2 * sliceOf off + i)
    if wp.hits (s.phys off).toNat n then
      some (.watch (wp.target.toNat % 4096) (watchHeader s 1 i w wp.target.toNat) (s.phys off))
    else none

/-- The notices that a write of the bytes of a line at a package offset sends (R289): a watchpoint sees the bytes written
alone. -/
def lineNotices (s : State) (base : Nat) (mask : BitVec 128) (w : WriterId) : List Note :=
  [0, 1].filterMap fun i =>
    let wp := fget s.sliceWatch {} (2 * sliceOf base + i)
    (List.range 128).findSome? fun j =>
      if mask.getLsbD j && wp.hits (s.phys (base + j)).toNat 1 then
        some (.watch (wp.target.toNat % 4096) (watchHeader s 1 i w wp.target.toNat) (s.phys (base + j)))
      else none

/-- A write reached a line: the reservations on it break (R192). -/
def breakResv (l : List Reservation) (line : Nat) : List Reservation :=
  l.map fun r => if r.other = none && r.lines.contains line then { r with broken := true } else r

/-- The 16 bytes at key b are an armed arrival word: SYNCARM armed them, or a copy has counted in them while their ARMED bit was
set, or a copy that names them is on its way and the bit is set (R211). -/
def Mem.isArmed (m : Mem) (b : Nat) : Bool :=
  m.armed.contains b || ((m.byte (b + 8)).getLsbD 7 && m.copies.any fun x => x.aw == some b)

/-- A plain write to a word at key k that was armed leaves its COUNT and GEN undefined (R211): free values. Clearing ARMED
ends it. -/
def disturb (s : State) (k : Nat) (armed : Bool) : State :=
  let b := k - k % 16
  if armed then
    let m := (s.mem.write b 4 s.freeVal.toNat).write (b + 12) 4 s.drawn.freeVal.toNat
    { s.drawn.drawn with mem := if (m.byte (b + 8)).getLsbD 7 then m else { m with armed := ndrop m.armed b } }
  else s

/-- A write of n bytes, within one word, to a core's local SRAM by a writer: data, poison, watchpoints. -/
def writeSram (s : State) (core off n : Nat) (v : Word) (p : Bool) (w : WriterId) : State :=
  let k := keySram core off
  disturb { s with mem := s.mem.store k n v p, notes := s.notes ++ sramNotices s core off n w } k
    (w.plain && s.mem.isArmed (k - k % 16))

/-- A write of n bytes, within one word, to a cluster's scratch. -/
def writeScratch (s : State) (cluster off n : Nat) (v : Word) (p : Bool) (w : WriterId) : State :=
  let k := keyScratch cluster off
  disturb (s.modMem fun m => m.store k n v p) k (w.plain && s.mem.isArmed (k - k % 16))

/-- A write of n bytes, within one word, performed at its home slice: data, poison, reservations, watchpoints. -/
def writeGlobal (s : State) (off n : Nat) (v : Word) (p : Bool) (w : WriterId) : State :=
  let m := s.mem.store (keyGlobal off) n v p
  { s with mem := { m with resv := breakResv m.resv (off / 128) }, notes := s.notes ++ sliceNotices s off n w }

/-- The host reaches the BARs: bring-up has passed stage 8 and the link is up (R291, R297, R305). -/
def hostReaches (s : State) : Bool := s.host.linkUp && (s.host.bootstat == 8 || s.host.bootstat == 9)

/-- The host address that an aperture offset reaches (R294). -/
def State.hostAddr (s : State) (off : Nat) : Nat := s.host.hostbase.toNat * 2 ^ 30 + (off - 0x10000000000)

/-- The key at home of a byte that a write at a package offset reaches: a host-aperture line lies in host memory for an NC
access and at its slice for any other (R181, R294). -/
def State.homeKey (s : State) (off : Nat) (nc : Bool) : Nat :=
  if !isAper off then keyGlobal off else if nc then keyHost (s.hostAddr off) else keyAper off

/-- Bytes o to o + n - 1 of a line. -/
def rangeMask (o n : Nat) : BitVec 128 := BitVec.ofNat 128 ((2 ^ n - 1) * 2 ^ o)

/-- The bytes of a host-aperture line that a mask names have been written at its slice (R181). -/
def Mem.aperWrote (m : Mem) (off : Nat) (mask : BitVec 128) : Mem :=
  let l := fget m.aper {} (off / 128)
  { m with aper := fset m.aper {} (off / 128) { present := l.present ||| mask, dirty := l.dirty ||| mask } }

/-- A write of n bytes, within one word, to the host aperture: an NC access passes the slice (R181, R294). -/
def writeHost (s : State) (off n : Nat) (v : Word) (p nc : Bool) (w : WriterId) : State :=
  let m := s.mem.store (if nc then keyHost (s.hostAddr off) else keyAper off) n v p
  let m := if nc then m else m.aperWrote off (rangeMask (off % 128) n)
  { s with mem := { m with resv := breakResv m.resv (off / 128) }, notes := s.notes ++ sliceNotices s off n w }

/-! ### Error records (R279, R280, R441, R442) -/

/-- One more, saturating. -/
def satInc {n : Nat} (x : BitVec n) : BitVec n := if x = BitVec.allOnes n then x else x + 1

/-- Writes a 64-byte record from its words, at a word key each (R279). -/
def putRecord (s : State) (write : State → Nat → Word → State) (ws : List Word) : State :=
  (ws.zipIdx).foldl (fun s x => write s (8 * x.2) x.1) s

/-- A record into a core's ring (R280, R442); it is dropped and counted while the ring is off. `flags` is bits [62:56]
of word 1 without OVERFLOW. -/
def coreErrRecord (s : State) (c : Nat) (flags : Word) (addr vaddr ctxw pc unit : Word) : State :=
  let x := s.core c
  if !x.errEn then { s with errs := { s.errs with lost := satInc s.errs.lost } }
  else
    let off := (x.errBase.toNat * 64 + 64 * (x.errCount.toNat % 2 ^ x.errLogn.toNat)) % 0x80000
    let was := (s.mem.load (keySram c (off + 8)) 8).getLsbD 63
    let w1 : Word := 0x8000000000000000 ||| (if was then 0x4000000000000000 else 0) ||| flags
    let s := putRecord s (fun s o v => writeSram s c (off + o) 8 v false { wkind := 7, wcore := c })
      [x.errCount + 1, w1, addr, vaddr, ctxw, pc, unit, s.cycle]
    s.modCore c fun x => { x with errCount := x.errCount + 1 }

/-- The memory of this package that backs a physical address, LPDDR6, the host aperture while the link is up, or scheduler
memory (Table 7-5): its offset. -/
def State.backed (s : State) (pa : Nat) : Option Nat :=
  let off := pa % 2 ^ 42
  if pa / 2 ^ 42 = s.package.toNat && (off < 0x10000000000 || (isAper off && s.host.linkUp) ||
      (0x38000000000 ≤ off && off < 0x38004000000)) then some off
  else none

/-- A 64-bit write at a physical address by a unit that no page governs: the host aperture is passed on to the host (R294);
what it does in another package, or at an unbacked address, is nothing here (log 10, log 65). -/
def physWrite (s : State) (pa : Nat) (v : Word) (w : WriterId) : State :=
  match s.backed pa with
  | some off => if isAper off then writeHost s off 8 v false true w else writeGlobal s off 8 v false w
  | none => s

/-- The word at a physical address: of another package a free value (log 10). -/
def physLoad (s : State) (pa : Nat) : Word :=
  match s.backed pa with
  | some off => s.mem.load (s.homeKey off true) 8
  | none => if pa / 2 ^ 42 = s.package.toNat then 0 else Config.foreignWord s.free pa

/-- A record into the package ring (R280, R442). The management core's ERRRING source then pends (R300). -/
def pkgErrRecord (s : State) (flags : Word) (addr vaddr ctxw pc unit : Word) : State :=
  let e := s.errs
  if !e.en then { s with errs := { e with lost := satInc e.lost } }
  else
    let pa := (e.base.toNat * 64 + 64 * (e.count.toNat % 2 ^ e.logn.toNat)) % 2 ^ 52
    let was := (physLoad s (pa + 8)).getLsbD 63
    let w1 : Word := 0x8000000000000000 ||| (if was then 0x4000000000000000 else 0) ||| flags
    let s := putRecord s (fun s o v => physWrite s (pa + o) v { wkind := 5, wcore := 0xFFF })
      [e.count + 1, w1, addr, vaddr, ctxw, pc, unit, s.cycle]
    { s with errs := { s.errs with count := s.errs.count + 1 },
             mgmt := { s.mgmt with mpend := s.mgmt.mpend ||| 4#4 } }

/-- What holds a poisoned value (Table 11-6): its ADDR, its UKIND and its UNIT. -/
structure ErrSource where
  addr : Word
  ukind : Nat
  unit : Nat
  deriving DecidableEq, Repr

/-- A value held in a register of core c (R441). -/
def inRegister (c : Nat) : ErrSource := ⟨0, 1, c⟩

/-- A word in memory (Table 11-6): a window address for local SRAM and cluster memory, else a physical address; UKIND and UNIT
those of the array that holds it (log 66). -/
def Place.source (s : State) : Place → ErrSource
  | .sram c o _ => ⟨s.windowSram c o, 1, c⟩
  | .scratch n o _ => ⟨s.windowScratch n o, 2, n⟩
  | .fifo n b _ => ⟨s.windowScratch n (b * 0x80000), 2, n⟩
  | .global o _ _ => ⟨s.phys o, if o < 0x38000000000 then 3 else 4, sliceOf o⟩
  | .host o _ _ => ⟨s.phys o, 3, sliceOf o⟩
  | .device o => ⟨s.phys (0x30000000000 + o), 0, 0⟩
  | .other _ a win => ⟨BitVec.ofNat 64 a, if win then 1 else 3, if win then a / 2 ^ 24 % 32 + a / 2 ^ 29 % 256 * 16
    else sliceOf (a % 2 ^ 42)⟩

/-- A CONSUMED record of an instruction at a PC in a realm (R277, R441): consumer kind, what held the value, and for kind 1
the address the instruction would have accessed. -/
def consumedAt (s : State) (c k kind : Nat) (src : ErrSource) (vaddr pc : Word) (realm : BitVec 12) : State :=
  coreErrRecord s c (0x0800000000000000 ||| BitVec.ofNat 64 (kind * 2 ^ 56)) src.addr (if kind = 1 then vaddr else 0)
    ((realm.setWidth 64 <<< 23) ||| ctxid c k (s.ctxAt c k).gen) pc
    (BitVec.ofNat 64 (src.ukind * 2 ^ 56 + src.unit * 2 ^ 40))

/-- The CONSUMED record of the instruction at a context's PC. The management core has no ring. -/
def consumedRecord (s : State) (c k kind : Nat) (src : ErrSource) (vaddr : Word) : State :=
  if c = mgmtCore then s else consumedAt s c k kind src vaddr (s.ctxAt c k).pc (s.ctxAt c k).realm

/-! ### Taking a trap (R268 to R273) -/

/-- The code of a cause (Table 11-1). -/
def Cause.code : Cause → BitVec 8
  | .illegal => 0x01 | .priv => 0x02 | .align => 0x03 | .page => 0x04 | .prot => 0x05 | .bounds => 0x06
  | .waitLimit => 0x07 | .budget => 0x08 | .poison => 0x09 | .barrier => 0x0A | .coproc => 0x0B | .msgLen => 0x0C
  | .cls => 0x0D | .brk => 0x0E | .watch => 0x0F | .syscall => 0x10 | .rpt => 0x11 | .qspan => 0x12 | .walk => 0x13
  | .graph => 0x14

/-- The codes of Table 11-2. -/
def WaitKind.code : WaitKind → Nat
  | .fullEmpty => 1 | .barrier => 2 | .event => 3 | .cwait => 4 | .cseal => 5 | .send => 6 | .queue => 7 | .fifo => 8

/-- What a wait on the retry buffer names: package and core of the oldest entry's target (Table 11-2). -/
def retryOldest (x : Core) : Word :=
  let l := [0, 1, 2, 3].filterMap fun i => fget x.retry none i
  match l.mergeSort fun a b => a.order ≤ b.order with
  | [] => 0
  | r :: _ => ((r.packet.flits.headD (0, false)).1.extractLsb' 0 22).setWidth 64

/-- The number of the oldest unfinished batch, which a wait names. -/
def Ctx.oldestBatch (x : Ctx) : Word := ((x.batches.head?.map fun (b : Batch) => b.num).getD 0).setWidth 64

/-- TVAL of a wait of context k of core c (Table 11-2): a full queue, a full retry buffer and the unfinished batches are
named as they stand. -/
def waitVal (s : State) (c k : Nat) (w : Wait) : Word :=
  match w.kind with
  | .queue =>
    match (s.engine c).queue with
    | [] => 0
    | e :: _ => e.seq.setWidth 64
  | .send => retryOldest (s.core c)
  | .cwait | .cseal => (s.ctxAt c k).oldestBatch
  | .fullEmpty | .barrier | .event | .fifo => w.val

/-- Hands a trap to slot 7: writes the trap CSRs and sets slot 7's PC to TVEC (R271). WSKIP keeps its value. -/
def handoff (s : State) (c : Nat) (r : TrapRec) : State :=
  let g := match r.slot with
    | some k => (s.ctxAt c k).gen
    | none => 0
  s.modCore c fun x =>
    { x with
      parked := false
      trap := { x.trap with
        tcause := r.cause.code, tpc := r.pc, tval := r.val, tseq := r.seq, tctx := r.ctx, gen := g, active := true,
        ctxv := r.slot.isSome, slot := BitVec.ofNat 3 (r.slot.getD 0), imprec := r.imprec, handled := some r },
      slots := (x.modCtx 7 fun y =>
        { y with occupied := true, pc := x.trap.tvec ++ 0#2, wait := none, stalled := false }).slots }

/-- A sleeping context leaves the queues it sleeps in (R271). -/
def withdraw (s : State) (c k : Nat) : State :=
  let a := (s.ctxAt c k).await
  let s := s.modMem fun m =>
    { m with
      reqs := m.reqs.filter fun r => some r.id ≠ a
      feq := (m.feq.map fun p => (p.1, p.2.filter fun z => !(z.core == c && z.slot == k))).filter (·.2 ≠ []) }
  s.modCluster (clusterOf c) fun n =>
    { n with banks := n.banks.map fun p =>
        (p.1, { p.2 with sleepers := p.2.sleepers.filter fun z => !(z.1 == c && z.2.1 == k) }) }

/-- Freezes a context for a trap: it issues nothing more, and a sleeping wait is withdrawn (R271). A barrier wait is to
resume without a new arrival (R107), a packet not yet accepted is not sent (R367), its page-table walk is given up. -/
def freeze (s : State) (c k : Nat) : State :=
  let w := (s.ctxAt c k).wait
  let s := if w.isSome then withdraw s c k else s
  let s := s.modMem fun m => { m with walks := m.walks.filter fun y => !(y.core == c && y.slot == k) }
  s.modCtxAt c k fun x =>
    { x with frozen := true, stalled := false, bypass := 0, wait := none, releasing := none, sending := none,
             await := none, answer := none, answerErr := none, asked := [],
             barResume := x.barResume || (match w with | some w => w.kind == .barrier | none => false) }

/-- The management core resets: its contexts and registers start again, and the always-on domain counts it; what bring-up
measured and what the responder has answered stay (R299, R304). -/
def resetMgmtCore (s : State) : State :=
  { s with
    cores := fset s.cores (coreDefault mgmtCore) mgmtCore { mgmtCoreReset with parked := false }
    mgmt := { resets := s.mgmt.resets + 1, minima := s.mgmt.minima, measured := s.mgmt.measured, replies := s.mgmt.replies } }

/-- Slot 7's own trap halts the core and writes an error record with UKIND 0 (R272). -/
def haltCore (s : State) (c : Nat) : State :=
  let x := s.ctxAt c 7
  let s := pkgErrRecord s 0 0 0 ((x.realm.setWidth 64 <<< 23) ||| ctxid c 7 x.gen) x.pc (BitVec.ofNat 64 (c * 2 ^ 40))
  s.modCore c fun x => { x with halted := true }

/-- The order in which traps raised in one cycle are handed over: contexts by slot, then WALK by instance word, then notices
(R271). -/
def TrapRec.rank (r : TrapRec) : Nat :=
  match r.slot with
  | some k => k
  | none => if r.cause = .walk then 8 + (r.ctx.extractLsb' 32 16).toNat else 0x20000

/-- Puts a trap into the list of held ones: by the cycle in which it was raised, and within a cycle by its rank (R271). -/
def insertTrap (r : TrapRec) : List TrapRec → List TrapRec
  | [] => [r]
  | x :: rest =>
    if x.time < r.time || (x.time = r.time && x.rank ≤ r.rank) then x :: insertTrap r rest else r :: x :: rest

/-- Slot 7 of core c is free and no earlier trap waits for it: a trap is handed over at once (R271). -/
def Core.takesTrap (x : Core) : Bool := !x.trap.active && x.trap.held.isEmpty

/-- Holds a trap in its place among those of its core (R271). -/
def hold (s : State) (c : Nat) (r : TrapRec) : State :=
  s.modCore c fun x => { x with trap := { x.trap with held := insertTrap r x.trap.held } }

/-- The trap that slot 7 was given in this cycle and has not begun to handle, where it was raised in this cycle too and
ranks after r: r is handed over before it (R271). -/
def State.overtaken (s : State) (c : Nat) (r : TrapRec) : Option TrapRec :=
  let x := s.core c
  x.trap.handled.filter fun h =>
    x.trap.active && h.time == s.cycle.toNat && r.rank < h.rank && (x.ctx 7).pc == x.trap.tvec ++ 0#2 && (x.ctx 7).wait.isNone

/-- Hands a trap over, or holds it while slot 7 handles another or an earlier one waits (R271). A trap of this cycle that
slot 7 has only just been given waits for one of this cycle that ranks before it (log 11). -/
def handOrHold (s : State) (c : Nat) (r : TrapRec) : State :=
  let r := { r with time := s.cycle.toNat }
  if (s.core c).takesTrap then handoff s c r
  else
    match s.overtaken c r with
    | some h => handoff (hold s c h) c r
    | none => hold s c r

/-- Raises a trap in context k of core c: slot 7's own trap halts the core; on the management core a user trap starts
the supervisor at TVEC and a supervisor trap halts the core, which MGMT_CORE_RESET then resets (R299); any other freezes its
context and is handed over, or held while another is handled (R271). What the trap's wait awaited is kept with it (R363). -/
def raiseAt (s : State) (c k : Nat) (r : TrapRec) : State :=
  let r := { r with wait := (s.ctxAt c k).wait.map fun w => (w.kind, waitVal s c k w) }
  if c = mgmtCore then
    if k = 7 then s.modCore c fun x => { x with halted := true } else handoff (freeze s c k) c r
  else if k = 7 then haltCore s c
  else handOrHold (freeze s c k) c r

/-- Sequence number a was given before b. -/
def Engine.earlier (e : Engine) (a b : BitVec 16) : Bool := (a - e.nextSeq).toNat < (b - e.nextSeq).toNat

/-- An engine fault of the core may be raised: every instruction with a lower number has retired (R245). -/
def coprocReady (e : Engine) : Bool :=
  match e.fault with
  | none => false
  | some (q, _) => (e.running ++ e.queue).all fun x => !e.earlier x.seq q

/-- The budget of slot k of a compute core is spent (R99); slot 7 and the management core carry none. -/
def budgetSpent (s : State) (c k : Nat) : Bool := c ≠ mgmtCore && k < 7 && (s.ctxAt c k).tbudget = 0

/-- A COPROC is pending against context k of core c, and precedes its other traps (R245, R273). -/
def coprocPends (s : State) (c k : Nat) : Bool :=
  k = 0 && c ≠ mgmtCore && coprocReady (s.engine c) && !(s.engine c).raised

/-- The instruction that awaited an answer is to run anew. -/
def Ctx.askAgain (x : Ctx) : Ctx := { x with await := none, answer := none, answerErr := none, wait := none, asked := [] }

/-- A trap stands at the boundary of context k of core c, before its instruction's own checks (R273). -/
def othersPend (s : State) (c k : Nat) : Bool :=
  coprocPends s c k || budgetSpent s c k || (s.ctxAt c k).graphTrap.isSome

/-- GRAPH at a boundary of context k of core c, an imprecise trap (R268, R271, R273). -/
def graphAt (s : State) (c k : Nat) (node : Word) : State :=
  raiseAt (s.modCtxAt c k fun x => { x with graphTrap := none }) c k
    { cause := .graph, pc := (s.ctxAt c k).pc, val := node, ctx := 0, seq := 0, slot := some k, imprec := true }

/-- A trap that freezes no context: WALK or a notice (R134, R290). While the core is stopped slot 7 stands as the stop found
it, and the trap is held (R283). -/
def raiseNotice (s : State) (c : Nat) (r : TrapRec) : State :=
  if (s.core c).stopped then hold s c { r with time := s.cycle.toNat } else handOrHold s c r

/-- A precise trap of the issuing context: TPC is its PC (Table 11-1). -/
def trapState (cause : Cause) (val ctx : Word) (s : State) : State :=
  raiseAt s s.cur.1 s.cur.2
    { cause, pc := s.ctx.pc, val, ctx, seq := 0, slot := some s.cur.2, imprec := false }

/-- The meaning of a form that traps: the trap entry is its next state. -/
def trap (cause : Cause) (val ctx : Word) (s : State) : Result := .next (trapState cause val ctx s)

/-- POISON for register r with a consumer kind (R277): TCTX holds register and kind, a CONSUMED record is written. -/
def trapPoison (r : Reg) (kind : Nat) (val vaddr : Word) (s : State) : Result :=
  .next (trapState .poison val (BitVec.ofNat 64 (r.toNat * 256 + kind))
    (consumedRecord s s.cur.1 s.cur.2 kind (inRegister s.cur.1) vaddr))

/-- POISON for a word of memory that an instruction consumes (R277): TCTX holds the consumer kind alone. -/
def trapPoisonWord (p : Place) (kind : Nat) (val vaddr : Word) (s : State) : Result :=
  .next (trapState .poison val (BitVec.ofNat 64 kind) (consumedRecord s s.cur.1 s.cur.2 kind (p.source s) vaddr))

/-- ILLEGAL with the instruction word (R329). -/
def trapIllegal (w : IWord) (s : State) : Result := trap .illegal (w.setWidth 64) 0 s

/-- The trap ends a context's use of WSKIP and of its handling: ACTIVE clears and slot 7 rests until the next trap
(R274). -/
def endHandling (s : State) (c : Nat) : State :=
  s.modCore c fun x =>
    { x with trap := { x.trap with active := false, handled := none }
             slots := (x.modCtx 7 fun y => { y with occupied := false }).slots }

/-- The oldest held trap is handed over when slot 7 is free (R271). -/
def handoffHeld (s : State) (c : Nat) : State :=
  match (s.core c).trap.held with
  | [] => s
  | r :: rest =>
    if (s.core c).trap.active then s
    else handoff (s.modCore c fun x => { x with trap := { x.trap with held := rest } }) c r

/-- Resumes the frozen context at TPC (R274, ERET): the pc is TPC, the budget is renewed where one is given, and the
context's next instruction is free of core watchpoints where WSKIP is set; WSKIP then clears. -/
def resumeFrozen (s : State) (c : Nat) (budget : Word) : State :=
  let t := (s.core c).trap
  let k := t.slot.toNat
  let s := s.modCtxAt c k fun x =>
    { x with frozen := false, pc := t.tpc, wskip := t.wskip,
             tbudget := if budget = 0 then x.tbudget
               else if 0xFFFFFFFF < budget.toNat then 0xFFFFFFFF else budget.setWidth 32 }
  s.modCore c fun x => { x with trap := { x.trap with wskip := false } }

end Sys2Proof.Machine
end

