-- ==== Sys2Proof/Machine/Operands.lean ====
section
/-!
DEFINITION. Operand forms that reach memory: the address checks of Table 7-3, translation, ownership, the management
core's regions, instruction fetch, effective addresses.
-/

namespace Sys2Proof.Machine

/-- What an access needs of its page and its unit (Table 7-10), and whether it is a scalar load or store, the only kind a
device register takes (R172), or an LD or ST form, the only kind a FIFO port takes (R180, R383, R405). -/
structure Need where
  rd : Bool := false
  w : Bool := false
  x : Bool := false
  plain : Bool := false
  port : Bool := false
  /-- no ownership is needed (CLEAN) -/
  noOwner : Bool := false
  /-- no core watchpoint matches (FEEMPTY, FEPROBE, R376) -/
  quiet : Bool := false
  /-- core watchpoints match it as a read alone (LDFE.TAKE, R376) -/
  asRead : Bool := false
  deriving DecidableEq, Repr

/-- A load. -/
def needLoad : Need := { rd := true, plain := true, port := true }
/-- A store. -/
def needStore : Need := { w := true, plain := true, port := true }
/-- LDO (R385). -/
def needLdo : Need := { rd := true, plain := true }
/-- STO (R409). -/
def needSto : Need := { w := true, plain := true }
/-- A read other than a plain load. -/
def needRead : Need := { rd := true }
/-- A write other than a plain store. -/
def needWrite : Need := { w := true }
/-- An atomic or a read-and-write form. -/
def needBoth : Need := { rd := true, w := true }
/-- LDFE.TAKE (R376). -/
def needTake : Need := { rd := true, w := true, asRead := true }

/-- The outcome of the address checks. -/
inductive Resolved where
  | ok (p : Place)
  | bad (c : Cause)
  /-- no TLB holds the page: a walk is needed (R185) -/
  | miss
  /-- the bank is switching: the access waits (R178) -/
  | busy
  deriving DecidableEq, Repr

/-- Who makes the access: core and slot for the private alias and the micro-TLB, the realm, supervisor or not. -/
structure Agent where
  core : Nat
  realm : BitVec 12
  super : Bool
  deriving DecidableEq, Repr

/-- The address is canonical in 48 bits (R166). -/
def canonical (va : Word) : Bool := (va.extractLsb' 0 48).signExtend 64 == va

/-- The address lies in global memory (Table 7-1). -/
def inGlobal (va : Word) : Bool := 0x4000000 ≤ va.toNat && va.toNat < 0x800000000000

/-- The address lies in the on-chip window (Table 7-1). -/
def inWindow (va : Word) : Bool := 0xFFFF800000000000 ≤ va.toNat

/-- The ownership word grants the realm what the access needs (R170, R171). -/
def ownerGrants (word : Word) (realm : BitVec 12) (need : Need) : Bool :=
  [0, 1, 2, 3].any fun k =>
    let e : BitVec 16 := word.extractLsb' (16 * k) 16
    e.getLsbD 15 && e.extractLsb' 0 12 == realm && (!need.rd || e.getLsbD 13) && (!need.w || e.getLsbD 14)

/-- A core's local SRAM grants the agent the access; a supervisor is never checked (R171). -/
def ownsCore (s : State) (g : Agent) (c : Nat) (need : Need) : Bool :=
  g.super || need.noOwner || ownerGrants (fget s.mem.ownCore 0 c) g.realm need

/-- A cluster's scratch grants the agent the access. -/
def ownsCluster (s : State) (g : Agent) (n : Nat) (need : Need) : Bool :=
  g.super || need.noOwner || ownerGrants (fget s.mem.ownCluster 0 n) g.realm need

/-- A bank of a cluster. -/
def State.bank (s : State) (n b : Nat) : Bank := fget (s.cluster n).banks {} b

/-- The domain port byte of a package at the agent's source router (R79, R80): reachable or not. -/
def reachable (s : State) (core pkg : Nat) : Bool :=
  (fget (s.router (routerOf core)).domainPorts 0 pkg).getLsbD 7

/-- The Wiolo port by which a core's requests leave for a package (R80). -/
def exitPort (s : State) (core pkg : Nat) : Nat := (fget (s.router (routerOf core)).domainPorts 0 pkg).toNat % 16

/-- A Wiolo port is UP: while it is not, what has been sent by it, and what answers it, is held (R81). -/
def State.portIsUp (s : State) (port : Nat) : Bool := (fget s.wioloPorts {} port).state = 2

/-- An access of a core's unit to another package is held: its port is not UP (R80, R81). -/
def State.linkHolds (s : State) (core : Nat) : Place → Bool
  | .other pkg _ _ => !s.portIsUp (exitPort s core pkg)
  | _ => false

/-- The device register at a BAR0 offset is one that only supervisors reach: its map gives it access code SRW (R4). -/
def devSuper (o : Nat) : Bool :=
  (0x100000 ≤ o && o < 0x140000) || (0x150000 ≤ o && o < 0x150800 && o % 0x100 ≠ 8) || o == 0x171000 ||
    (0x180000 ≤ o && o < 0x18A000) || (0x190000 ≤ o && o < 0x190800) || (0x200000 ≤ o && o < 0x240000)

/-- A user context may not reach the place (R4). -/
def Place.userBarred (super : Bool) : Place → Bool
  | .device o => !super && devSuper o
  | _ => false

/-- The bytes of a host-aperture line that its slice holds (R181). -/
def Mem.aperPresent (m : Mem) (off : Nat) : BitVec 128 := (fget m.aper {} (off / 128)).present

/-- A read of n bytes of the host aperture goes to the host, which completes it with an error status (R294). -/
def State.hostFails (s : State) (off n : Nat) (need : Need) (nc : Bool) : Bool :=
  need.rd && (nc || (rangeMask (off % 128) n &&& ~~~(s.mem.aperPresent off)) != 0) &&
    Config.hostAborts s.cycle.toNat (s.hostAddr off)

/-- Step 9 of Table 7-3: where a physical address leads (R172, R175); a request that the host ends with an error counts as
unbacked (R294). -/
def placeOfPhys (s : State) (g : Agent) (pa : Nat) (size : Nat) (need : Need) (nc const : Bool) : Resolved :=
  let pkg := pa / 2 ^ 42
  let off := pa % 2 ^ 42
  if pkg ≠ s.package.toNat then
    if reachable s g.core pkg then .ok (.other pkg pa false) else .bad .bounds
  else if off < 0x10000000000 then .ok (.global off nc const)
  else if off < 0x20000000000 then
    if s.host.linkUp && !s.hostFails off size need nc then .ok (.host off nc const) else .bad .bounds
  else if 0x30000000000 ≤ off && off < 0x30000400000 then
    if size == 8 && need.plain then .ok (.device (off - 0x30000000000)) else .bad .bounds
  else if 0x38000000000 ≤ off && off < 0x38004000000 then .ok (.global off nc const)
  else .bad .bounds

/-! ### Translation (R182 to R185) -/

/-- n bytes, within one word, as a read at home finds them, with the word's poison: for a host-aperture line that is not NC,
the bytes that the slice holds and the host's for the others (R181). -/
def readAt (s : State) (off n : Nat) (nc : Bool) : Word × Bool :=
  let k := s.homeKey off true
  let p := s.mem.aperPresent off
  if !isAper off || nc || (p &&& rangeMask (off % 128) n) = 0 then (s.mem.load k n, s.mem.psn k)
  else
    let byte (i : Nat) : Nat := (s.mem.byte (if p.getLsbD (off % 128 + i) then keyAper (off + i) else k + i)).toNat
    (BitVec.ofNat 64 ((List.range n).foldr (fun i a => byte i + 256 * a) 0),
     s.mem.psn (keyAper off) || ((rangeMask (off % 128) n &&& ~~~p) != 0 && s.mem.psn k))

/-- The memory of this package that answers a read of a page-table word: a read that the host ends with an error finds none
(R183, R294). -/
def State.tableAt (s : State) (pa : Nat) : Option Nat :=
  (s.backed pa).filter fun off => !(isAper off && s.hostFails off 8 needRead false)

/-- A page-table word, read at its home slice; none if its address names another package, is unbacked, or the word is
poisoned. -/
def tableWord (s : State) (pa : Nat) : Option Word :=
  match s.tableAt pa with
  | some off => if (readAt s off 8 false).2 then none else some (readAt s off 8 false).1
  | none => none

/-- The address of a table entry, bits [51:12] (Table 7-9). -/
def pteAddr (e : Word) : Nat := (e.extractLsb' 12 40).toNat * 4096

/-- A leaf is well formed for a page of 2^logSize bytes (R183). -/
def leafOk (e : Word) (logSize : Nat) : Bool :=
  e.getLsbD 0 && e.extractLsb' 52 12 == 0 && e.extractLsb' 7 5 == 0 &&
    (e.getLsbD 2 || !(e.getLsbD 3 || e.getLsbD 5)) && !(e.getLsbD 3 && e.getLsbD 5) && pteAddr e % 2 ^ logSize == 0

/-- A next-table entry is well formed for a table of n bytes (R183). -/
def nextOk (e : Word) (n : Nat) : Bool :=
  e.getLsbD 0 && e.extractLsb' 52 12 == 0 && e.extractLsb' 2 10 == 0 && pteAddr e % n == 0

/-- The translation a leaf gives. -/
def leafEntry (realm : BitVec 12) (va : Word) (e : Word) (logSize : Nat) : TlbEntry :=
  { realm, vpage := va.toNat / 2 ^ logSize * 2 ^ logSize, logSize, ppage := pteAddr e, perms := e.extractLsb' 2 5 }

/-- The outcome of a page-table walk (R183): a translation with the non-leaf entries read, or PAGE; `poison` is the address of
the poisoned word that ended it. -/
structure Walked where
  entry : Option TlbEntry := none
  nexts : List WalkEntry := []
  poison : Option Nat := none
  deriving DecidableEq, Repr

/-- A table word at a physical address, or how a poisoned or an unbacked one ends the walk. -/
def walkWord (s : State) (pa : Nat) (f : Word → Walked) : Walked :=
  match tableWord s pa with
  | some e => f e
  | none => { poison := (s.tableAt pa).bind fun off => if (readAt s off 8 false).2 then some pa else none }

/-- The non-leaf entry of a walk, which a walk cache may keep unless its next table is not backed in this package: such an entry
faults (R183, R185). -/
def Walked.via (r : Walked) (s : State) (realm : BitVec 12) (va : Word) (level logSize table : Nat) : Walked :=
  if (s.backed table).isNone then r
  else { r with nexts := { realm, level, vpage := va.toNat / 2 ^ logSize, table } :: r.nexts }

/-- Level 3: 64 KiB pages. -/
def walk3 (s : State) (realm : BitVec 12) (va : Word) (table : Nat) : Walked :=
  walkWord s (table + 8 * (va.extractLsb' 16 11).toNat) fun e =>
    { entry := if e.getLsbD 1 && leafOk e 16 then some (leafEntry realm va e 16) else none }

/-- Level 2: a leaf of 128 MiB, or the table of level 3. -/
def walk2 (s : State) (realm : BitVec 12) (va : Word) (table : Nat) : Walked :=
  walkWord s (table + 8 * (va.extractLsb' 27 10).toNat) fun e =>
    if e.getLsbD 1 then { entry := if leafOk e 27 then some (leafEntry realm va e 27) else none }
    else if !nextOk e 16384 then {}
    else (walk3 s realm va (pteAddr e)).via s realm va 2 27 (pteAddr e)

/-- Level 1: a leaf of 128 GiB, or the table of level 2. -/
def walk1 (s : State) (realm : BitVec 12) (va : Word) (table : Nat) : Walked :=
  walkWord s (table + 8 * (va.extractLsb' 37 11).toNat) fun e =>
    if e.getLsbD 1 then { entry := if leafOk e 37 then some (leafEntry realm va e 37) else none }
    else if !nextOk e 8192 then {}
    else (walk2 s realm va (pteAddr e)).via s realm va 1 37 (pteAddr e)

/-- The next table that a walk cache holds for the address at a level, where it still holds it: the cache's size is open (R185,
log 63). -/
def cachedTable (s : State) (cache : List WalkEntry) (realm : BitVec 12) (va : Word) (level logSize : Nat) : Option Nat :=
  (cache.find? fun e => e.realm == realm && e.level == level && e.vpage == va.toNat / 2 ^ logSize &&
    Config.walkHit s.cycle.toNat e.table).map (·.table)

/-- A walk of the realm's tables (R182, R183) that begins at the table its router's walk cache gives, or at the realm's
entry. -/
def walkFrom (s : State) (cache : List WalkEntry) (realm : BitVec 12) (va : Word) : Walked :=
  match cachedTable s cache realm va 2 27, cachedTable s cache realm va 1 37 with
  | some t, _ => walk3 s realm va t
  | none, some t => walk2 s realm va t
  | none, none =>
    let entry := s.mem.realmtab.toNat * 2 ^ 16 + 16 * realm.toNat
    walkWord s entry fun r0 =>
      walkWord s (entry + 8) fun r1 =>
        if !r0.getLsbD 63 || r0.extractLsb' 52 11 != 0 || r0.extractLsb' 0 14 != 0 || r1 != 0 then {}
        else walk1 s realm va ((r0.extractLsb' 14 38).toNat * 2 ^ 14)

/-- The walk of the page-table walker that serves a core (R185). -/
def walkTables (s : State) (core : Nat) (realm : BitVec 12) (va : Word) : Walked :=
  walkFrom s (s.router (routerOf core)).walkCache realm va

/-- The router keeps the non-leaf entries that a walk has read (R185). -/
def keepNexts (s : State) (core : Nat) (l : List WalkEntry) : State :=
  if l.isEmpty then s
  else s.modRouter (routerOf core) fun x => { x with walkCache := l ++ x.walkCache.filter fun e => !l.contains e }

/-- The error record of a poisoned table word (R183): its address, the slice that holds it, and for whom it was read. -/
def walkRecord (s : State) (w : Walked) (va ctxw pc : Word) : State :=
  match w.poison with
  | none => s
  | some pa =>
    pkgErrRecord s 0 (BitVec.ofNat 64 pa) va ctxw pc (BitVec.ofNat 64 (3 * 2 ^ 56 + sliceOf (pa % 2 ^ 42) * 2 ^ 40))

/-- The set of a cluster TLB that a translation enters: 128 sets of 8 ways, by the page number's low bits (R185, log 63). -/
def TlbEntry.set (e : TlbEntry) : Nat := e.vpage / 2 ^ e.logSize % 128

/-- A translation enters the cluster TLB: of its set the 7 youngest others stay (R185). -/
def tlbInsert (e : TlbEntry) (l : List TlbEntry) : List TlbEntry :=
  let keep := (l.filter fun x => x ≠ e && x.set == e.set).take 7
  e :: l.filter fun x => x ≠ e && (x.set ≠ e.set || keep.contains x)

/-- The entry covers the address in the realm. -/
def TlbEntry.covers (e : TlbEntry) (realm : BitVec 12) (va : Word) : Bool :=
  e.realm == realm && e.vpage ≤ va.toNat && va.toNat < e.vpage + 2 ^ e.logSize

/-- A translation that the core's micro-TLB or its cluster's TLB holds (R185). -/
def tlbLookup (s : State) (core : Nat) (realm : BitVec 12) (va : Word) : Option TlbEntry :=
  match (s.core core).microTlb.find? (·.covers realm va) with
  | some e => some e
  | none => (s.cluster (clusterOf core)).tlb.find? (·.covers realm va)

/-- Steps 8 and 9 of Table 7-3 on a translation. -/
def useEntry (s : State) (g : Agent) (va : Word) (size : Nat) (need : Need) (e : TlbEntry) : Resolved :=
  if (need.rd && !e.perms.getLsbD 0) || (need.w && !e.perms.getLsbD 1) || (need.x && !e.perms.getLsbD 2) then .bad .prot
  else placeOfPhys s g (e.ppage + (va.toNat - e.vpage)) size need (e.perms.getLsbD 4) (e.perms.getLsbD 3)

/-- Steps 7 to 9 of Table 7-3. A supervisor translates in realm 0 (R182). `walkNow` is set for the units that walk
without a TLB of this model (engines, copies, walkers). -/
def translate (s : State) (g : Agent) (va : Word) (size : Nat) (need : Need) (walkNow : Bool) : Resolved :=
  let realm := if g.super then 0 else g.realm
  match tlbLookup s g.core realm va with
  | some e => useEntry s g va size need e
  | none =>
    if walkNow then
      match (walkTables s g.core realm va).entry with
      | some e => useEntry s g va size need e
      | none => .bad .page
    else .miss

/-- What the walk that `translate` makes at once leaves behind: its non-leaf entries in the walk cache, and the error record of
a poisoned table word (R183, R185). -/
def noteWalk (s : State) (g : Agent) (va : Word) : State :=
  let realm := if g.super then 0 else g.realm
  if g.core = mgmtCore || !inGlobal va || (tlbLookup s g.core realm va).isSome then s
  else
    let w := walkTables s g.core realm va
    walkRecord (keepNexts s g.core w.nexts) w va (realm.setWidth 64 <<< 23) 0

/-- How an engine's, a copy's or a walker's access to another package fails there: refused for want of ownership, or unbacked
(R171, R175, log 10). -/
def foreignCause (s : State) (p : Place) : Option Cause :=
  match p with
  | .other _ a _ => (Config.foreignFault s.free a).map fun prot => if prot then .prot else .bounds
  | _ => none

/-- The state after what another package answers has been drawn. -/
def drawnFor (s : State) (p : Place) : State :=
  match p with
  | .other _ _ _ => s.drawn
  | _ => s

/-! ### The private regions and the window (steps 4 to 6 of Table 7-3) -/

/-- A scratch access: the bank must be SCRATCH, and the realm must own the cluster's scratch. -/
def scratchPlace (s : State) (g : Agent) (n off : Nat) (need : Need) (win : Bool) : Resolved :=
  let b := s.bank n (off / 0x80000)
  if b.busy then .busy
  else if b.mode ≠ .scratch then .bad .bounds
  else if !ownsCluster s g n need then .bad .prot
  else .ok (.scratch n off win)

/-- A FIFO-port access (R180): LD.D and ST.D, with the indexed forms that act as they do, at +0x00 and +0x08 of a FIFO
bank. -/
def fifoPlace (s : State) (g : Agent) (n off size : Nat) (need : Need) : Resolved :=
  let b := s.bank n (off / 64)
  if b.busy then .busy
  else if b.mode ≠ .fifo || !need.port || size ≠ 8 || !(off % 64 = 0 || off % 64 = 8) then .bad .bounds
  else if !ownsCluster s g n need then .bad .prot
  else .ok (.fifo n (off / 64) (off % 64))

/-- A window access (Table 7-2). -/
def windowPlace (s : State) (g : Agent) (va : Word) (need : Need) : Resolved :=
  let pkg := (va.extractLsb' 37 10).toNat
  let n := (va.extractLsb' 29 8).toNat
  let unit := (va.extractLsb' 24 5).toNat
  let off := (va.extractLsb' 0 24).toNat
  if isSliceRouter (n / 4) || 16 < unit || (unit < 16 && 0x80000 ≤ off) || (unit = 16 && 0x800000 ≤ off) then
    .bad .bounds
  else if pkg ≠ s.package.toNat then
    if reachable s g.core pkg then .ok (.other pkg va.toNat true) else .bad .bounds
  else if unit = 16 then
    if !s.usableCluster n then .bad .bounds else scratchPlace s g n off need true
  else if !s.usableCore (16 * n + unit) then .bad .bounds
  else if !ownsCore s g (16 * n + unit) need then .bad .prot
  else .ok (.sram (16 * n + unit) off true)

/-- The management core's regions (R299): an access lies wholly in an enabled region that grants its kind; an atomic needs W
alone. -/
def regionAllows (s : State) (a size : Nat) (need : Need) : Bool :=
  (List.range 8).any fun n =>
    let ctl := fget s.mgmt.mpctl 12 n
    let lg := (ctl.extractLsb' 0 6).toNat
    let base := (fget s.mgmt.mpbase 0 n).toNat * 4096 / 2 ^ lg * 2 ^ lg
    ctl.getLsbD 9 && (!need.rd || need.w || ctl.getLsbD 8) && (!need.w || ctl.getLsbD 7) && (!need.x || ctl.getLsbD 6) &&
      base ≤ a && a + size ≤ base + 2 ^ lg

/-- The management core's checks (R298): bits [63:52], alignment, regions, the physical map. -/
def resolveMgmt (s : State) (g : Agent) (va : Word) (size : Nat) (need : Need) : Resolved :=
  if va.extractLsb' 52 12 != 0 then .bad .bounds
  else if va.toNat % size ≠ 0 then .bad .align
  else if !g.super && !regionAllows s va.toNat size need then .bad .prot
  else placeOfPhys s g va.toNat size need true false

/-- Steps 2 to 9 of Table 7-3 for a data access of `size` bytes. `aligned` is clear for forms that never raise ALIGN
(R188). -/
def resolve (s : State) (g : Agent) (va : Word) (size : Nat) (need : Need) (aligned walkNow : Bool) : Resolved :=
  if g.core = mgmtCore then resolveMgmt s g va (if aligned then size else 1) need
  else if !canonical va then .bad .bounds
  else if aligned && va.toNat % size ≠ 0 then .bad .align
  else if inWindow va then windowPlace s g va need
  else if inGlobal va then translate s g va size need walkNow
  else if va.toNat < 0x80000 then
    if ownsCore s g g.core need then .ok (.sram g.core va.toNat false) else .bad .prot
  else if 0x1000000 ≤ va.toNat && va.toNat < 0x1800000 then
    scratchPlace s g (clusterOf g.core) (va.toNat - 0x1000000) need false
  else if 0x2000000 ≤ va.toNat && va.toNat < 0x2000400 then
    fifoPlace s g (clusterOf g.core) (va.toNat - 0x2000000) size need
  else .bad .bounds

/-- The agent of the issuing context: its core, realm, and whether it is a supervisor. -/
def State.agent (s : State) : Agent :=
  { core := s.cur.1, realm := if s.isSuper then 0 else s.ctx.realm, super := s.isSuper }

/-! ### Bytes of a place -/

/-- The key of a place's first byte, where a write puts it; a device, a FIFO and another package have none. -/
def Place.key? (s : State) : Place → Option Nat
  | .sram c o _ => some (keySram c o)
  | .scratch n o _ => some (keyScratch n o)
  | .global o _ _ => some (keyGlobal o)
  | .host o nc _ => some (s.homeKey o nc)
  | .fifo _ _ _ | .device _ | .other _ _ _ => none

/-- The place lies in global memory or the host aperture of this package: its package offset. -/
def Place.offset? : Place → Option Nat
  | .global o _ _ | .host o _ _ => some o
  | _ => none

/-- The line is one that cluster caches hold: translated, not NC, of this package (R175, R179). -/
def Place.cacheable : Place → Bool
  | .global _ nc _ | .host _ nc _ => !nc
  | _ => false

/-! ### Fetch (R169) -/

/-- The outcome of a fetch. -/
inductive Fetch where
  | word (w : IWord)
  /-- a cause, TVAL, TCTX -/
  | fault (c : Cause) (val ctx : Word)
  /-- a walk is needed -/
  | miss
  | busy
  deriving DecidableEq, Repr

/-- n bytes, within one word, at the home or the SRAM; a device, a FIFO port and another package have none here. -/
def readHome (s : State) (p : Place) (n : Nat) : Word × Bool :=
  match p with
  | .host o nc _ => readAt s o n nc
  | _ =>
    match p.key? s with
    | some k => (s.mem.load k n, s.mem.psn k)
    | none => (0, false)

/-- A CONST read outstanding at the home's router that a read of the same line merges into (R76). -/
def State.mergesInto (s : State) : Place → Option ConstRead
  | .global o _ true | .host o _ true =>
    (s.router (sliceRouter (sliceOf o))).constReads.find? fun e => e.line == o / 128 && e.merged < 16
  | _ => none

/-- A merge is counted, in its entry and in MERGED (R76). -/
def State.merged (s : State) (p : Place) : State :=
  match s.mergesInto p, p.offset? with
  | some e, some o =>
    s.modRouter (sliceRouter (sliceOf o)) fun x =>
      { x with
        constReads := x.constReads.map fun y => if y.id == e.id then { y with merged := y.merged + 1 } else y
        counters := fset x.counters 0 4 (fget x.counters 0 4 + 1) }
  | _, _ => s

/-- n bytes, within one word, of a place as a read that leaves nothing outstanding gets them: those of an outstanding CONST
read of the line, or what lies at the home (R76). -/
def readMerged (s : State) (p : Place) (n : Nat) : Word × Bool :=
  match s.mergesInto p, p.offset? with
  | some e, some o =>
    (((e.data >>> (8 * (o % 128))).setWidth 64) &&& BitVec.ofNat 64 (2 ^ (8 * n) - 1), e.psn.getLsbD (o % 128 / 8))
  | _, _ => readHome s p n

/-- The word at a place, or POISON with kind 6 and TVAL the PC (R277). The word of another package is a free value, and so is an
error response of that package (R79, R175). -/
def fetchAt (s : State) (pc : Word) (p : Place) : Fetch :=
  let use (v : Word × Bool) : Fetch := if v.2 then .fault .poison pc 6 else .word (v.1.setWidth 32)
  match p with
  | .other _ a _ =>
    match Config.foreignFetch s.cycle.toNat a with
    | some v => use v
    | none => .fault .bounds pc 0
  | .fifo _ _ _ | .device _ => .fault .prot pc 0
  | _ => use (readMerged s p 4)

/-- Where a fetch at an address leads for context k of core c (R169, R298). -/
def fetchPlace (s : State) (c k : Nat) (pc : Word) : Resolved :=
  let g : Agent := { core := c, realm := if k = 7 then 0 else (s.ctxAt c k).realm, super := k == 7 }
  let need : Need := { x := true }
  if c = mgmtCore then resolveMgmt s g pc 4 need
  else if !canonical pc then .bad .bounds
  else if pc.toNat % 4 ≠ 0 then .bad .align
  else if pc.toNat < 0x80000 then
    if ownsCore s g c { rd := true } then .ok (.sram c pc.toNat false) else .bad .prot
  else if inGlobal pc then translate s g pc 4 need false
  else .bad .prot

/-- The word that the management core's supervisor fetches from its ROM, where the PC passes the checks of R298 that come before
the map (R299, log 14). -/
def romFetch (c k : Nat) (pc : Word) : Option IWord :=
  if c = mgmtCore && k = 7 && pc.extractLsb' 52 12 == 0 && pc.toNat % 4 = 0 then Config.romWord pc.toNat else none

/-- Fetch of the word at an address for context k of core c. -/
def fetchWord (s : State) (c k : Nat) (pc : Word) : Fetch :=
  match romFetch c k pc with
  | some w => .word w
  | none =>
    match fetchPlace s c k pc with
    | .ok p => if s.linkHolds c p then .busy else fetchAt s pc p
    | .bad e => .fault e pc 0
    | .miss => .miss
    | .busy => .busy

/-- The CONSUMED record of a poisoned instruction word (R277, R441). -/
def fetchRecord (s : State) (pc : Word) : State :=
  match fetchPlace s s.cur.1 s.cur.2 pc with
  | .ok p => consumedRecord s s.cur.1 s.cur.2 6 (p.source s) 0
  | _ => s

/-! ### Walks and core watchpoints -/

/-- Posts a page-table walk for context k of core c unless it already has one or its router's 32 are taken (R185). -/
def postWalk (s : State) (c k : Nat) (va : Word) : State :=
  if s.mem.walks.any (fun w => w.core == c && w.slot == k) ||
      32 ≤ (s.mem.walks.filter fun w => routerOf w.core == routerOf c).length then s
  else
    s.modMem fun m =>
      { m with walks := m.walks ++ [{ id := m.nextReq, core := c, slot := k, gen := (s.ctxAt c k).gen, va,
                                      realm := if k = 7 then 0 else (s.ctxAt c k).realm }],
               nextReq := m.nextReq + 1 }

/-- The core watchpoint that an access of the issuing context matches, lowest first (R288): kind 1 read, 2 write, 3
fetch. -/
def watchHit (s : State) (kind : Nat) (va : Word) (size : Nat) : Option Nat :=
  if s.ctx.wskip || s.cur.1 = mgmtCore then none
  else [0, 1, 2, 3].find? fun i =>
    let w := fget s.here.watch {} i
    w.hits va.toNat size && (!w.rmatch || w.realm == s.ctx.realm) &&
      (if kind = 1 then w.rd else if kind = 2 then w.wr else w.x)

/-- The kind under which an access meets a core watchpoint: a form that writes matches as a write where a watchpoint
has WR, and otherwise as a read (R348). -/
def watchKinds (need : Need) : List Nat :=
  if need.quiet then [] else (if need.w && !need.asRead then [2] else []) ++ (if need.rd then [1] else [])

/-- The first matching watchpoint of an access, with the kind. -/
def watchOf (s : State) (need : Need) (va : Word) (size : Nat) : Option (Nat × Nat) :=
  (watchKinds need).findSome? fun k => (watchHit s k va size).map (·, k)

/-- Where the issuing context's access led that another package has answered (R175). -/
def State.answered (s : State) : Option Place :=
  match s.ctx.answer, s.ctx.asked with
  | some _, (_, p) :: _ => some p
  | _, _ => none

/-- The word at the issuing context's PC, as a PRIV trap's TVAL. -/
def issuedWord (s : State) : Word :=
  match fetchWord s s.cur.1 s.cur.2 s.ctx.pc with
  | .word w => w.setWidth 64
  | .fault _ _ _ | .miss | .busy => 0

/-- Runs f on the place of a scalar access of the issuing context by address va, after the checks of Table 7-3 and the
core watchpoints, which see wn bytes at wva; a supervisor's device register raises PRIV in a user context (R4), a TLB miss
starts a walk and stalls, a switching bank stalls. An access that another package has answered was checked before it was sent,
and goes on as it began (R175). -/
def withPlaceAt (va : Word) (size : Nat) (need : Need) (aligned : Bool) (wva : Word) (wn : Nat)
    (f : Place → State → Result) (s : State) : Result :=
  match s.answered with
  | some p => f p s
  | none =>
    match resolve s s.agent va size need aligned false with
    | .bad c => trap c va 0 s
    | .miss => stall (postWalk s s.cur.1 s.cur.2 va)
    | .busy => stall s
    | .ok p =>
      if p.userBarred s.isSuper then trap .priv (issuedWord s) 0 s
      else
        match watchOf s need wva wn with
        | some (w, k) => trap .watch wva (BitVec.ofNat 64 (w + 4 * k)) s
        | none => f p s

/-- As `withPlaceAt` for an access of `size` bytes at va. -/
def withPlace (va : Word) (size : Nat) (need : Need) (aligned : Bool) (f : Place → State → Result) : State → Result :=
  withPlaceAt va size need aligned va size f

/-- As `withPlace`, with step 1 of Table 7-3 first: a poisoned address register raises POISON with kind 1. -/
def withAddr (a : Reg) (va : Word) (size : Nat) (need : Need) (aligned : Bool) (f : Place → State → Result) (s : State) :
    Result :=
  if s.ctx.psn a then trapPoison a 1 (s.ctx.reg a) va s else withPlace va size need aligned f s

/-! ### Effective addresses (R312, R319) -/

/-- Bytes of a load (R319). -/
def ldBytes : LdSize → Nat
  | .b | .bz => 1 | .h | .hz => 2 | .w | .wz => 4 | .d => 8

/-- The loaded value is sign-extended. -/
def ldSigned : LdSize → Bool
  | .b | .h | .w | .d => true
  | .bz | .hz | .wz => false

/-- Bytes of a store (R319). -/
def stBytes : StSize → Nat
  | .b => 1 | .h => 2 | .w => 4 | .d => 8

/-- Bytes of a MEMO form (Table 8-2). -/
def mBytes : MSize → Nat
  | .w => 4 | .d => 8

/-- g[a] + sext(imm12) × size (R312). -/
def miAddr (x : Ctx) (a : Reg) (i : BitVec 12) (size : Nat) : Word := x.reg a + i.signExtend 64 * BitVec.ofNat 64 size

/-- g[a] + (g[b] << log2 k) (R319). -/
def xAddr (x : Ctx) (a b : Reg) (k : BitVec 2) : Word := x.reg a + (x.reg b <<< k.toNat)

/-- Extends the n-byte value v to 64 bits. -/
def extendBytes (v : Word) (n : Nat) (signed : Bool) : Word :=
  match n with
  | 1 => if signed then (v.extractLsb' 0 8).signExtend 64 else (v.extractLsb' 0 8).setWidth 64
  | 2 => if signed then (v.extractLsb' 0 16).signExtend 64 else (v.extractLsb' 0 16).setWidth 64
  | 4 => if signed then (v.extractLsb' 0 32).signExtend 64 else (v.extractLsb' 0 32).setWidth 64
  | _ => v

end Sys2Proof.Machine
end

