-- ==== Sys2Proof/Machine/Access.lean ====
section
/-!
DEFINITION. Accesses and their ordering: the posted accesses of a context, cluster caches, reads and writes at the home,
acquires and releases (R175, R179, R199 to R209), waits.
-/

namespace Sys2Proof.Machine

/-! ### Waits (R84, R270, R286) -/

/-- The cycles a wait may last: WAITLIM, 0 meaning 2^32 (Table 4-3). -/
def Ctx.waitCycles (x : Ctx) : Nat := if x.waitlim = 0 then 2 ^ 32 else x.waitlim.toNat

/-- The context begins a wait, or goes on with the one it is in; the cycles left are those of the wait's beginning. -/
def Ctx.startWait (x : Ctx) (kind : WaitKind) (val : Word) : Ctx :=
  let left := match x.wait with
    | some w => if w.kind = kind then w.left else x.waitCycles
    | none => x.waitCycles
  { x with wait := some { kind, val, left }, bypass := 0 }

/-- The issuing context sleeps in its instruction. -/
def sleep (kind : WaitKind) (val : Word) (s : State) : Result := .next (s.modCtx (·.startWait kind val))

/-! ### Cluster caches (R179, R202, R203) -/

/-- A bank of the cluster is in CACHE. -/
def Cluster.hasCache (n : Cluster) : Bool := (List.range 16).any fun b => (fget n.banks {} b).mode == .cache

/-- The banks in CACHE: each is one way of every set (R179). -/
def Cluster.ways (n : Cluster) : List Nat := (List.range 16).filter fun b => (fget n.banks {} b).mode == .cache

/-- The lines held in the set of a package offset: line number L has set L mod 4096 (R179). -/
def Cluster.inSet (n : Cluster) (off : Nat) : FMap (Option Line) := n.lines.filter fun p => p.1 % 4096 = off / 128 % 4096

/-- The ways of the set of a package offset that hold no line. -/
def Cluster.emptyWays (n : Cluster) (off : Nat) : List Nat :=
  n.ways.filter fun w => !(n.inSet off).any fun p => p.2.map (·.way) == some w

/-- A bank leaves or enters CACHE: the cluster's cache accesses wait (R178). -/
def Cluster.cacheBusy (n : Cluster) : Bool :=
  (List.range 16).any fun b =>
    let x := fget n.banks {} b
    x.busy && (x.mode == .cache || x.from_ == .cache)

/-- The line of a cluster's cache that holds a package offset. -/
def Cluster.line (n : Cluster) (off : Nat) : Option Line := fget n.lines none (off / 128)

/-- Sets the line. -/
def Cluster.setLine (n : Cluster) (off : Nat) (l : Option Line) : Cluster :=
  { n with lines := fset n.lines none (off / 128) l }

/-- The bits of the bytes that a mask names. -/
def byteMask (m : BitVec 128) : BitVec 1024 :=
  BitVec.ofNat 1024 ((List.range 128).foldl (fun a i => if m.getLsbD i then a + 255 * 2 ^ (8 * i) else a) 0)

/-- Bytes of a where the mask is set, of b elsewhere. -/
def mergeBytes (m : BitVec 128) (a b : BitVec 1024) : BitVec 1024 := (a &&& byteMask m) ||| (b &&& ~~~(byteMask m))

/-- The eight bits of word w of a byte mask. -/
def wordBytes8 (m : BitVec 128) (w : Nat) : BitVec 8 := m.extractLsb' (8 * w) 8

/-- The line at home that holds an offset: data, poison per word; of a host-aperture line that is not NC the bytes that the
slice holds and the host's for the others (R181). -/
def homeLine (s : State) (off : Nat) (nc : Bool) : BitVec 1024 × BitVec 16 :=
  let base := off / 128 * 128
  let k := s.homeKey base true
  let bits (f : Nat → Bool) : BitVec 16 := BitVec.ofNat 16 ((List.range 16).foldl (fun a w => if f w then a + 2 ^ w else a) 0)
  let p := s.mem.aperPresent base
  if !isAper off || nc || p = 0 then (BitVec.ofNat 1024 (s.mem.read k 128), bits fun w => s.mem.psn (k + 8 * w))
  else
    (mergeBytes p (BitVec.ofNat 1024 (s.mem.read (keyAper base) 128)) (BitVec.ofNat 1024 (s.mem.read k 128)),
     bits fun w => s.mem.psn (keyAper base + 8 * w) || (wordBytes8 p w != BitVec.allOnes 8 && s.mem.psn (k + 8 * w)))

/-- A CONST read of a place becomes outstanding at the home's router, up to 32, with the line it answers with (R76). -/
def State.outstanding (s : State) (p : Place) (id : Nat) (h : BitVec 1024 × BitVec 16) : State :=
  match p with
  | .global o _ true | .host o _ true =>
    s.modRouter (sliceRouter (sliceOf o)) fun x =>
      if x.constReads.length < 32 then
        { x with constReads := x.constReads ++ [{ id, line := o / 128, merged := 0, data := h.1, psn := h.2 }] }
      else x
  | _ => s

/-- A read of a line at its home, for the place of a byte in it. A CONST read of a line whose CONST read is outstanding at the
home's router is answered with that read's data and counted in MERGED; else it becomes outstanding where a posted access,
`id`, makes it (R76). -/
def fetchLine (s : State) (p : Place) (off : Nat) (nc : Bool) (id : Option Nat) : (BitVec 1024 × BitVec 16) × State :=
  match s.mergesInto p with
  | some e => ((e.data, e.psn), s.merged p)
  | none =>
    let h := homeLine s off nc
    match id with
    | some i => (h, s.outstanding p i h)
    | none => (h, s)

/-- The line after a fill: bytes held dirty stay, and so do present bytes of a line that is not stale; a word none of
whose bytes stays takes the home's poison, a word that keeps some ORs it (R179, R203). -/
def Line.fill (l : Line) (h : BitVec 1024 × BitVec 16) : Line :=
  let keep := if l.stale then l.dirty else l.dirty ||| l.present
  { l with
    data := mergeBytes keep l.data h.1
    present := BitVec.allOnes 128
    stale := false
    psn := BitVec.ofNat 16 ((List.range 16).foldl (fun a w =>
      let k := wordBytes8 keep w
      let p := if k = BitVec.allOnes 8 then l.psn.getLsbD w
        else if k = 0 then h.2.getLsbD w else l.psn.getLsbD w || h.2.getLsbD w
      if p then a + 2 ^ w else a) 0) }

/-- A read of n bytes at offset off needs the home: a byte is not present, or a clean byte of a stale line (R179, R203). -/
def Line.needsFill (l : Line) (off n : Nat) : Bool :=
  let m := rangeMask (off % 128) n
  (m &&& ~~~l.present) != 0 || (l.stale && (m &&& ~~~l.dirty) != 0)

/-- Writes the bytes of a line that a mask names from key k, with the poison of the words written (Table 11-5). -/
def Mem.putLine (m : Mem) (k : Nat) (data : BitVec 1024) (mask : BitVec 128) (psn : BitVec 16) : Mem :=
  let m := (List.range 128).foldl
    (fun m i => if mask.getLsbD i then m.setByte (k + i) (data.extractLsb' (8 * i) 8) else m) m
  (List.range 16).foldl (fun m i =>
    if wordBytes8 mask i = 0 then m
    else if psn.getLsbD i then m.setPsn (k + 8 * i) true
    else if wordBytes8 mask i = BitVec.allOnes 8 then m.setPsn (k + 8 * i) false else m) m

/-- Writes the bytes of a line that a mask names at the home; one write for reservations and watchpoints (R192, R289). -/
def homeWriteLine (s : State) (off : Nat) (nc : Bool) (data : BitVec 1024) (mask : BitVec 128) (psn : BitVec 16)
    (w : WriterId) : State :=
  let base := off / 128 * 128
  let m := s.mem.putLine (s.homeKey base nc) data mask psn
  let m := if isAper off && !nc then m.aperWrote base mask else m
  { s with mem := { m with resv := breakResv m.resv (base / 128) }, notes := s.notes ++ lineNotices s base mask w }

/-- Writes back the dirty bytes of a cluster's line: the line becomes clean, its writer mask zero (R202). -/
def writeBackLine (s : State) (n0 off : Nat) : State :=
  match (s.cluster n0).line off with
  | none => s
  | some l =>
    if l.dirty = 0 then s
    else
      (homeWriteLine s off false l.data l.dirty l.psn { wkind := 0, wcore := 0xFFF }).modCluster n0 fun c =>
        c.setLine off (some { l with dirty := 0, writers := 0 })

/-- Drops a cluster's line; its dirty bytes are lost. -/
def dropLine (s : State) (n0 off : Nat) : State := s.modCluster n0 fun c => c.setLine off none

/-- The slice writes the dirty bytes of a host-aperture line to the host (R181); with the link down they stay. -/
def hostWriteBack (s : State) (line : Nat) : State :=
  let l := fget s.mem.aper {} line
  if l.dirty = 0 || !s.host.linkUp then s
  else
    let k := keyAper (128 * line)
    let psn : BitVec 16 := BitVec.ofNat 16 ((List.range 16).foldl (fun a i => if s.mem.psn (k + 8 * i) then a + 2 ^ i else a) 0)
    s.modMem fun m =>
      let m := m.putLine (keyHost (s.hostAddr (128 * line))) (BitVec.ofNat 1024 (m.read k 128)) l.dirty psn
      { m with aper := fset m.aper {} line { l with dirty := 0 } }

/-- The slice drops a clean host-aperture line (R181): its bytes there read 0 again, which no access sees. -/
def hostDrop (s : State) (line : Nat) : State :=
  if (fget s.mem.aper {} line).dirty ≠ 0 then s
  else
    s.modMem fun m =>
      { m.putLine (keyAper (128 * line)) 0 (BitVec.allOnes 128) 0 with aper := fset m.aper {} line {} }

/-- The slice fetches a host-aperture line, keeping the bytes it holds (R181). -/
def hostFetch (s : State) (line : Nat) : State :=
  let l := fget s.mem.aper {} line
  let k := keyHost (s.hostAddr (128 * line))
  let psn : BitVec 16 := BitVec.ofNat 16 ((List.range 16).foldl (fun a i => if s.mem.psn (k + 8 * i) then a + 2 ^ i else a) 0)
  if l.present = BitVec.allOnes 128 || !s.host.linkUp then s
  else
    s.modMem fun m =>
      { m.putLine (keyAper (128 * line)) (BitVec.ofNat 1024 (m.read k 128)) (~~~l.present) psn with
        aper := fset m.aper {} line { l with present := BitVec.allOnes 128 } }

/-- The way that a line of a cluster's cache takes: the one it has; else one that holds no line of its set; else one whose line
leaves, its dirty bytes written back. Which of several is open (R179, log 62). -/
def makeRoom (s : State) (n0 off : Nat) : Nat × State :=
  let c := s.cluster n0
  match c.line off with
  | some l => (l.way, s)
  | none =>
    let pick (l : List Nat) : Nat := l.getD (Config.fillWay s.cycle.toNat (off / 128) % l.length) 0
    let free := c.emptyWays off
    if free ≠ [] then (pick free, s)
    else
      let w := pick c.ways
      (w, ((c.inSet off).filter fun p => p.2.map (·.way) == some w).foldl
        (fun s p => dropLine (writeBackLine s n0 (128 * p.1)) n0 (128 * p.1)) s)

/-- Reads n bytes, within one word, of a cacheable place at offset off through the cache of cluster n0: data, poison, the
writer mask of a dirty line. -/
def cachedRead (s : State) (n0 : Nat) (p : Place) (off n : Nat) (id : Option Nat) : Word × Bool × BitVec 16 × State :=
  let l := ((s.cluster n0).line off).getD {}
  let r :=
    if l.needsFill off n then
      let f := fetchLine s p off false id
      let room := makeRoom f.2 n0 off
      let l := { l.fill f.1 with way := room.1 }
      (l, room.2.modCluster n0 fun c => c.setLine off (some l))
    else (l, s)
  let v := (r.1.data >>> (8 * (off % 128))).setWidth 64
  let v := if n = 8 then v else v &&& BitVec.ofNat 64 (2 ^ (8 * n) - 1)
  (v, r.1.psn.getLsbD (off % 128 / 8), (if r.1.dirty = 0 then 0 else r.1.writers), r.2)

/-- The bytes of a word, placed at an offset of its line. -/
def placeBytes (off : Nat) (v : Word) : BitVec 1024 := v.setWidth 1024 <<< (8 * (off % 128))

/-- Writes n bytes, within one word, into the cache of cluster n0 by core q of the cluster; the line is allocated without
a read (R179). -/
def cachedWrite (s : State) (n0 off n : Nat) (v : Word) (p : Bool) (q : Nat) : State :=
  let m := rangeMask (off % 128) n
  let w := off % 128 / 8
  let bit := BitVec.ofNat 16 (2 ^ w)
  let room := makeRoom s n0 off
  room.2.modCluster n0 fun c =>
    let l := (c.line off).getD {}
    c.setLine off (some
      { l with
        data := mergeBytes m (placeBytes off v) l.data
        present := l.present ||| m
        dirty := l.dirty ||| m
        psn := if p then l.psn ||| bit else if n = 8 then l.psn &&& ~~~bit else l.psn
        writers := l.writers ||| BitVec.ofNat 16 (2 ^ q)
        way := room.1 })

/-- A read of n bytes, within one word, at the home or the SRAM (R76): a CONST read merges into an outstanding one, or becomes
outstanding where a posted access, `id`, makes it. -/
def readAtHome (s : State) (p : Place) (n : Nat) (id : Option Nat) : (Word × Bool) × State :=
  match s.mergesInto p, id, p with
  | some _, _, _ => (readMerged s p n, s.merged p)
  | none, some i, .global o nc true | none, some i, .host o nc true => (readHome s p n, s.outstanding p i (homeLine s o nc))
  | none, _, _ => (readHome s p n, s)

/-! ### The copy a scalar access reaches -/

/-- The access of a core goes through its cluster's cache (R175, R179). -/
def usesCache (s : State) (c : Nat) (p : Place) : Bool :=
  c ≠ mgmtCore && p.cacheable && (s.cluster (clusterOf c)).hasCache

/-- The writer's identity of a core's own write (Table 11-12). -/
def coreWriter (c : Nat) (realm : BitVec 12) (kind : Nat) : WriterId :=
  if c = mgmtCore then { wkind := 5, wcore := 0xFFF, plain := kind ≠ 1 }
  else { wkind := kind, wcore := c, realm := some realm, plain := kind ≠ 1 }

/-- The identity of a core's release: it is no plain write (R211, log 75). -/
def syncWriter (c : Nat) (realm : BitVec 12) : WriterId := { coreWriter c realm 0 with plain := false }

/-- A write of n bytes, within one word, at the home or the SRAM. -/
def writeHome (s : State) (p : Place) (n : Nat) (v : Word) (psn : Bool) (w : WriterId) : State :=
  match p with
  | .sram c o _ => writeSram s c o n v psn w
  | .scratch c o _ => writeScratch s c o n v psn w
  | .global o _ _ => writeGlobal s o n v psn w
  | .host o nc _ => writeHost s o n v psn nc w
  | .fifo _ _ _ | .device _ | .other _ _ _ => s

/-! ### Order within a context (R199, R207) -/

/-- The place is reached through the window (R168). -/
def Place.isWindow : Place → Bool
  | .sram _ _ w | .scratch _ _ w | .other _ _ w => w
  | _ => false

/-- The place is a FIFO port (R180). -/
def Place.isFifo : Place → Bool
  | .fifo _ _ _ => true
  | _ => false

/-- Two ranges of one unit's storage overlap. -/
def overlaps (a n b m : Nat) : Bool := a < b + m && b < a + n

/-- Two places, with their sizes, share a byte. -/
def Place.meets (p : Place) (n : Nat) (q : Place) (m : Nat) : Bool :=
  match p, q with
  | .sram c o _, .sram d r _ => c == d && overlaps o n r m
  | .scratch c o _, .scratch d r _ => c == d && overlaps o n r m
  | .global o _ _, .global r _ _ => overlaps o n r m
  | .host o _ _, .host r _ _ => overlaps o n r m
  | .device o, .device r => overlaps o n r m
  | .other c o _, .other d r _ => c == d && overlaps o n r m
  | .fifo c b _, .fifo d e _ => c == d && b == e
  | _, _ => false

/-- The posted access belongs to the task of context k of core c. -/
def Req.by (r : Req) (c k : Nat) (gen : BitVec 8) : Bool := r.core == c && r.slot == k && r.gen == gen

/-- The posted accesses of the issuing context. -/
def myReqs (s : State) : List Req := s.mem.reqs.filter fun r => r.by s.cur.1 s.cur.2 s.ctx.gen

/-- An access r that another task of core c has posted, and that a CORE-scope release of that task has passed while it
was outstanding: what the contexts of the core do later comes after it (R198, R205). -/
def Req.before (r : Req) (c k : Nat) (gen : BitVec 8) : Bool := r.fenced && r.core == c && !r.by c k gen

/-- Every earlier access of the issuing context to these bytes by this path has been performed, and every access of another
context of its core that a CORE-scope release has passed (R198, R199, R207). -/
def settled (s : State) (p : Place) (n : Nat) : Bool :=
  s.mem.reqs.all fun r =>
    r.done || !r.place.meets r.size p n ||
      !((r.by s.cur.1 s.cur.2 s.ctx.gen && r.place.isWindow == p.isWindow) || r.before s.cur.1 s.cur.2 s.ctx.gen)

/-- Every engine instruction that the issuing context dispatched has retired, or awaits a fault's disposal (R208, R256). -/
def engineIdle (s : State) : Bool :=
  s.cur.2 ≠ 0 || !(s.here.engine.queue ++ s.here.engine.running).any fun e => e.gen == s.ctx.gen

/-- The scope reaches beyond the cluster: releases write back and acquires mark stale (R202, R203). -/
def Scope.far : Scope → Bool
  | .core | .cluster => false
  | .group | .package | .domain => true

/-- A release at the scope writes the line back: core q wrote it, or a core of the observed set (R202). -/
def Line.qualifies (l : Line) (q : Nat) (obs : BitVec 16) : Bool :=
  l.dirty != 0 && (l.writers.getLsbD q || (l.writers &&& obs) != 0)

/-- Step 1 of R202: every earlier access of the issuing context has been performed and acknowledged; a CORE-scope release
counts a window access once the interface has it, a wider one also waits for those that CORE-scope releases of the core's
other contexts have passed, which happen before it (R198). -/
def step1Done (s : State) (scope : Scope) : Bool :=
  s.mem.reqs.all fun r =>
    if scope == .core then !r.by s.cur.1 s.cur.2 s.ctx.gen || r.place.isWindow
    else !r.by s.cur.1 s.cur.2 s.ctx.gen && !r.before s.cur.1 s.cur.2 s.ctx.gen

/-- A CORE-scope release passes the window accesses of its context that are outstanding (R202). -/
def passWindow (s : State) (scope : Scope) : State :=
  if scope == .core && !(myReqs s).isEmpty then
    s.modMem fun m =>
      { m with reqs := m.reqs.map fun r => if r.by s.cur.1 s.cur.2 s.ctx.gen then { r with fenced := true } else r }
  else s

/-- Step 2 of R202: no line of the cluster's cache qualifies any more. -/
def step2Done (s : State) : Bool :=
  s.cur.1 = mgmtCore ||
    (s.cluster (clusterOf s.cur.1)).lines.all fun p =>
      match p.2 with
      | some l => !l.qualifies (s.cur.1 % 16) s.ctx.obs
      | none => true

/-- A release at the scope is complete (R202, R208). -/
def releaseDone (s : State) (scope : Scope) : Bool :=
  step1Done s scope && engineIdle s && (!Scope.far scope || step2Done s)

/-- Runs f once a release at the scope is complete; until then the context stalls. The observed bits set when it began are
cleared (R202). -/
def withRelease (scope : Scope) (f : State → Result) (s : State) : Result :=
  let obs := match s.ctx.releasing with
    | some r => r.obs
    | none => s.ctx.obs
  if releaseDone s scope then
    f (if Scope.far scope then s.modCtx fun x => { x with obs := x.obs &&& ~~~obs } else passWindow s scope)
  else stall (s.modCtx fun x => { x with releasing := some { scope, obs } })

/-- An acquire of context k of core c at the scope: beyond CORE the observed set is all ones (R202), beyond CLUSTER the
cluster's lines turn stale (R203). -/
def acquireAt (s : State) (c k : Nat) (scope : Scope) : State :=
  match scope with
  | .core => s
  | .cluster => s.modCtxAt c k fun x => { x with obs := BitVec.allOnes 16 }
  | .group | .package | .domain =>
    let s := s.modCtxAt c k fun x => { x with obs := BitVec.allOnes 16 }
    if c = mgmtCore then s
    else s.modCluster (clusterOf c) fun n =>
      { n with lines := n.lines.map fun p => (p.1, p.2.map fun l => { l with stale := true }) }

/-- An acquire of the issuing context. -/
def acquire (s : State) (scope : Scope) : State := acquireAt s s.cur.1 s.cur.2 scope

/-- Runs f once the accesses to these bytes that come before it have been performed (R199). -/
def afterOwn (p : Place) (n : Nat) (f : State → Result) (s : State) : Result := if settled s p n then f s else stall s

/-- Runs f after the release of a form whose order asks for one; every form waits for its own earlier accesses to the bytes
(R199). -/
def ordered (o : MemOrder) (scope : Scope) (p : Place) (n : Nat) (f : State → Result) (s : State) : Result :=
  match o with
  | .rel | .acqRel => withRelease scope (afterOwn p n f) s
  | .plain | .acq => afterOwn p n f s

/-- The acquire of a form whose order asks for one. -/
def acquireIf (o : MemOrder) (scope : Scope) (s : State) : State :=
  match o with
  | .acq | .acqRel => acquire s scope
  | .plain | .rel => s

/-! ### Posting (R384, R406, R175) -/

/-- Posts an access of the issuing context. -/
def post (s : State) (va : Word) (place : Place) (size : Nat) (store : Bool) (data : Word) (psn : Bool) (d : Reg)
    (signed : Bool) : State :=
  s.modMem fun m =>
    { m with
      reqs := m.reqs ++ [{ id := m.nextReq, core := s.cur.1, slot := s.cur.2, gen := s.ctx.gen, realm := s.agent.realm,
                           va, place, size, store, data, psn, d := d.toNat, signed,
                           port := match place with
                             | .other pkg _ _ => exitPort s s.cur.1 pkg
                             | _ => 0 }]
      nextReq := m.nextReq + 1 }

/-- The context awaits the answer to the access of a number (R175). -/
def Ctx.asks (x : Ctx) (id : Nat) (l : List (Word × Place)) : Ctx := { x with await := some id, asked := l, bypass := 0 }

/-- An access to another package that asks for the listed lines: the first issue sends the request and the context awaits its
answer; issued again with the answer, f completes the instruction (R175). -/
def remoteAll (l : List (Word × Place)) (va : Word) (place : Place) (size : Nat) (store : Bool) (data : Word) (psn : Bool)
    (f : Word → Bool → State → Result) (s : State) : Result :=
  match s.ctx.answer with
  | some (v, p) => f v p s
  | none =>
    .next ((post s va place size store data psn 0 false).modCtx (·.asks s.mem.nextReq l))

/-- As `remoteAll`, for one address. -/
def remote (va : Word) (place : Place) : (size : Nat) → (store : Bool) → (data : Word) → (psn : Bool) →
    (f : Word → Bool → State → Result) → State → Result := remoteAll [(va, place)] va place

/-! ### Reservations (R192) -/

/-- The reservation of a context. -/
def Mem.resvOf (m : Mem) (c k : Nat) : Option Reservation := m.resv.find? fun r => r.core == c && r.slot == k

/-- Drops a context's reservation (R192). -/
def dropResv (s : State) (c k : Nat) : State :=
  s.modMem fun m => { m with resv := m.resv.filter fun r => !(r.core == c && r.slot == k) }

end Sys2Proof.Machine
end

