-- ==== Sys2Proof/Machine/Barrier.lean ====
section
/-!
DEFINITION. Barrier tags (R105 to R109, R439): the BAR family at a core, the tree, release, the exchange across a domain.
-/

namespace Sys2Proof.Machine

/-! ### The tree -/

/-- Generation g of the tag is complete: an arrival of it has been counted and every member of it has arrived (R108). -/
def BarTag.completes (t : BarTag) : Bool :=
  fget t.arrivals 0 t.done ≠ 0 && t.members.all fun m => t.done < m.first || t.done < m.next

/-- The member of a context. -/
def BarTag.member? (t : BarTag) (c k : Nat) : Option Member := t.members.find? fun m => m.core == c && m.slot == k

/-- The generation a member is in: the current one, or its first (R107, R108). -/
def BarTag.genOf (t : BarTag) (m : Member) : Nat := max t.gen m.first

/-- Counts an arrival in generation g. -/
def BarTag.count (t : BarTag) (g : Nat) : BarTag := { t with arrivals := fset t.arrivals 0 g (fget t.arrivals 0 g + 1) }

/-- An operation takes effect at the tag (Table 4-9): a JOIN is a member of the generation not yet complete (R108), a LEAVE
in IN0 is an arrival. -/
def BarTag.apply (t : BarTag) (o : TreeOp) : BarTag :=
  match o.kind, t.member? o.core o.slot with
  | .join, none => { t with members := t.members ++ [{ core := o.core, slot := o.slot, first := t.done, next := t.done }] }
  | .join, some _ => t
  | .leave, some m =>
    let t := { t with members := t.members.filter fun x => !(x.core == o.core && x.slot == o.slot) }
    if m.next = t.genOf m then t.count m.next else t
  | .arrive, some m =>
    let ms := t.members.map fun (x : Member) =>
      if x.core == o.core && x.slot == o.slot then { x with next := x.next + 1 } else x
    BarTag.count { t with members := ms } m.next
  | .leave, none | .arrive, none => t

/-! ### Releases of ended tasks (R108, R153) -/

/-- The release is complete: every access of the task has been performed, its engine instructions have retired, and beyond
CLUSTER no line of its cluster's cache qualifies (R202). A run waits for the task's copies too (R296). -/
def owedDone (s : State) (o : Owed) : Bool :=
  (o.run.isNone || s.mem.copies.all fun y => !(y.core == o.core && y.slot == o.slot && y.gen == o.gen)) &&
  (s.mem.reqs.all fun r => !r.by o.core o.slot o.gen) &&
    (o.slot ≠ 0 || !((s.engine o.core).queue ++ (s.engine o.core).running).any fun e => e.gen == o.gen) &&
    (!Scope.far o.scope || o.core = mgmtCore ||
      (s.cluster (clusterOf o.core)).lines.all fun p =>
        match p.2 with
        | some l => !l.qualifies (o.core % 16) o.obs
        | none => true)

/-- A context's slot still owes a release of an ended task: what its LEAVEs sent has not reached the tree. -/
def slotOwes (s : State) (c k : Nat) : Bool :=
  s.owed.any fun o => o.run.isNone && o.core == c && o.slot == k && !owedDone s o

/-- A node's body has ended, and the release that its end is has not completed (R153). -/
def nodeOwes (s : State) (n : Nat) : Bool := s.owed.any fun o => o.node == some n && !owedDone s o

/-- The operations that have reached the tree. -/
def readyOps (s : State) : List TreeOp := s.treeOps.filter fun o => !slotOwes s o.core o.slot

/-- The operation that the tree applies next: lowest core, then lowest slot, and of one context the oldest (R108). -/
def firstOp : List TreeOp → Option TreeOp
  | [] => none
  | o :: rest =>
    match firstOp rest with
    | none => some o
    | some p => if o.core < p.core || (o.core = p.core && o.slot ≤ p.slot) then some o else some p

/-- The scope of a tag (Table 4-7). -/
def tagScope (x : BitVec 3) : Scope :=
  match x.toNat with
  | 0 => .core | 1 => .cluster | 2 => .group | 3 => .package | _ => .domain

/-- Applies operations until one makes a generation complete, at most n of them (R108). The JOIN of a context completes on
its own operation alone (R439). -/
def applyOps : Nat → State → State
  | 0, s => s
  | n + 1, s =>
    match firstOp (readyOps s) with
    | none => s
    | some o =>
      let s := { s.modTag o.tag (·.apply o) with treeOps := s.treeOps.erase o }
      let s := if o.kind = .join then
          s.modCtxAt o.core o.slot fun x =>
            if x.joining && o.asker == some x.gen then
              { x.advance with
                barMember := x.barMember ||| BitVec.ofNat 8 (2 ^ o.tag)
                barArr := x.barArr &&& ~~~(BitVec.ofNat 16 (3 * 4 ^ o.tag)) }
            else x
        else s
      if (s.tag o.tag).completes then s else applyOps n s

/-- BARRIER_TREE_APPLY: the tree applies the operations that have reached it; a generation that one of them completes is
completed before any other is applied (R108, R439). -/
def execBarrierTreeApply (s : State) : Result :=
  .next (if [0, 1, 2, 3, 4, 5, 6, 7].any fun t => (s.tag t).completes then s else applyOps s.treeOps.length s)

/-- BARRIER_GEN_COMPLETE (R108). -/
def execBarrierGenComplete (t : Tag) (s : State) : Result :=
  .next (if (s.tag t.toNat).completes then
      s.modTag t.toNat fun x => { x with done := x.done + 1, completed := x.completed ++ [(x.done, s.cycle.toNat)] }
    else s)

/-- The other packages that take part in a tag with XDOM (R109). -/
def otherPkgs (s : State) (t : BarTag) : List Nat :=
  (List.range 1024).filter fun p => t.pkgmap.getLsbD p && p ≠ s.package.toNat

/-- The cycle from which the oldest completed generation may be released: 48 cycles after its completion (R108), or 24
cycles after this package and every other hold it, each other package's flit being sent (R109). This package holds its own
completion in the cycle of the completing arrival (log 76). -/
def releaseDue (s : State) (t : BarTag) : Option Nat :=
  match t.completed with
  | [] => none
  | (g, c) :: _ =>
    if !t.xdom then some (c + 48)
    else
      let held := (otherPkgs s t).map fun p => t.flits.find? fun f => f.1 == g % 2 ^ 32 && f.2.1 == p
      if held.all Option.isSome && (otherPkgs s t).all (fun p => t.sent.contains (g, p))
        then some (held.foldl (fun m f => max m ((f.map (·.2.2)).getD 0)) c + 24) else none

/-- ARR of a tag falls by one (R107, REL). -/
def Ctx.releaseTag (x : Ctx) (t : Nat) : Ctx :=
  if x.barArr.extractLsb' (2 * t) 2 = 0 then x else { x with barArr := x.barArr - BitVec.ofNat 16 (4 ^ t) }

/-- The release of generation g at one member: ARR falls, and a context asleep for g wakes, an acquire at the tag's scope;
one that slept in IN2 acts anew (R107, R108). -/
def releaseMember (t g : Nat) (scope : Scope) (m : Member) (s : State) : State :=
  if g < m.first then s
  else
    let s := s.modCtxAt m.core m.slot (·.releaseTag t)
    let x := s.ctxAt m.core m.slot
    match x.wait, x.barAwait with
    | some w, some (h, anew) =>
      if w.kind = .barrier && w.val.toNat % 8 = t && h = g then
        if anew then s.modCtxAt m.core m.slot fun x => { x with wait := none, barAwait := none }
        else (acquireAt s m.core m.slot scope).modCtxAt m.core m.slot Ctx.advance
      else s
    | _, _ => s

/-- BARRIER_RELEASE: every member of the oldest completed generation is released in one step, and GEN increases (R108,
R109). -/
def execBarrierRelease (t : Tag) (s : State) : Result :=
  let x := s.tag t.toNat
  match x.completed, releaseDue s x with
  | (g, _) :: rest, some due =>
    if s.cycle.toNat < due then .next s
    else
      let s := x.members.foldl (fun s m => releaseMember t.toNat g (tagScope x.scope) m s) s
      .next (s.modTag t.toNat fun x =>
        { x with gen := g + 1, completed := rest, arrivals := fdrop x.arrivals g
                 flits := x.flits.filter fun f => f.1 ≠ g % 2 ^ 32
                 sent := x.sent.filter fun f => f.1 ≠ g })
  | _, _ => .next s

/-- A barrier flit (R109). -/
def barrierFlit (t : Nat) (g : Nat) (pkg : BitVec 10) : Word :=
  BitVec.ofNat 64 (4 * 2 ^ 60 + t * 2 ^ 57 + g % 2 ^ 32 * 2 ^ 22 + pkg.toNat * 2 ^ 12)

/-- The generation for which the tag owes a package a flit, 24 cycles after its completion (R109). -/
def flitOwed (s : State) (t : BarTag) (pkg : Nat) : Option Nat :=
  if !t.xdom || !(otherPkgs s t).contains pkg then none
  else (t.completed.find? fun g => g.2 + 24 ≤ s.cycle.toNat && !t.sent.contains (g.1, pkg)).map (·.1)

/-- The next frame of a Wiolo port, which carries one packet (log 77): it is sent, and kept in the replay buffer until it is
acknowledged (R81). -/
def sendFrame (s : State) (port : Nat) (p : Packet) : State :=
  let x := fget s.wioloPorts {} port
  let f : Frame := { seq := x.sendSeq, crcOk := true, ack := x.recvSeq, packets := [p] }
  { s with wioloPorts := fset s.wioloPorts {} port { x with sendSeq := x.sendSeq + 1, replay := x.replay ++ [f] } }

/-- A notice, done message, barrier flit or acceptance for another package enters the fabric at its source router, with the
Wiolo port by which that router reaches the package; an unreachable package discards it and counts it in UNROUTE (R79, R80).
It comes from a unit of the router's own, in which it waits until a buffer entry is free (`unitWaits` in
Machine/Fabric.lean, R61). -/
def toPort (s : State) (router pkg : Nat) (p : Packet) : State :=
  let b := fget (s.router router).domainPorts 0 pkg
  s.modRouter router fun x =>
    if b.getLsbD 7 then { x with inq := x.inq ++ [(.localPort 256, { p with via := some (b.toNat % 16) })] }
    else { x with counters := fset x.counters 0 1 (fget x.counters 0 1 + 1) }

/-- BARRIER_FLIT_SEND: the tree root at router 0 sends one flit to another package (R83, R109). -/
def execBarrierFlitSend (t : Tag) (pkg : BitVec 10) (s : State) : Result :=
  match flitOwed s (s.tag t.toNat) pkg.toNat with
  | none => .next s
  | some g =>
    let s := s.modTag t.toNat fun x => { x with sent := x.sent ++ [(g, pkg.toNat)] }
    .next (toPort s 0 pkg.toNat
      { vc := 1, flits := [(barrierFlit t.toNat g s.package, false)], srcPkg := s.package, srcCore := 0, entry := none,
        via := none })

/-- The root keeps a flit of the current or the next generation from a package of PKGMAP, and
discards any other (R109). -/
def barrierArrive (f : Word) (s : State) : State :=
  let t := (f.extractLsb' 57 3).toNat
  let g := (f.extractLsb' 22 32).toNat
  let p := (f.extractLsb' 12 10).toNat
  let x := s.tag t
  if f.extractLsb' 60 4 ≠ 4#4 then s
  else if (g = x.gen % 2 ^ 32 || g = (x.gen + 1) % 2 ^ 32) && x.pkgmap.getLsbD p &&
      !(x.flits.any fun h => h.1 == g && h.2.1 == p) then
    s.modTag t fun x => { x with flits := x.flits ++ [(g, p, s.cycle.toNat)] }
  else s

/-- BARRIER_FLIT_ARRIVAL (R109). -/
def execBarrierFlitArrival (flit : Word) (s : State) : Result := .next (barrierArrive flit s)

/-! ### The BAR family at a core (R106, R107) -/

/-- MEMBER bit and ARR of a tag (BARMEM, Table 4-3). -/
def Ctx.inTag (x : Ctx) (t : Tag) : Bool := x.barMember.getLsbD t.toNat
/-- Arrivals of the context on the tag not yet released. -/
def Ctx.arr (x : Ctx) (t : Tag) : Nat := (x.barArr.extractLsb' (2 * t.toNat) 2).toNat

/-- The checks of R106, then f. -/
def withTag (t : Tag) (join : Bool) (f : State → Result) (s : State) : Result :=
  let x := s.tag t.toNat
  let bad (r : Nat) : Result := trap .barrier (BitVec.ofNat 64 (r * 256 + t.toNat)) 0 s
  if !x.enable then bad 2
  else if x.realm ≠ s.ctx.realm then bad 3
  else if !join && !s.ctx.inTag t then bad 1
  else f s

/-- Sends an operation to the tree. -/
def toTree (s : State) (t : Tag) (kind : TreeKind) : State :=
  { s with treeOps := s.treeOps ++ [{ core := s.cur.1, slot := s.cur.2, tag := t.toNat, kind }] }

/-- The current generation of the issuing context on the tag (R107). -/
def myGen (s : State) (t : Tag) : Nat :=
  match (s.tag t.toNat).member? s.cur.1 s.cur.2 with
  | some m => (s.tag t.toNat).genOf m
  | none => (s.tag t.toNat).gen

/-- The context counts one more arrival and the tree learns of it. -/
def arrive (s : State) (t : Tag) : State :=
  (toTree s t .arrive).modCtx fun x => { x with barArr := x.barArr + BitVec.ofNat 16 (4 ^ t.toNat) }

/-- Sleeps until generation g is released (wait kind 2, Table 11-2). -/
def barSleep (t : Tag) (g : Nat) (anew : Bool) (s : State) : Result :=
  sleep .barrier (BitVec.ofNat 64 (g % 2 ^ 32 * 2 ^ 32 + t.toNat))
    (s.modCtx fun x => { x with barAwait := some (g, anew), barResume := false })

/-- A wait that a trap ended is resumed without a new arrival: it goes on, or is over where its generation has been
released meanwhile (R107, R274). -/
def barResumed (t : Tag) (f : State → Result) (s : State) : Result :=
  match s.ctx.barResume, s.ctx.barAwait with
  | true, some (g, anew) =>
    if g < (s.tag t.toNat).gen then
      if anew then f (s.modCtx fun x => { x with barResume := false, barAwait := none })
      else .next ((acquire s (tagScope (s.tag t.toNat).scope)).modCtx Ctx.advance)
    else barSleep t g anew s
  | _, _ => f s

/-- JOIN (Table 4-9): it completes when the tree has applied it (R439). -/
def execJoin (t : Tag) : State → Result :=
  withTag t true fun s =>
    if s.ctx.inTag t then .next (s.modCtx Ctx.advance)
    else if s.ctx.joining then stall s
    else
      .next { s.modCtx (fun x => { x with joining := true, bypass := 0 }) with
        treeOps := s.treeOps ++ [{ core := s.cur.1, slot := s.cur.2, tag := t.toNat, kind := .join, asker := some s.ctx.gen }] }

/-- The LEAVE of Table 4-9 at the context: it is no longer a member. -/
def leaveTag (s : State) (c k t : Nat) : State :=
  { s.modCtxAt c k (fun x =>
      { x with barMember := x.barMember &&& ~~~(BitVec.ofNat 8 (2 ^ t))
               barArr := x.barArr &&& ~~~(BitVec.ofNat 16 (3 * 4 ^ t)) }) with
    treeOps := s.treeOps ++ [{ core := c, slot := k, tag := t, kind := .leave }] }

/-- The tags of which a context is a member. -/
def Ctx.tags (x : Ctx) : List Nat := [0, 1, 2, 3, 4, 5, 6, 7].filter fun t => x.barMember.getLsbD t

/-- The widest scope of the releases that the end of a task makes: its LEAVEs release at their tags' scopes (R108), and the end
of a node's body at PACKAGE scope (R153). -/
def endScope (s : State) (x : Ctx) (body : Bool) : Option Scope :=
  match (x.tags.map fun t => (s.tag t).scope.toNat) ++ (if body then [3] else []) with
  | [] => none
  | l => some (tagScope (BitVec.ofNat 3 (l.foldl max 0)))

/-- The release that a task leaves behind at the end of its slot's use, unless it is complete at once. -/
def oweRelease (s : State) (c k : Nat) (node : Option Nat) : State :=
  let x := s.ctxAt c k
  match endScope s x node.isSome with
  | none => s
  | some scope =>
    let o : Owed := { core := c, slot := k, gen := x.gen, obs := x.obs, scope, node }
    if owedDone s o then s else { s with owed := s.owed ++ [o] }

/-- What the run of a node waits for at the end of a task: the writes of its TASK body, of a tile task of its launch, and of
copies that outlive a killed task, each performed at its home (R296). -/
def oweRun (s : State) (c k : Nat) (node : Option Nat) : State :=
  let x := s.ctxAt c k
  let o : Owed := { core := c, slot := k, gen := x.gen, obs := x.obs, scope := .package, run := node }
  if node.isNone || owedDone s o then s else { s with owed := s.owed ++ [o] }

/-- LEAVE on every tag of which the context is a member (R97, R274). -/
def leaveAll (s : State) (c k : Nat) : State := (s.ctxAt c k).tags.foldl (fun s t => leaveTag s c k t) s

/-- LEAVE (Table 4-9): an arrival that does not wait, and a release at the tag's scope (R108). -/
def execLeave (t : Tag) : State → Result :=
  withTag t false fun s =>
    withRelease (tagScope (s.tag t.toNat).scope) (fun s =>
      .next ((leaveTag s s.cur.1 s.cur.2 t.toNat).modCtx Ctx.advance)) s

/-- BAR (Table 4-9): arrives and sleeps until that arrival's generation is released; in IN2 it first sleeps until the
current one is. -/
def execBar (t : Tag) : State → Result :=
  withTag t false fun s =>
    barResumed t (fun s =>
      withRelease (tagScope (s.tag t.toNat).scope) (fun s =>
        if 2 ≤ s.ctx.arr t then barSleep t (myGen s t) true s
        else barSleep t (myGen s t + s.ctx.arr t) false (arrive s t)) s) s

/-- BARARR (Table 4-9): arrives and continues. -/
def execBararr (t : Tag) : State → Result :=
  withTag t false fun s =>
    barResumed t (fun s =>
      withRelease (tagScope (s.tag t.toNat).scope) (fun s =>
        if 2 ≤ s.ctx.arr t then barSleep t (myGen s t) true s
        else .next ((arrive s t).modCtx Ctx.advance)) s) s

/-- BWAIT (Table 4-9): sleeps until every arrival of the context has been released. -/
def execBwait (t : Tag) : State → Result :=
  withTag t false fun s =>
    barResumed t (fun s =>
      if s.ctx.arr t = 0 then .next (s.modCtx Ctx.advance)
      else barSleep t (myGen s t + s.ctx.arr t - 1) false s) s

/-! ### The tag registers (R105) -/

/-- The word of a tag register, by its index in the block (Table 4-7). -/
def tagRead (s : State) (t word : Nat) : Word :=
  let x := s.tag t
  if word = 0 then
    (if x.enable then 0x8000000000000000 else 0) ||| (x.scope.setWidth 64 <<< 60) |||
      (if x.xdom then 0x0800000000000000 else 0) ||| x.realm.setWidth 64
  else if word = 1 then BitVec.ofNat 64 (x.members.length % 2 ^ 15 * 2 ^ 32 + x.gen % 2 ^ 32)
  else if 16 ≤ word && word < 32 then x.pkgmap.extractLsb' (64 * (word - 16)) 64
  else 0

/-- A write of a tag register (R105): +0 stays as it is while the tag has members, or where the write would make SCOPE or
XDOM illegal; PKGMAP is written whole. -/
def tagWrite (s : State) (t word : Nat) (v : Word) : State :=
  let x := s.tag t
  let scope : BitVec 3 := v.extractLsb' 60 3
  let xdom := v.getLsbD 59
  if word = 0 then
    if !x.members.isEmpty || scope = 0 || 4 < scope.toNat || (xdom && scope ≠ 4) then s
    else s.modTag t fun x => { x with enable := v.getLsbD 63, scope, xdom, realm := v.setWidth 12 }
  else if 16 ≤ word && word < 32 then
    let i := 64 * (word - 16)
    s.modTag t fun x =>
      { x with pkgmap := (x.pkgmap &&& ~~~(BitVec.ofNat 1024 ((2 ^ 64 - 1) * 2 ^ i))) ||| (v.setWidth 1024 <<< i) }
  else s

/-- TAG_WRITE (R105). -/
def execTagWrite (t : Tag) (word : BitVec 5) (v : Word) (s : State) : Result := .next (tagWrite s t.toNat word.toNat v)

end Sys2Proof.Machine
end

