-- ==== Sys2Proof/Machine/Tasks.lean ====
section
/-!
DEFINITION. Slots and tasks (R84 to R97): starting a task, giving out a freed slot, class handlers, refusals and FREE
notices, the end of a task.
-/

namespace Sys2Proof.Machine

/-! ### The fields of HANDLER (Table 4-4) -/

/-- HANDLER.REALM. -/
def handlerRealm (h : Word) : BitVec 12 := h.extractLsb' 52 12
/-- HANDLER.PRIO. -/
def handlerPrio (h : Word) : BitVec 2 := h.extractLsb' 50 2
/-- HANDLER.ENGINE. -/
def handlerEngine (h : Word) : Bool := h.getLsbD 49
/-- The budget of HANDLER.BCODE. -/
def handlerBudget (h : Word) : BitVec 32 := BitVec.ofNat 32 (2 ^ (10 + 2 * (h.extractLsb' 46 3).toNat))
/-- The PC of an ENTRY field: bits [47:2], sign-extended from bit 47. -/
def entryPc (e : BitVec 46) : Word := (e ++ 0#2).signExtend 64
/-- HANDLER's entry PC. -/
def handlerPc (h : Word) : Word := entryPc (h.setWidth 46)

/-- RINGCFG.MODE is TASK. -/
def ClassRegs.isTask (x : ClassRegs) : Bool := x.mode == 1
/-- RINGCFG.MODE is QUEUE. -/
def ClassRegs.isQueue (x : ClassRegs) : Bool := x.mode == 2

/-- The task-info word (Table 4-2). -/
def taskInfo (srcPkg : BitVec 10) (srcCore : BitVec 16) (drop rel : Bool) (prio : BitVec 2) (clipped : Bool)
    (cls : Nat) (kind : Nat) : Word :=
  (srcPkg.setWidth 64 <<< 32) ||| (srcCore.setWidth 64 <<< 16) ||| (if drop then 0x2000 else 0) |||
    (if rel then 0x1000 else 0) ||| (prio.setWidth 64 <<< 10) ||| (if clipped then 0x200 else 0) |||
    BitVec.ofNat 64 (cls * 8 + kind)

/-- KIND of a task-info word. -/
def tiKind (t : Word) : Nat := (t.extractLsb' 0 3).toNat
/-- CLASS of a task-info word. -/
def tiClass (t : Word) : Nat := (t.extractLsb' 3 6).toNat

/-! ### Slots (R84, R86) -/

/-- The slots of a kind: 0 for ENGINE tasks, 1 to 6 for the others. -/
def slotsOf (engine : Bool) : List Nat := if engine then [0] else [1, 2, 3, 4, 5, 6]

/-- The lowest free slot of a kind; a marked-out core has none (R20), a stopped one starts nothing (R283). A slot that a
task has left is free once it has been given out, from the next cycle on (R86). The management core has user context 1 alone
(R299). -/
def freeSlot (s : State) (c : Nat) (engine : Bool) : Option Nat :=
  if c = mgmtCore then if engine || (s.ctxAt c 1).occupied then none else some 1
  else if s.usableCore c && !(s.core c).stopped then
    (slotsOf engine).find? fun k => !(s.ctxAt c k).occupied && (s.ctxAt c k).freed.isNone
  else none

/-- Registers for arguments a0 upward. -/
def setArgs (x : Ctx) (args : List (Word × Bool)) : Ctx :=
  (args.zipIdx).foldl (fun x a => x.setReg (BitVec.ofNat 5 (4 + a.2)) a.1.1 a.1.2) x

/-- The engine that a new task of slot 0 sees: registers that read zero, MATCFG and MPROG zero (R87). The registers of a
killed task of generation g stay for its outstanding instructions. -/
def Engine.fresh (e : Engine) (g : BitVec 8) : Engine :=
  { e with
    toEngRegs := {}
    old := if (e.queue ++ e.running).any (·.gen == g) then e.old ++ [(g, e.toEngRegs)] else e.old }

/-- Starts a task in a slot with the state of Table 4-1 (R87); a node task's start is an acquire (R153). A tile task's start
marks no cache line stale: what it acquires, the tile's fetch and box writes, lies in local SRAM (R125, log 80). -/
def startIn (s : State) (c k : Nat) (t : Start) : State :=
  let sp : Word := ((fget (s.core c).sptop 0 k) ++ 0#4).signExtend 64
  let x : Ctx := { occupied := true, gen := (s.ctxAt c k).gen + 1, qver := (s.cluster (clusterOf c)).qver, pc := t.entry,
                   tbudget := t.budget, prio := t.prio,
                   realm := t.realm, tinfo := t.tinfo, walkid := t.walkid, nodeid := t.nodeid, launch := t.launch }
  let x := setArgs ((x.setReg 2 sp false).setReg 3 t.tinfo false) t.args
  let s := s.modCtxAt c k fun _ => x
  let s := if tiKind t.tinfo = 3 then acquireAt s c k .package else s
  if k = 0 then s.modEngine c fun e => e.fresh (x.gen - 1) else s

/-! ### Class handlers (R52, R95) -/

/-- A handler of the class runs at the core: a QUEUE-mode handler's task-info word says so. -/
def handlerRuns (x : Core) (cls : Nat) : Bool :=
  [0, 1, 2, 3, 4, 5, 6].any fun k =>
    let y := x.ctx k
    y.occupied && tiKind y.tinfo == 0 && tiClass y.tinfo == cls

/-- A QUEUE-mode class whose handler is to start when a slot is free. -/
def handlerWaits (x : Core) (cls : Nat) : Bool :=
  let r := x.cls cls
  r.isQueue && r.enabled && r.pending && !handlerRuns x cls

/-- The start of a class's handler (R95). -/
def handlerStart (s : State) (c cls : Nat) : Start :=
  let r := (s.core c).cls cls
  { engine := handlerEngine r.handler, prio := handlerPrio r.handler, entry := handlerPc r.handler, args := [],
    budget := handlerBudget r.handler, realm := handlerRealm r.handler,
    tinfo := taskInfo s.package 0xFFFF r.evdrop false (handlerPrio r.handler) false cls 0,
    walkid := 0, nodeid := 0, launch := 0 }

/-- Starts the handler of a class in slot k; its pending bit clears. -/
def startHandler (s : State) (c k cls : Nat) : State :=
  startIn (s.modCore c fun x => x.modCls cls fun r => { r with pending := false }) c k (handlerStart s c cls)

/-- A flit was written, or the drop flag set: a handler starts if none of the class runs, the class is enabled and a slot
is free; else the class pends (R52, R95). -/
def wakeClass (s : State) (c cls : Nat) : State :=
  let pend := s.modCore c fun x => x.modCls cls fun r => { r with pending := true }
  let r := (s.core c).cls cls
  if !r.enabled || handlerRuns (s.core c) cls then pend
  else
    match freeSlot s c (handlerEngine r.handler) with
    | some k => startHandler s c k cls
    | none => pend

/-! ### Giving out a slot (R86, R93) -/

/-- What may take a freed slot: a class's handler, or a waiting tile or node task by its place in the list. -/
inductive Pending where
  | handler (cls : Nat)
  | start (i : Nat)
  deriving DecidableEq, Repr

/-- The candidates for a slot of a kind, each with its rank: PRIO, then class number (62 for tile and node tasks), then
order of arrival (R86, R126, R150). -/
def candidates (s : State) (c : Nat) (engine : Bool) : List (Nat × Pending) :=
  let x := s.core c
  let hs := (List.range 62).filterMap fun cls =>
    let h := (x.cls cls).handler
    if handlerWaits x cls && handlerEngine h == engine then
      some ((handlerPrio h).toNat * 64 + cls, Pending.handler cls) else none
  let ts := (x.starts.zipIdx).filterMap fun p =>
    if p.1.engine == engine then some (p.1.prio.toNat * 64 + 62, Pending.start p.2) else none
  hs ++ ts

/-- The candidate of lowest rank, the first of equals. -/
def best : List (Nat × Pending) → Option (Nat × Pending)
  | [] => none
  | a :: r =>
    match best r with
    | none => some a
    | some b => if a.1 ≤ b.1 then some a else some b

/-- Sends a FREE notice to a sender: inside the package a note, else a VC 1 packet (R63, R93). -/
def sendFree (s : State) (c : Nat) (pkg core : Nat) : State :=
  let src := s.package.toNat * 4096 + c
  if pkg = s.package.toNat then { s with notes := s.notes ++ [.free src (some core)] }
  else
    toPort s (routerOf c) pkg
      { vc := 1, flits := [(BitVec.ofNat 64 (2 ^ 60 + src * 2 ^ 22 + pkg * 4096 + core), false)], srcPkg := s.package,
        srcCore := BitVec.ofNat 13 c, entry := none, via := none }

/-- FREE notices to the listed senders that a test picks, then the BCAST notice where senders went unlisted (R93). -/
def freeNotices (s : State) (c : Nat) (pick : Bool → Bool) : State :=
  let x := s.core c
  let s := (x.refusals.filter fun r => pick r.2.2).foldl (fun s r => sendFree s c r.1.toNat r.2.1.toNat) s
  let s := s.modCore c fun x =>
    { x with refusals := x.refusals.filter (fun r => !pick r.2.2), refusalOverflow := false }
  if x.refusalOverflow then { s with notes := s.notes ++ [.free (s.package.toNat * 4096 + c) none] } else s

/-- The best candidate for a free slot of a kind starts in it (R86, R126, R150). -/
def startBest (s : State) (c : Nat) (engine : Bool) : State :=
  match freeSlot s c engine with
  | none => s
  | some k =>
    match best (candidates s c engine) with
    | none => s
    | some (_, .handler cls) => startHandler s c k cls
    | some (_, .start i) =>
      match takeAt (s.core c).starts i with
      | none => s
      | some (t, rest) => startIn (s.modCore c fun x => { x with starts := rest }) c k t

/-- A slot of a kind has freed: it goes to the best candidate, and if a slot of the kind is still free then FREE notices are
sent (R86). -/
def giveSlot (s : State) (c : Nat) (engine : Bool) : State :=
  let s := startBest s c engine
  if (freeSlot s c engine).isSome then freeNotices s c (· == engine) else s

/-- A slot of the kind that a task left in an earlier cycle, and that the core is to give out (R86). -/
def freedSlot (s : State) (c : Nat) (engine : Bool) : Option Nat :=
  if (s.core c).stopped then none
  else (slotsOf engine).find? fun k =>
    match (s.ctxAt c k).freed with
    | some t => t < s.cycle.toNat
    | none => false

/-- SLOT_FREE (R86): in the cycle after its task left it a slot is free and is given out; a candidate that finds a free slot of
its kind without that starts. -/
def execSlotFree (core : BitVec 12) (engine : Bool) (s : State) : Result :=
  let c := core.toNat
  .next (match freedSlot s c engine with
    | some k => giveSlot (s.modCtxAt c k fun x => { x with freed := none }) c engine
    | none => startBest s c engine)

/-- A class is enabled at a core (R52, R93, R96): a QUEUE-mode class that pends starts its handler; a TASK-mode class that
pends has FREE notices sent to every listed sender. -/
def enableClass (s : State) (c cls : Nat) : State :=
  let s := s.modCore c fun x => x.modCls cls fun r => { r with enabled := true }
  let r := (s.core c).cls cls
  if !r.pending then s
  else if r.isQueue then
    if handlerRuns (s.core c) cls then s
    else
      match freeSlot s c (handlerEngine r.handler) with
      | some k => startHandler s c k cls
      | none => s
  else if r.isTask then
    freeNotices (s.modCore c fun x => x.modCls cls fun r => { r with pending := false }) c fun _ => true
  else s

/-- A tile or node task comes to a core: it starts in a free slot of its kind, or waits (R126, R150). -/
def arriveStart (s : State) (c : Nat) (t : Start) : State :=
  match freeSlot s c t.engine with
  | some k => startIn s c k t
  | none => s.modCore c fun x => { x with starts := x.starts ++ [t] }

/-! ### The end of a task -/

/-- A walker slot's instance (R116): instance word to slot. -/
def walkerOf (inst : BitVec 16) : Nat := (inst.extractLsb' 2 6).toNat * 4 + (inst.extractLsb' 0 2).toNat

/-- A walker slot. -/
def State.walker (s : State) (n : Nat) : Walker := fget s.walkers {} n

/-- Changes a walker slot. -/
def State.modWalker (s : State) (n : Nat) (f : Walker → Walker) : State :=
  { s with walkers := fset s.walkers {} n (f (s.walker n)) }

/-- The slot holds the instance that the word names. -/
def State.holds (s : State) (inst : BitVec 16) : Bool :=
  let w := s.walker (walkerOf inst)
  w.state ≠ .free && w.sgen == inst.extractLsb' 8 8

/-- Changes a tile of an instance. -/
def modTile (s : State) (inst : BitVec 16) (t : Nat) (f : Tile → Tile) : State :=
  if s.holds inst then
    s.modWalker (walkerOf inst) fun w => { w with tiles := w.tiles.map fun x => if x.index = t then f x else x }
  else s

/-- The task of a tile has ended: the walker writes the tile back, or retires it unwritten where it was killed (R127). -/
def endTile (s : State) (walkid : Word) (killed : Bool) : State :=
  let inst : BitVec 16 := walkid.extractLsb' 0 16
  let t := (walkid.extractLsb' 32 32).toNat
  let cancelled := (s.walker (walkerOf inst)).state == .cancel
  let s := modTile s inst t fun x => { x with phase := .writingBack, noWrite := x.noWrite || killed || cancelled }
  if killed && s.holds inst then s.modWalker (walkerOf inst) fun w => { w with flags := w.flags ||| 0x20 } else s

/-- The node whose body a context's task is (R151). -/
def Ctx.bodyOf (x : Ctx) : Option Nat := if tiKind x.tinfo = 3 then some (x.nodeid.setWidth 32 : BitVec 32).toNat else none

/-- What a task's end sets off: a tile's write-back, the end of a node's body (R127, R151). -/
def endBody (s : State) (x : Ctx) (killed : Bool) : State :=
  if tiKind x.tinfo = 2 then endTile s x.walkid killed
  else
    match x.bodyOf with
    | some n => { s with eph := { s.eph with ends := s.eph.ends ++ [(n, killed)] } }
    | none => s

/-- The node of whose run a context's task is a part: its body, or a tile task of its launch. -/
def runNode (s : State) (x : Ctx) : Option Nat :=
  let inst : BitVec 16 := x.walkid.extractLsb' 0 16
  if tiKind x.tinfo = 2 && s.holds inst then (s.walker (walkerOf inst)).node else x.bodyOf

/-- The handler for the last die of a POLL round has ended: POLL pends no longer (R300). -/
def endPoll (s : State) (c : Nat) : State :=
  if c = mgmtCore && s.mgmt.pollDie = 16 then { s with mgmt := { s.mgmt with mpend := s.mgmt.mpend &&& 0xD, pollDie := 0 } }
  else s

/-- Vacates a slot: LEAVE on every tag, the reservation dropped; the slot is free from the next cycle on (R86, R97). `body`: the
node whose body ends with it (R153). -/
def vacate (s : State) (c k : Nat) (body : Option Nat) : State :=
  let s := oweRun s c k (runNode s (s.ctxAt c k))
  let s := endPoll (dropResv (leaveAll (oweRelease s c k body) c k) c k) c
  s.modCtxAt c k fun x => { occupied := false, freed := some s.cycle.toNat, gen := x.gen }

end Sys2Proof.Machine
end

