-- ==== Sys2Proof/Machine/Fabric.lean ====
section
/-!
DEFINITION. The router fabric (R57 to R83), the network interfaces (R50 to R55, R92 to R94, R104) and the message
instructions (R68, R96, R103, R366, R370, R399 to R401).
-/

namespace Sys2Proof.Machine

/-! ### Packets and entries -/

/-- The first flit. -/
def pktHead (p : Packet) : Word := (p.flits.headD (0, false)).1
/-- A flit is poisoned. -/
def pktPoisoned (p : Packet) : Bool := p.flits.any (·.2)
/-- The class (Tables 2-1, 3-3). -/
def pktCls (p : Packet) : Nat := ((pktHead p).extractLsb' 58 6).toNat
/-- Target package. -/
def pktPkg (p : Packet) : Nat := ((pktHead p).extractLsb' 12 10).toNat
/-- Target core number. -/
def pktCore (p : Packet) : Nat := ((pktHead p).extractLsb' 0 12).toNat
/-- A task message addressed by reply token (Table 3-3). -/
def pktTok (p : Packet) : Bool := p.vc == 2 && (pktHead p).getLsbD 54

/-- KIND of an event flit is delta (Table 2-1). -/
def isDelta (f : Word) : Bool := f.extractLsb' 56 2 == 0
/-- KIND of an event flit is tick. -/
def isTick (f : Word) : Bool := f.extractLsb' 56 2 == 1
/-- N of an event flit, signed. -/
def flitN (f : Word) : Int := (f.extractLsb' 44 8).toInt

/-- The route-class entry of a class at a router; those of classes 62 and 63 are fixed (R66). -/
def State.entry (s : State) (r cls : Nat) : RouteEntry :=
  if cls = 62 then { valid := true, vc := 4 } else if cls = 63 then {} else fget (s.router r).entries {} cls

/-- Counts n at a router: 0 DEADTGT, 1 UNROUTE, 2 COALZERO, 3 COALESCED, 4 MERGED, 5 LINKCORR, 6 LINKPSN
(Table 3-8). -/
def countBy (s : State) (r i n : Nat) : State :=
  s.modRouter r fun x => { x with counters := fset x.counters 0 i (fget x.counters 0 i + BitVec.ofNat 64 n) }

/-- Counts one. -/
def count (s : State) (r i : Nat) : State := countBy s r i 1

/-- Answers the sender of a VC 2 class packet with an acceptance, whether it was accepted or discarded (R94). -/
def accept (s : State) (r : Nat) (p : Packet) : State :=
  match p.entry with
  | none => s
  | some e =>
    if p.srcPkg = s.package then { s with notes := s.notes ++ [.acceptance p.srcCore.toNat e] }
    else
      toPort s r p.srcPkg.toNat
        { vc := 3, flits := [(BitVec.ofNat 64 (e * 2 ^ 44 + p.srcPkg.toNat * 4096 + p.srcCore.toNat), false)],
          srcPkg := s.package, srcCore := BitVec.ofNat 13 (64 * r), entry := none, via := none }

/-! ### Routing (R57, R69, R70, R80) -/

/-- The next router on the way from one router to another: the row link first, then the column link (R57). -/
def nextHop (r dest : Nat) : Nat := if r % 8 ≠ dest % 8 then r / 8 * 8 + dest % 8 else dest

/-- The slice router by which a packet leaves for, or enters from, a Wiolo port, by the index of the router it comes from
or goes to (R80). -/
def portRouter (port idx : Nat) : Nat :=
  let k := port / 2
  if k < 4 then sliceRouterOf (4 * (idx % 4) + k) else sliceRouterOf (4 * (k - 4) + idx % 4)

/-- The flit F may coalesce with the older flit G of the queue (R48). -/
def mayCoalesce (f g : Packet) : Bool :=
  let a := (pktHead f)
  let b := (pktHead g)
  f.flits.length == 1 && g.flits.length == 1 && isDelta a && isDelta b && !(pktPoisoned f) && !(pktPoisoned g) &&
    a.extractLsb' 52 12 == b.extractLsb' 52 12 && a.extractLsb' 0 44 == b.extractLsb' 0 44 &&
    (flitN a + flitN b).natAbs ≤ 127

/-- A tick of F's class and target: no coalescing reaches behind it (R48). -/
def tickBars (f g : Packet) : Bool :=
  isTick (pktHead g) && (pktCls f) == (pktCls g) && (pktHead f).extractLsb' 0 22 == (pktHead g).extractLsb' 0 22

/-- The key of an output: one queue per network link, per local port and per Wiolo port (R11, R48). -/
def OutPort.key : OutPort → Nat
  | .router n => n
  | .cluster n _ => 64 + n
  | .wiolo port => 512 + port

/-- Coalesces F into a queue whose youngest entry comes first: none if no flit qualifies, else the queue after it and
whether the sum is zero. Copies for other cores of the local port stay apart: a router may coalesce, and need not (R48). -/
def coalesceInto (f : Packet) (o : OutPort) : List OutCopy → Option (List OutCopy × Bool)
  | [] => none
  | g :: rest =>
    if g.out.key ≠ o.key then (coalesceInto f o rest).map fun r => (g :: r.1, r.2)
    else if g.out = o && mayCoalesce f g.p then
      let n := flitN (pktHead f) + flitN (pktHead g.p)
      if n = 0 then some (rest, true)
      else
        let w := ((pktHead g.p) &&& ~~~0x000FF00000000000#64) ||| ((BitVec.ofInt 8 n).setWidth 64 <<< 44)
        some ({ g with p := { g.p with flits := [(w, false)] } } :: rest, false)
    else if tickBars f g.p then none
    else (coalesceInto f o rest).map fun r => (g :: r.1, r.2)

/-- Enqueues a copy at an output of a router, coalescing it where its class does (R48). -/
def enqueue (s : State) (r : Nat) (coal : Bool) (g : OutCopy) : State :=
  let q := (s.router r).outq
  match if coal then coalesceInto g.p g.out q.reverse else none with
  | some (q', zero) => count (s.modRouter r fun x => { x with outq := q'.reverse }) r (if zero then 2 else 3)
  | none => s.modRouter r fun x => { x with outq := q ++ [g] }

/-- A DEFERRED record for poison that leaves the package (R278): its address is 0 for a flit, which no memory holds (R279). -/
def exportRecord (s : State) (unit : Nat) (addr : Word) : State :=
  pkgErrRecord s 0x1000000000000000 addr 0 0 0 (BitVec.ofNat 64 (8 * 2 ^ 56 + unit * 2 ^ 40))

/-- The packet came from a core's local port: this is its source router. -/
def CameFrom.atSource : CameFrom → Bool
  | .localPort _ => true
  | .row _ | .column _ | .wiolo _ => false

/-- The outputs of a multicast packet at a router (R70). An I/O die lies on a local port (R11). -/
def castPorts (e : RouteEntry) (r : Nat) (from_ : CameFrom) : List OutPort :=
  let rows := (List.range 8).filter fun x => e.rowset.getLsbD x && x ≠ r % 8
  let cols := (List.range 8).filter fun y => e.colset.getLsbD y && y ≠ r / 8
  let toRows := match from_ with
    | .localPort _ | .wiolo _ => true
    | .row _ | .column _ => false
  let toCols := match from_ with
    | .localPort _ | .wiolo _ | .row _ => true
    | .column _ => false
  (if toRows then rows.map fun x => OutPort.router (r / 8 * 8 + x) else []) ++
  (if toCols then cols.map fun y => OutPort.router (8 * y + r % 8) else []) ++
  (if isSliceRouter r then [] else
    [0, 1, 2, 3].filterMap fun k =>
      let m : BitVec 16 := e.localmask.extractLsb' (16 * k) 16
      if m = 0 then none else some (OutPort.cluster (4 * r + k) m))

/-- The usable cores of a set of cores of a cluster. -/
def State.liveCores (s : State) (n : Nat) (m : BitVec 16) : BitVec 16 :=
  BitVec.ofNat 16 ((List.range 16).foldl (fun a q => if m.getLsbD q && s.usableCore (16 * n + q) then a + 2 ^ q else a) 0)

/-- Delivery by a cluster's local port: a core that is marked out, or that the number does not name, is a dead target and
counted; the others get the copy (R20, R69, R70). -/
def deliverAt (s : State) (r : Nat) (coal : Bool) (n : Nat) (m : BitVec 16) (g : OutCopy) : State :=
  let live := s.liveCores n m
  let dead := ((List.range 16).filter fun q => m.getLsbD q && !live.getLsbD q).length
  let s := if dead = 0 then s else accept (countBy s r 0 dead) r g.p
  if live = 0 then s else enqueue s r coal { g with out := .cluster n live }

/-- A packet for another package on its way: to the slice router of its port, and there to the port (R80). -/
def leaveAt (s : State) (r src port : Nat) (coal : Bool) (g : OutCopy) : State :=
  let exit := portRouter port src
  if r = exit then enqueue s r coal { g with out := .wiolo port }
  else enqueue s r coal { g with out := .router (nextHop r exit) }

/-- A unicast packet at a router (R69, R79, R80). -/
def unicastAt (s : State) (r : Nat) (e : RouteEntry) (from_ : CameFrom) (p : Packet) (id : Nat) : State :=
  let g : OutCopy := { out := .router r, p, src := from_, id }
  let core := pktCore p
  if pktPkg p = s.package.toNat then
    if r = core / 64 then deliverAt s r e.coal (core / 16) (BitVec.ofNat 16 (2 ^ (core % 16))) g
    else enqueue s r e.coal { g with out := .router (nextHop r (core / 64)) }
  else
    let b := fget (s.router r).domainPorts 0 (pktPkg p)
    let via := if from_.atSource then (if b.getLsbD 7 && e.domain then some (b.toNat % 16) else none) else p.via
    match via with
    | none => accept (count s r 1) r p
    | some port => leaveAt s r (routerOf p.srcCore.toNat) port e.coal { g with p := { p with via := some port } }

/-- The router at which a VC 1 or VC 3 packet of another package ends: a done message's part, the tree root for a barrier
flit and for the Ephemeris, else the router of the core it names (R63, R109, R132). -/
def noticeRouter (p : Packet) : Nat :=
  let h := pktHead p
  if p.vc = 1 && h.extractLsb' 60 4 = 3#4 then (if h.getLsbD 59 then 0 else (h.extractLsb' 2 6).toNat)
  else if p.vc = 1 && h.extractLsb' 60 4 = 4#4 then 0
  else (h.extractLsb' 0 12).toNat / 64

/-- A VC 1 or VC 3 packet of another package has reached its router: it is the notice, the message or the acceptance that
its NOTE and its channel name; NOTE 5 to 15 is discarded (R63). An acceptance, a REFUSE or a FREE for a core that is not
usable is a dead target's (R20); for a WATCH notice `execWatchNoticeArrival` says so. -/
def deliverNotice (s : State) (r : Nat) (p : Packet) : State :=
  let h := pktHead p
  let core := (h.extractLsb' 0 12).toNat
  let note := (h.extractLsb' 60 4).toNat
  if !s.usableCore core && (p.vc = 3 || note = 0 || (note = 1 && !h.getLsbD 59)) then count s r 0
  else if p.vc = 3 then { s with notes := s.notes ++ [.acceptance core (h.extractLsb' 44 2).toNat] }
  else
    match note with
    | 0 => { s with notes := s.notes ++ [.refuse core (h.extractLsb' 44 2).toNat] }
    | 1 => { s with notes := s.notes ++
        [.free (h.extractLsb' 22 22).toNat (if h.getLsbD 59 then none else some core)] }
    | 2 => { s with notes := s.notes ++ [.watch core h ((p.flits.getD 1 (0, false)).1)] }
    | 3 => { s with dones := s.dones ++
        [{ inst := h.extractLsb' 0 16, node := if h.getLsbD 59 then some (h.extractLsb' 16 32).toNat else none,
           status := (p.flits.getD 1 (0, false)).1 }] }
    | 4 => barrierArrive h s
    | _ => s

/-- A VC 1 or VC 3 packet that crosses packages, at a router (R57, R80): one of this package leaves by its port, one of another
package ends at its router. -/
def noticeAt (s : State) (r : Nat) (from_ : CameFrom) (p : Packet) (id : Nat) : State :=
  let g : OutCopy := { out := .router r, p, src := from_, id }
  match p.via with
  | some port => leaveAt s r (routerOf p.srcCore.toNat) port false g
  | none =>
    if r = noticeRouter p then deliverNotice s r p
    else enqueue s r false { g with out := .router (nextHop r (noticeRouter p)) }

/-- A class packet at a router: by its class's entry it is discarded, copied or sent on (R67 to R70). An event flit takes the
entry's channel at its source router; one whose class is no event class there is discarded (R68). -/
def classAt (s : State) (r : Nat) (from_ : CameFrom) (p : Packet) (id : Nat) : State :=
  let e := s.entry r (pktCls p)
  if !e.valid then accept (count s r 1) r p
  else if from_.atSource && p.vc ≠ 2 && e.vc = 2 then count s r 1
  else
    let p := if from_.atSource && p.vc ≠ 2 then { p with vc := e.vc.toNat } else p
    if e.cast && p.vc ≠ 2 then
      (castPorts e r from_).foldl (fun s o =>
        let g : OutCopy := { out := o, p, src := from_, id, cast := p.vc == 4 }
        match o with
        | .cluster n m => deliverAt s r e.coal n m g
        | .router _ | .wiolo _ => enqueue s r e.coal g) s
    else unicastAt s r e from_ p id

/-- A packet at a router is routed; its copies share a number (R71). -/
def routeAt (s : State) (r : Nat) (from_ : CameFrom) (p : Packet) : State :=
  let id := (s.router r).nextCopy
  let s := s.modRouter r fun x => { x with nextCopy := id + 1 }
  if p.vc = 1 || p.vc = 3 then noticeAt s r from_ p id else classAt s r from_ p id

/-- Two packets of one class from one source keep their order (R47, R72). -/
def sameStream (p q : Packet) : Bool :=
  (pktCls p) == (pktCls q) && p.srcPkg == q.srcPkg && p.srcCore == q.srcCore && (p.vc == 2) == (q.vc == 2)

/-- No earlier packet of the list belongs to the stream of packet i. -/
def firstOfStream (l : List Packet) (i : Nat) : Bool :=
  match l[i]? with
  | none => false
  | some p => (l.take i).all fun q => !sameStream p q


/-- A cluster's local port holds back VC 4 flits: a core of the cluster has four waiting (R54). -/
def vc4Blocked (s : State) (n : Nat) : Bool := (List.range 16).any fun q => 4 ≤ (s.core (n * 16 + q)).vc4buf.length

/-! ### Links (R59, R61) -/

/-- Packets of an input and a channel whose copies have not all left (R71). -/
def Router.leaving (x : Router) (src : CameFrom) (vc : Nat) : Nat :=
  ((x.outq.filter fun g => g.src == src && g.p.vc == vc).map (·.id)).eraseDups.length

/-- Packets in the buffer of a router's input for a channel: an entry is free once every copy of its packet has left (R71). -/
def Router.buffered (x : Router) (src : CameFrom) (vc : Nat) : Nat :=
  (x.inq.filter fun q => q.1 == src && q.2.vc == vc).length + x.leaving src vc

/-- A buffer that holds n packets has room for another: VC 0 and VC 1 hold at least four, each other channel one, and how
many more is open (R61, log 64). -/
def roomAfter (r vc n : Nat) : Bool := n == 0 || (vc < 2 && n < 4) || n < Config.bufferPackets r vc

/-- The buffer of a router's input has room for a packet (R61). -/
def State.bufferRoom (s : State) (r : Nat) (src : CameFrom) (vc : Nat) : Bool := roomAfter r vc ((s.router r).buffered src vc)

/-- A packet of a unit of the router's own waits in the unit: the copies that came from it before fill its buffer (R61). -/
def unitWaits (s : State) (r : Nat) (from_ : CameFrom) (vc : Nat) : Bool :=
  from_ == .localPort 256 && !roomAfter r vc ((s.router r).leaving from_ vc)

/-- ROUTER_PACKET_ARRIVAL: packet i at the router's inputs is routed (R67). -/
def execRouterPacketArrival (router : BitVec 6) (i : Nat) (s : State) : Result :=
  let r := router.toNat
  let q := (s.router r).inq
  if !firstOfStream (q.map (·.2)) i then .next s
  else
    match takeAt q i with
    | none => .next s
    | some ((from_, p), rest) =>
      if unitWaits s r from_ p.vc then .next s
      else .next (routeAt (s.modRouter r fun x => { x with inq := rest }) r from_ p)

/-- The input of router m that the link from router n feeds. -/
def hopFrom (n m : Nat) : CameFrom := if m / 8 = n / 8 then .row n else .column n

/-- A lossless multicast packet of the same buffer came earlier, and one of its copies has not left: later packets of the buffer
wait on every branch (R71). -/
def castBars (s : State) (r : Nat) (g : OutCopy) : Bool :=
  (s.router r).outq.any fun h => h.cast && h.src == g.src && h.p.vc == g.p.vc && h.id < g.id

/-- The copy may leave: no earlier multicast packet of its buffer bars it (R71), and the receiver at its output has room for
it (R54, R61, R81); a port out of UP takes VC 1 alone, up to 256 packets. -/
def outRoom (s : State) (r : Nat) (g : OutCopy) : Bool :=
  !castBars s r g &&
  match g.out with
  | .router m => s.bufferRoom m (hopFrom r m) g.p.vc
  | .cluster n _ => !(g.p.vc == 4 && vc4Blocked s n)
  | .wiolo port =>
    let x := fget s.wioloPorts {} port
    x.state = 2 || (g.p.vc == 1 && x.held.length < 256)

/-- The channel that an output takes next: VC 0, then VC 1, then VCs 2 to 5 in round-robin, of those with a packet that has room
(R61). -/
def linkVc (s : State) (r : Nat) (o : OutPort) : Option Nat :=
  let x := s.router r
  let has (v : Nat) : Bool := x.outq.any fun g => g.out.key == o.key && g.p.vc == v && outRoom s r g
  let last := fget x.vcLast 5 o.key
  ([0, 1] ++ [1, 2, 3, 4].map fun i => 2 + (last - 2 + i) % 4).find? has

/-- The outcome of the link's code for flit j of a packet; flits that the list does not reach are clean. -/
def flitOutcome (r : List Secded) (j : Nat) : Secded := r.getD j .clean

/-- Link errors on a packet: an uncorrectable one poisons its flit (R59). -/
def strike (r : List Secded) (p : Packet) : Packet :=
  { p with flits := p.flits.zipIdx.map fun f => (f.1.1, f.1.2 || flitOutcome r f.2 == .uncorrectable) }

/-- A router counts what its input links' codes found in n flits (R59, Table 3-8). -/
def countErrors (s : State) (router : Nat) (r : List Secded) (n : Nat) : State :=
  let of (x : Secded) : Nat := ((List.range n).filter fun j => flitOutcome r j == x).length
  let s := if of .corrected = 0 then s else countBy s router 5 (of .corrected)
  if of .uncorrectable = 0 then s else countBy s router 6 (of .uncorrectable)

/-- A packet reaches a Wiolo port: sent when the port is UP, else held (R81). Poison that leaves the package is recorded
(R278). -/
def reachPort (s : State) (port : Nat) (p : Packet) : State :=
  let s := if pktPoisoned p then exportRecord s port 0 else s
  let x := fget s.wioloPorts {} port
  if x.state = 2 && x.held.isEmpty then sendFrame s port p
  else { s with wioloPorts := fset s.wioloPorts {} port { x with held := x.held ++ [p] } }

/-- Copy i of a router's output queues leaves on its output, if its channel is the one that the output takes, and is
received with the outcomes of the link's code for its flits (R59, R61). -/
def linkSend (s : State) (n i : Nat) (r : List Secded) : State :=
  let q := (s.router n).outq
  match q[i]?, takeAt q i with
  | some g, some (_, rest) =>
    if linkVc s n g.out ≠ some g.p.vc || !outRoom s n g ||
        (q.take i).any (fun h => h.out.key == g.out.key && sameStream h.p g.p) then s
    else
      let s := s.modRouter n fun x =>
        { x with outq := rest, vcLast := if g.p.vc < 2 then x.vcLast else fset x.vcLast 5 g.out.key g.p.vc }
      let p := strike r g.p
      match g.out with
      | .router m =>
        (countErrors s m r p.flits.length).modRouter m fun x => { x with inq := x.inq ++ [(hopFrom n m, p)] }
      | .cluster c m =>
        (List.range 16).foldl (fun s k =>
          if m.getLsbD k then s.modCore (16 * c + k) fun x => { x with arrivals := x.arrivals ++ [p] } else s) s
      | .wiolo port => reachPort s port p
  | _, _ => s

/-- The words that copies have read and not yet written (R209): each by its copy's number and its place there. -/
def copyFlits (m : Mem) : List (Nat × Nat) :=
  m.copies.flatMap fun (x : Copy) =>
    (x.got.map fun g => (x.id, g.1)) ++ ((List.range x.pending.length).map fun i => (x.id, 2 ^ 64 + i))

/-- Poisons a word that a copy has on its way (R59). -/
def Copy.strike (x : Copy) (i : Nat) : Copy :=
  { x with
    got := x.got.map fun g => if g.1 = i then (g.1, g.2.map fun v => (v.1, true)) else g
    pending := (x.pending.zipIdx).map fun p => if 2 ^ 64 + p.2 = i then (p.1.1, p.1.2.1, true) else p.1 }

/-- LINK_FLIT_RECEIVE, with the outcomes of the links' code for the flits (R59). The router's output queues come first; then
the packets at its inputs that came from a cluster or from an I/O die, over the link from there; then the data of the posted
accesses in flight and the words that copies have read and not written, which travel as flits over links whose routers the
model does not follow (log 64). -/
def execLinkFlitReceive (router : BitVec 6) (i : Nat) (r : List Secded) (s : State) : Result :=
  let n := router.toNat
  let x := s.router n
  let j := i - x.outq.length
  if i < x.outq.length then .next (linkSend s n i r)
  else
    match x.inq[j]? with
    | some (.row _, _) | some (.column _, _) => .next s
    | some (from_, p) =>
      .next ((countErrors s n r p.flits.length).modRouter n fun x => { x with inq := x.inq.set j (from_, strike r p) })
    | none =>
      match s.mem.reqs[j - x.inq.length]? with
      | none =>
        match (copyFlits s.mem)[j - x.inq.length - s.mem.reqs.length]? with
        | none => .next s
        | some (id, k) =>
          .next ((countErrors s n r 1).modMem fun m =>
            { m with copies := m.copies.map fun y =>
                if y.id = id && flitOutcome r 0 == .uncorrectable then y.strike k else y })
      | some q =>
        let bad := flitOutcome r 0 == .uncorrectable && (q.store != q.done)
        .next ((countErrors s n r 1).modMem fun m =>
          { m with reqs := m.reqs.map fun y => if y.id = q.id then { y with psn := y.psn || bad } else y })

/-! ### The network interface: event flits (R50 to R55) -/

/-- Entries of a ring: 2^(LOGSIZE + 6) (Table 2-6). -/
def ClassRegs.size (r : ClassRegs) : Nat := 2 ^ (r.logsize.toNat + 6)
/-- Flits in a ring (R51). -/
def ClassRegs.fill (r : ClassRegs) : Nat := (r.head - r.tail).toNat
/-- The ring is full. -/
def ClassRegs.full (r : ClassRegs) : Bool := r.fill == r.size
/-- The local-SRAM offset of the ring entry for a count. -/
def ClassRegs.slot (r : ClassRegs) (n : BitVec 17) : Nat := (r.base.toNat * 8 + 8 * (n.toNat % r.size)) % 0x80000

/-- The network interface as a writer (Table 11-12). -/
def niWriter (c : Nat) : WriterId := { wkind := 7, wcore := c }

/-- Writes a flit into its class's ring and wakes the class (R51, R52). -/
def writeRing (s : State) (c cls : Nat) (f : Word) (p : Bool) : State :=
  let r := (s.core c).cls cls
  let s := writeSram s c (r.slot r.head) 8 f p (niWriter c)
  let s := s.modCore c fun x =>
    { (x.modCls cls fun r => { r with head := r.head + 1 }) with writes := x.writes + 1 }
  wakeClass s c cls

/-- Counts a discarded flit (R53). -/
def discard (s : State) (c : Nat) : State := s.modCore c fun x => { x with discards := satInc x.discards }

/-- A saturating sum. -/
def satAdd {n : Nat} (x : BitVec n) (k : Nat) : BitVec n :=
  if x.toNat + k < 2 ^ n then x + BitVec.ofNat n k else BitVec.allOnes n

/-- A droppable flit finds its ring full: it is counted, logged, and may set the drop flag (R55). -/
def dropFlit (s : State) (c cls : Nat) (f : Word) (p : Bool) : State :=
  let x := s.core c
  let s := s.modCore c fun x => x.modCls cls fun r =>
    { r with dropf := satInc r.dropf, dropq := satAdd r.dropq (flitN f).natAbs }
  let s := if x.droplogCount.toNat < 64 then
      (writeSram s c ((x.droplogBase.toNat * 512 + 8 * x.droplogCount.toNat) % 0x80000) 8 f p (niWriter c)).modCore c
        fun x => { x with droplogCount := x.droplogCount + 1 }
    else s
  let r := (s.core c).cls cls
  if r.thresh ≠ 0 && r.thresh.toNat ≤ r.dropf.toNat && !r.evdrop then
    wakeClass (s.modCore c fun x => x.modCls cls fun r => { r with evdrop := true }) c cls
  else s

/-- Flits of a class wait in the VC 4 buffer. -/
def Core.waits (x : Core) (cls : Nat) : Bool := x.vc4buf.any fun p => (pktCls p) == cls

/-- EVENT_FLIT_ARRIVAL: event flit i at the core's interface is discarded, dropped, written to its ring, or waits (R29, R52
to R55, R91). -/
def execEventFlitArrival (core : BitVec 12) (i : Nat) (s : State) : Result :=
  let c := core.toNat
  let x := s.core c
  match x.arrivals[i]?, takeAt x.arrivals i with
  | some p, some (_, rest) =>
    let cls := (pktCls p)
    let r := x.cls cls
    let f := (pktHead p)
    let psn := (pktPoisoned p)
    if p.vc = 2 || !firstOfStream x.arrivals i then .next s
    else
      let t := s.modCore c fun x => { x with arrivals := rest }
      if f.getLsbD 57 || !r.isQueue then .next (discard t c)
      else if p.vc = 5 then .next (if r.full then dropFlit t c cls f psn else writeRing t c cls f psn)
      else if !x.waits cls && !r.full then .next (writeRing t c cls f psn)
      else if x.vc4buf.length < 4 then .next (t.modCore c fun x => { x with vc4buf := x.vc4buf ++ [p] })
      else .next s
  | _, _ => .next s

/-- The first waiting VC 4 flit whose ring has room, or whose class no longer takes events. -/
def drainable (x : Core) (l : List Packet) (seen : List Nat) : Option Nat :=
  match l with
  | [] => none
  | p :: rest =>
    let r := x.cls (pktCls p)
    if !seen.contains (pktCls p) && (!r.isQueue || !r.full) then some 0
    else (drainable x rest ((pktCls p) :: seen)).map (· + 1)

/-- VC4_BUFFER_DRAIN: a waiting lossless flit enters its ring as an entry frees (R54). -/
def execVc4BufferDrain (core : BitVec 12) (s : State) : Result :=
  let c := core.toNat
  let x := s.core c
  match (drainable x x.vc4buf []).bind (takeAt x.vc4buf ·) with
  | none => .next s
  | some (p, rest) =>
    let s := s.modCore c fun x => { x with vc4buf := rest }
    .next (if (x.cls (pktCls p)).isQueue then writeRing s c (pktCls p) (pktHead p) (pktPoisoned p) else discard s c)

/-! ### Task messages and replies (R92 to R94, R104) -/

/-- Records a refused sender (R93). -/
def refuse (x : Core) (pkg : BitVec 10) (core : BitVec 13) (engine : Bool) : Core :=
  if x.refusals.contains (pkg, core, engine) then x
  else if x.refusals.length < 8 then { x with refusals := x.refusals ++ [(pkg, core, engine)] }
  else { x with refusalOverflow := true }

/-- Sends a REFUSE notice (Table 3-4). The management core has no core number that a notice to another package could name:
there its number in the model stands in the field (log 78). -/
def sendRefuse (s : State) (c : Nat) (p : Packet) : State :=
  match p.entry with
  | none => s
  | some e =>
    if p.srcPkg = s.package then { s with notes := s.notes ++ [.refuse p.srcCore.toNat e] }
    else
      toPort s (routerOf c) p.srcPkg.toNat
        { vc := 1
          flits := [(BitVec.ofNat 64 ((pktCls p) * 2 ^ 54 + e * 2 ^ 44 + (s.package.toNat * 4096 + c) * 2 ^ 22 +
            p.srcPkg.toNat * 4096 + p.srcCore.toNat), false)]
          srcPkg := s.package, srcCore := BitVec.ofNat 13 c, entry := none, via := none }

/-- The start a task message asks for (R62, R92). Its ti.DROP shows the class's EVDROP bit, as Table 4-2 has it for any task
of a class, and SRCCORE is the number by which the sender's own CSRs know it (log 67). -/
def messageStart (r : ClassRegs) (p : Packet) : Start :=
  { engine := handlerEngine r.handler, prio := handlerPrio r.handler, entry := handlerPc r.handler, args := p.flits.tail
    budget := handlerBudget r.handler, realm := handlerRealm r.handler
    tinfo := taskInfo p.srcPkg ((coreNumber p.srcCore.toNat).setWidth 16) r.evdrop ((pktHead p).getLsbD 55)
      (handlerPrio r.handler) false (pktCls p) 1
    walkid := 0, nodeid := 0, launch := 0 }

/-- A task message is refused: a REFUSE notice goes to its sender, which is listed (R92, R93). -/
def refuseMessage (s : State) (c : Nat) (p : Packet) (engine : Bool) : State :=
  sendRefuse (s.modCore c fun x => refuse x p.srcPkg p.srcCore engine) c p

/-- TASK_MESSAGE_ARRIVAL: task message i at the core's interface starts a task, is refused, or is discarded (R91 to R93); a
start by a REL message is an acquire (R215). -/
def execTaskMessageArrival (core : BitVec 12) (i : Nat) (s : State) : Result :=
  let c := core.toNat
  let x := s.core c
  match x.arrivals[i]?, takeAt x.arrivals i with
  | some p, some (_, rest) =>
    let cls := pktCls p
    let r := x.cls cls
    let engine := handlerEngine r.handler
    if p.vc ≠ 2 || pktTok p || !firstOfStream x.arrivals i then .next s
    else
      let t := s.modCore c fun x => { x with arrivals := rest }
      if !r.isTask then .next (accept (discard t c) (routerOf c) p)
      else if !r.enabled then
        .next (refuseMessage (t.modCore c fun x => x.modCls cls fun r => { r with pending := true }) c p engine)
      else
        match freeSlot t c engine with
        | none => .next (refuseMessage t c p engine)
        | some k =>
          let t := startIn t c k (messageStart r p)
          .next (accept (if (pktHead p).getLsbD 55 then acquireAt t c k .package else t) (routerOf c) p)
  | _, _ => .next s

/-- Writes the payload of a reply into the reply window of its slot and sets the words full (R104). -/
def writeReply (s : State) (c : Nat) (p : Packet) : State :=
  (p.flits.tail.zipIdx).foldl (fun s f =>
    let off := 0x7FF00 + 32 * ((pktHead p).extractLsb' 51 3).toNat + 8 * f.2
    (writeSram s c off 8 f.1.1 f.1.2 (niWriter c)).modMem fun m => m.setFull (keySram c off) true) s

/-- REPLY_DELIVERY: a packet addressed by reply token is written to the reply window of its live context, or dropped as an
orphan (R104). Slot 7 counts as live while its supervisor runs (log 68). -/
def execReplyDelivery (core : BitVec 12) (i : Nat) (s : State) : Result :=
  let c := core.toNat
  let x := s.core c
  match x.arrivals[i]?, takeAt x.arrivals i with
  | some p, some (_, rest) =>
    if !pktTok p || !firstOfStream x.arrivals i then .next s
    else
      let t := accept (s.modCore c fun x => { x with arrivals := rest }) (routerOf c) p
      let y := x.ctx ((pktHead p).extractLsb' 51 3).toNat
      if !(x.cls (pktCls p)).isTask then .next (discard t c)
      else if !y.occupied || y.gen ≠ (pktHead p).extractLsb' 43 8 then
        .next (t.modCore c fun x => { x with orphans := satInc x.orphans })
      else .next (writeReply t c p)
  | _, _ => .next s

/-! ### Notices (R63, R94) -/

/-- Hands a packet to the core's source router. -/
def inject (s : State) (c : Nat) (p : Packet) : State :=
  s.modRouter (routerOf c) fun x => { x with inq := x.inq ++ [(.localPort (clusterOf c), p)] }

/-- The source router's buffer has room for a packet of a core (R54, R61). -/
def State.mayInject (s : State) (c vc : Nat) : Bool := s.bufferRoom (routerOf c) (.localPort (clusterOf c)) vc

/-- ACCEPTANCE: the retry-buffer entry it names is freed (R94). -/
def execAcceptance (i : Nat) (s : State) : Result :=
  match takeAt s.notes i with
  | some (.acceptance c e, rest) =>
    .next (({ s with notes := rest } : State).modCore c fun x => { x with retry := fset x.retry none e none })
  | _ => .next s

/-- REFUSE_NOTICE: the retry-buffer entry it names is marked refused (R94). -/
def execRefuseNotice (i : Nat) (s : State) : Result :=
  match takeAt s.notes i with
  | some (.refuse c e, rest) =>
    .next (({ s with notes := rest } : State).modCore c fun x =>
      { x with retry := fset x.retry none e ((fget x.retry none e).map fun (r : Retry) => { r with refused := true }) })
  | _ => .next s

/-- The refused entries of a core for a target, oldest first. -/
def refusedFor (x : Core) (src : Nat) : List (Nat × Retry) :=
  let l := [0, 1, 2, 3].filterMap fun e =>
    match fget x.retry none e with
    | some r => if r.refused && ((pktHead r.packet).extractLsb' 0 22).toNat = src then some (e, r) else none
    | none => none
  l.mergeSort fun a b => a.2.order ≤ b.2.order

/-- A FREE notice at a core: every refused entry for the freeing core is sent again (R94), the oldest first, as the source
router's buffer has room (R61). -/
def resend (s : State) (c src : Nat) : State :=
  (refusedFor (s.core c) src).foldl (fun s e =>
    if s.mayInject c e.2.packet.vc then
      inject (s.modCore c fun x => { x with retry := fset x.retry none e.1 (some { e.2 with refused := false }) }) c
        e.2.packet
    else s) s

/-- The cores that a FREE notice reaches: its destination, or with BCAST every core (R63, R94). -/
def freeTargets (s : State) (dest : Option Nat) : List Nat :=
  match dest with
  | some c => [c]
  | none => s.cores.map (·.1)

/-- FREE_NOTICE: it reaches its destination, or with BCAST every core that holds a refused entry (R63, R94). It stays while
one of its cores has an entry left to send for which the source router's buffer has no room. -/
def execFreeNotice (i : Nat) (s : State) : Result :=
  match takeAt s.notes i with
  | some (.free src dest, rest) =>
    let l := freeTargets s dest
    let t := l.foldl (fun s c => resend s c src) s
    .next (if l.all fun c => (refusedFor (t.core c) src).isEmpty then { t with notes := rest } else t)
  | _ => .next s

/-- WATCH_NOTICE_ARRIVAL: the notice raises WATCH at its core's supervisor, is held, or is dropped and counted where 8 are
held (R290); one for another package leaves by its slice's router (R289), one for a core that is not usable is a dead target's
(R20). -/
def execWatchNoticeArrival (i : Nat) (s : State) : Result :=
  match takeAt s.notes i with
  | some (.watch c hdr addr, rest) =>
    let t : State := { s with notes := rest }
    let pkg := (hdr.extractLsb' 12 10).toNat
    let r := sliceRouter (sliceOf (addr.extractLsb' 0 42).toNat)
    if pkg ≠ s.package.toNat then
      .next (toPort t r pkg
        { vc := 1, flits := [(hdr, false), (addr, false)], srcPkg := s.package, srcCore := BitVec.ofNat 13 (64 * r),
          entry := none, via := none })
    else if !s.usableCore c then .next (count t (routerOf c) 0)
    else if 8 ≤ ((t.core c).trap.held.filter fun r => r.slot = none && r.cause = .watch).length then
      .next (t.modCore c fun x => { x with watchq := satInc x.watchq })
    else
      .next (raiseNotice t c { cause := .watch, pc := 0, val := addr, ctx := hdr, seq := 0, slot := none, imprec := false })
  | _ => .next s

/-! ### The message instructions -/

/-- A check of R68 that fails: its cause and TVAL. Words are the class, the target package, and the packet's length. -/
def messageCheck (s : State) (task : Bool) (cls pkg len : Nat) : Option (Cause × Word) :=
  let e := s.entry (routerOf s.cur.1) cls
  let c : Option (Cause × Word) := some (.cls, BitVec.ofNat 64 cls)
  if cls = 62 || cls = 63 || !e.valid || (e.vc == 2) != task then c
  else if e.lenmax.toNat + 1 < len || s.msgmax.toNat < len then some (.msgLen, BitVec.ofNat 64 len)
  else if !e.cast && pkg ≠ s.package.toNat && !e.domain then c
  else none

/-- The scope of a message's release (R215): DOMAIN where the target lies in another package. -/
def messageScope (s : State) (cls pkg : Nat) : Scope :=
  if (s.entry (routerOf s.cur.1) cls).cast || pkg = s.package.toNat then .package else .domain

/-- Runs f after the release of a message with REL. -/
def releaseIf (rel : Bool) (scope : Scope) (f : State → Result) (s : State) : Result :=
  if rel then withRelease scope f s else f s

/-- The packet goes to the core's network interface; the instruction completes when it is accepted (R366, R401). -/
def offer (p : Packet) (s : State) : Result :=
  .next (s.modCtx fun x => { x with sending := some p, wait := none, bypass := 0 })

/-- EMIT (R366). -/
def execEmit (a : Reg) (r : Bool) : State → Result :=
  unlessLocked [] [a] fun s =>
    let f := s.ctx.reg a
    let cls := (f.extractLsb' 58 6).toNat
    let pkg := (f.extractLsb' 12 10).toNat
    if s.ctx.psn a then trapPoison a 4 f 0 s
    else
      match messageCheck s false cls pkg 1 with
      | some (c, v) => trap c v 0 s
      | none =>
        releaseIf r (messageScope s cls pkg) (offer
          { vc := (s.entry (routerOf s.cur.1) cls).vc.toNat, flits := [(f, false)], srcPkg := s.package,
            srcCore := BitVec.ofNat 13 s.cur.1, entry := none, via := none }) s

/-- The four entries of the retry buffer are held (R94). -/
def retryFull (x : Core) : Bool := [0, 1, 2, 3].all fun i => (fget x.retry none i).isSome

/-- The payload registers g[b] to g[b + n]. -/
def payload (x : Ctx) (b : Reg) (n : BitVec 2) : List (Reg × Word × Bool) :=
  (List.range (n.toNat + 1)).map fun i =>
    let r : Reg := b + BitVec.ofNat 5 i
    (r, x.reg r, x.psn r)

/-- SEND and SENDR after their checks on the destination word (R400). `tok` holds SLOT and GEN for SENDR, which takes no
retry-buffer entry and waits for none. -/
def sendMessage (cls pkg core : Nat) (tok : Option (BitVec 11)) (b : Reg) (r : Bool) (n : BitVec 2) (s : State) : Result :=
  match messageCheck s true cls pkg (n.toNat + 2) with
  | some (c, v) => trap c v 0 s
  | none =>
    let l := payload s.ctx b n
    match if pkg ≠ s.package.toNat then l.find? (·.2.2) else none with
    | some (q, v, _) => trapPoison q 5 v 0 s
    | none =>
      let head : Word :=
        BitVec.ofNat 64 (cls * 2 ^ 58 + n.toNat * 2 ^ 56 + (if r then 2 ^ 55 else 0) + pkg * 4096 + core) |||
          (match tok with
           | some t => 0x0040000000000000 ||| (t.setWidth 64 <<< 43)
           | none => 0)
      releaseIf r (messageScope s cls pkg) (fun s =>
        if tok.isNone && retryFull s.here then sleep .send (retryOldest s.here) s
        else offer { vc := 2, flits := (head, false) :: l.map (·.2), srcPkg := s.package,
                     srcCore := BitVec.ofNat 13 s.cur.1, entry := none, via := none } s) s

/-- SEND (R399, R400). -/
def execSend (a b : Reg) (r : Bool) (n : BitVec 2) : State → Result :=
  fun s => unlessLocked [] (a :: (payload s.ctx b n).map (·.1)) (fun s =>
    let w := s.ctx.reg a
    if s.ctx.psn a then trapPoison a 4 w 0 s
    else sendMessage (w.extractLsb' 58 6).toNat (w.extractLsb' 12 10).toNat (w.extractLsb' 0 12).toNat none b r n s) s

/-- SENDR (R399, R400): the destination is a reply token (R103). -/
def execSendr (a b : Reg) (r : Bool) (n : BitVec 2) : State → Result :=
  fun s => unlessLocked [] (a :: (payload s.ctx b n).map (·.1)) (fun s =>
    let w := s.ctx.reg a
    if s.ctx.psn a then trapPoison a 4 w 0 s
    else sendMessage (w.extractLsb' 58 6).toNat (w.extractLsb' 23 10).toNat (w.extractLsb' 11 12).toNat
      (some (w.extractLsb' 0 11)) b r n s) s

/-- PACKET_ACCEPTED: the network interface accepts the packet of a stalled EMIT, SEND or SENDR, which completes (R366,
R401). A SEND's packet takes the lowest free retry-buffer entry; if another took the last one it waits (R94). MSGMAX was
checked at issue and is not asked again (R68, R73, log 69). -/
def execPacketAccepted (core : BitVec 13) (slot : BitVec 3) (s : State) : Result :=
  let c := core.toNat
  let k := slot.toNat
  let x := s.core c
  match (x.ctx k).sending with
  | none => .next s
  | some p =>
    let done (p : Packet) (s : State) : State :=
      (inject s c p).modCtxAt c k fun y => { y.advance with sending := none }
    if !s.mayInject c p.vc then .next s
    else if p.vc ≠ 2 || pktTok p then .next (done p s)
    else
      match [0, 1, 2, 3].find? fun e => (fget x.retry none e).isNone with
      | none => .next (s.modCtxAt c k fun y => ({ y with sending := none } : Ctx).startWait .send (retryOldest x))
      | some e =>
        let p := { p with entry := some e }
        .next (done p (s.modCore c fun x =>
          { x with retry := fset x.retry none e (some { packet := p, order := x.retryOrder })
                   retryOrder := x.retryOrder + 1 }))

/-- The checks of a class operand (R96, R370): bits above the class, a reserved class, the handler's realm. -/
def classDenied (s : State) (v : Word) : Bool :=
  !s.isSuper && handlerRealm (s.here.cls (v.extractLsb' 0 6).toNat).handler ≠ s.ctx.realm

/-- EVPOP (R370). -/
def execEvpop (d a : Reg) : State → Result :=
  unlessLocked [d] [a] fun s =>
    let v := s.ctx.reg a
    let cls := (v.extractLsb' 0 6).toNat
    let r := s.here.cls cls
    let none_ (s : State) : Result := .next (s.modCtx fun x => (x.setReg d (BitVec.allOnes 64) false).advance)
    if s.ctx.psn a then trapPoison a 4 v 0 s
    else if v.extractLsb' 6 58 ≠ 0 then trap .cls v 0 s
    else if 62 ≤ cls then none_ s
    else if classDenied s v then trap .cls v 0 s
    else if !r.isQueue || r.head == r.tail then none_ s
    else
      let k := keySram s.cur.1 (r.slot r.tail)
      let s := s.modHere fun x => x.modCls cls fun r => { r with tail := r.tail + 1 }
      .next (s.modCtx fun x => (x.setReg d (s.mem.load k 8) (s.mem.psn k)).advance)

/-- The checks of RCMASK and RCUNMASK, then f on the class (R96). -/
def withClass (a : Reg) (f : Nat → State → State) : State → Result :=
  unlessLocked [] [a] fun s =>
    let v := s.ctx.reg a
    if s.ctx.psn a then trapPoison a 4 v 0 s
    else if 62 ≤ v.toNat || classDenied s v then trap .cls v 0 s
    else .next ((f v.toNat s).modCtx Ctx.advance)

/-- RCMASK (R96). -/
def execRcmask (a : Reg) : State → Result :=
  withClass a fun cls s => s.modHere fun x => x.modCls cls fun r => { r with enabled := false }

/-- RCUNMASK (R96). -/
def execRcunmask (a : Reg) : State → Result := withClass a fun cls s => enableClass s s.cur.1 cls

/-- The reply token of a context (R103). -/
def replyToken (s : State) (c k : Nat) : Word :=
  (s.package.setWidth 64 <<< 23) ||| ctxid c k (s.ctxAt c k).gen

/-- CTXTOK (R103). -/
def execCtxtok (d : Reg) : State → Result :=
  unlessLocked [d] [] fun s =>
    .next (s.modCtx fun x => (x.setReg d (replyToken s s.cur.1 s.cur.2) false).advance)

/-! ### Registers of the fabric -/

/-- A write of word +0 of a route-class entry; one that R65 refuses leaves it as it is. -/
def RouteEntry.write (e : RouteEntry) (v : Word) : RouteEntry :=
  let vc : BitVec 3 := v.extractLsb' 60 3
  let cast := v.getLsbD 59
  let coal := v.getLsbD 58
  let domain := v.getLsbD 57
  let lenmax : BitVec 4 := v.extractLsb' 48 4
  if v.getLsbD 63 &&
      (!(vc = 2 || vc = 4 || vc = 5) || (vc = 2 && (cast || coal || 4 < lenmax.toNat)) || (vc ≠ 2 && lenmax ≠ 0) ||
        (cast && domain)) then e
  else
    { e with valid := v.getLsbD 63, vc, cast, coal, domain, lenmax, rowset := v.extractLsb' 32 8,
             colset := v.extractLsb' 16 8 }

/-- Word +0 of a route-class entry. -/
def RouteEntry.word (e : RouteEntry) : Word :=
  (if e.valid then 0x8000000000000000 else 0) ||| (e.vc.setWidth 64 <<< 60) |||
    (if e.cast then 0x0800000000000000 else 0) ||| (if e.coal then 0x0400000000000000 else 0) |||
    (if e.domain then 0x0200000000000000 else 0) ||| (e.lenmax.setWidth 64 <<< 48) |||
    (e.rowset.setWidth 64 <<< 32) ||| (e.colset.setWidth 64 <<< 16)

/-- A write of a route-class entry's word; the entries of classes 62 and 63 ignore it (R65, R66). -/
def routeClassWrite (s : State) (r cls : Nat) (hi : Bool) (v : Word) : State :=
  if 62 ≤ cls then s
  else
    s.modRouter r fun x =>
      let e := fget x.entries {} cls
      { x with entries := fset x.entries {} cls (if hi then { e with localmask := v } else e.write v) }

/-- ROUTE_CLASS_WRITE (R65). -/
def execRouteClassWrite (router cls : BitVec 6) (hi : Bool) (v : Word) (s : State) : Result :=
  .next (routeClassWrite s router.toNat cls.toNat hi v)

/-- A write of MSGMAX (R73, Table 3-7). -/
def msgmaxWrite (s : State) (v : Word) : State :=
  let m : BitVec 5 := v.setWidth 5
  if 2 ≤ m.toNat && m.toNat ≤ 16 then { s with msgmax := m } else s

/-- MSGMAX_WRITE (R73). -/
def execMsgmaxWrite (v : Word) (s : State) : Result := .next (msgmaxWrite s v)

/-! ### Wiolo ports (R78, R81, R82) -/

/-- Changes a Wiolo port. -/
def State.modPort (s : State) (n : Nat) (f : WioloPort → WioloPort) : State :=
  { s with wioloPorts := fset s.wioloPorts {} n (f (fget s.wioloPorts {} n)) }

/-- The attached slice router at which a packet from another package enters: the one that its destination's router names
(R80). -/
def entryRouter (port : Nat) (p : Packet) : Nat :=
  portRouter port (if p.vc = 1 || p.vc = 3 then noticeRouter p else pktCore p / 64)

/-- A packet from another package enters, if the slice router's buffer has room for it (R54, R61); VC 0 never crosses (R75). -/
def enter (s : State) (port : Nat) (p : Packet) : Option State :=
  if p.vc = 0 then some s
  else if !s.bufferRoom (entryRouter port p) (.wiolo port) p.vc then none
  else some (s.modRouter (entryRouter port p) fun x => { x with inq := x.inq ++ [(.wiolo port, { p with via := none })] })

/-- WIOLO_FRAME_RECEIVE: a port that is UP receives a frame: a CRC error is counted; the frames it acknowledges leave the
replay buffer; the frame expected next delivers its packets, any other was delivered before or is sent again (R81). A frame
whose packets find no room in the slice routers is not taken, and its sender sends it again (R54, R81). -/
def execWioloFrameReceive (port : BitVec 4) (f : Frame) (s : State) : Result :=
  let n := port.toNat
  let x := fget s.wioloPorts {} n
  if x.state ≠ 2 then .next s
  else if !f.crcOk then .next (s.modPort n fun x => { x with crcerr := x.crcerr + 1 })
  else
    let s := s.modPort n fun x => { x with replay := x.replay.filter fun (g : Frame) => f.ack ≤ g.seq }
    if f.seq ≠ x.recvSeq then .next s
    else
      match f.packets.foldlM (fun s p => enter s n p) (s.modPort n fun x => { x with recvSeq := x.recvSeq + 1 }) with
      | some t => .next t
      | none => .next s

/-- WIOLO_FRAME_RESEND: the port sends its oldest unacknowledged frame again (R81). -/
def execWioloFrameResend (port : BitVec 4) (s : State) : Result :=
  let x := fget s.wioloPorts {} port.toNat
  .next (if x.state = 2 && !x.replay.isEmpty then s.modPort port.toNat fun x => { x with retries := satInc x.retries } else s)

/-- WIOLO_LINK_LOSS: the port enters DOWN and holds its traffic (R81). -/
def execWioloLinkLoss (port : BitVec 4) (s : State) : Result :=
  .next (s.modPort port.toNat fun x => { x with state := 0, laneup := 0 })

/-- WIOLO_RETRAIN_DONE: the training of a port has locked the lanes it names (Table 3-11). With all four the port goes UP, sends
every unacknowledged frame again and then what it held; with fewer it is still TRAINING (R78, R81). -/
def execWioloRetrainDone (locked : LockedLanes) (s : State) : Result :=
  let n := locked.port.toNat
  let x := fget s.wioloPorts {} n
  if x.state = 2 then .next s
  else if locked.lanes ≠ 15 then .next (s.modPort n fun x => { x with state := 1, laneup := locked.lanes })
  else
    let s := s.modPort n fun x =>
      { x with state := 2, laneup := 15, held := [], retries := satAdd x.retries x.replay.length }
    .next (x.held.foldl (fun s p => sendFrame s n p) s)

end Sys2Proof.Machine
end

