-- ==== Sys2Proof/Machine/Copy.lean ====
section
/-!
DEFINITION. The copy engines (R258 to R267): copies, batches, gathers and scatters, arrival words, event lines.
-/

namespace Sys2Proof.Machine

/-! ### Event lines (R266) -/

/-- A pulse of an event line of a cluster in the contexts of slots 0 to 6 that hold a task of which p is true. -/
def pulseIn (s : State) (cluster line : Nat) (p : Ctx → Bool) : State :=
  (List.range 16).foldl (fun s q =>
    [0, 1, 2, 3, 4, 5, 6].foldl (fun s k =>
      if (s.ctxAt (16 * cluster + q) k).occupied && p (s.ctxAt (16 * cluster + q) k) then
        s.modCtxAt (16 * cluster + q) k fun x => { x with pulse := x.pulse ||| BitVec.ofNat 16 (2 ^ line) }
      else s) s) s

/-- A pulse of an event line of a cluster: it is set in every context of slots 0 to 6 that holds a task (R266). -/
def pulse (s : State) (cluster line : Nat) : State := pulseIn s cluster line fun _ => true

/-! ### Arrival words (R210, R211) -/

/-- Writes a word of an arrival word at its SRAM: no plain write, so COUNT and GEN stay defined. -/
def writeArrival (s : State) (k : Nat) (v : Word) (w : WriterId) : State :=
  let o := k - 2 ^ 48
  { s with
    mem := s.mem.store k 8 v false
    notes := if o < 2 ^ 31 then s.notes ++ sramNotices s (o / 0x80000) (o % 0x80000) 8 w else s.notes }

/-- The cluster of the unit that holds a word. -/
def clusterOfKey (k : Nat) : Nat :=
  let o := k - 2 ^ 48
  if o < 2 ^ 31 then o / 0x80000 / 16 else (o - 2 ^ 31) / 0x800000

/-- A write of n bytes is counted in an arrival word (R211). -/
def arriveAt (s : State) (k n : Nat) (psn : Bool) (w : WriterId) : State :=
  let w0 := s.mem.load k 8
  let w1 := s.mem.load (k + 8) 8
  if !w1.getLsbD 7 then s
  else
    let target := (w0.extractLsb' 32 32).toNat
    let count := ((w0.extractLsb' 0 32).toNat + n) % 2 ^ 32
    let full := target ≤ count
    let count := if full then count - target else count
    let gen : BitVec 32 := w1.extractLsb' 32 32 + (if full then 1 else 0)
    let w1' : Word := (gen.setWidth 64 <<< 32) ||| (w1 &&& 0xFFFFFFFF) ||| (if psn then 0x20 else 0) |||
      (if full && count ≠ 0 then 0x40 else 0)
    let s := writeArrival s k ((w0 &&& 0xFFFFFFFF00000000) ||| BitVec.ofNat 64 count) w
    let s := (writeArrival s (k + 8) w1' w).modMem fun m => { m with armed := nput m.armed k }
    if full && w1.getLsbD 4 then pulse s (clusterOfKey k) (w1.extractLsb' 0 4).toNat else s

/-! ### Addresses of a copy -/

/-- The window address of the word that a private-alias address names (R260). -/
def toWindow (s : State) (va : Word) : Word :=
  if s.cur.1 = mgmtCore then va
  else if va.toNat < 0x80000 then s.windowSram s.cur.1 va.toNat
  else if 0x1000000 ≤ va.toNat && va.toNat < 0x1800000 then
    s.windowScratch (clusterOf s.cur.1) (va.toNat - 0x1000000)
  else va

/-- A unit that a window address names: a core's SRAM or a cluster's scratch, and its package. -/
structure OnChip where
  pkg : Nat
  core : Option Nat
  cluster : Nat
  off : Nat
  deriving DecidableEq, Repr

/-- The word of an on-chip unit that a window address names (Table 7-2); of this package a usable unit's alone (R18), and a
scratch address names a word only in a SCRATCH bank. -/
def onChip (s : State) (va : Word) : Option OnChip :=
  let n := (va.extractLsb' 29 8).toNat
  let unit := (va.extractLsb' 24 5).toNat
  let off := (va.extractLsb' 0 24).toNat
  let pkg := (va.extractLsb' 37 10).toNat
  let far := pkg ≠ s.package.toNat
  if !inWindow va || isSliceRouter (n / 4) then none
  else if unit < 16 && off < 0x80000 && (far || s.usableCore (16 * n + unit)) then
    some { pkg, core := some (16 * n + unit), cluster := n, off }
  else if unit = 16 && off < 0x800000 && (far || (s.usableCluster n && (s.bank n (off / 0x80000)).mode == .scratch &&
      !(s.bank n (off / 0x80000)).busy)) then
    some { pkg, core := none, cluster := n, off }
  else none

/-- A window address names a word of a bank that is switching: what asks for it waits (R178). -/
def onSwitching (s : State) (va : Word) : Bool :=
  let n := (va.extractLsb' 29 8).toNat
  let off := (va.extractLsb' 0 24).toNat
  inWindow va && !isSliceRouter (n / 4) && (va.extractLsb' 37 10).toNat == s.package.toNat && va.extractLsb' 24 5 == 16#5 &&
    off < 0x800000 && s.usableCluster n && (s.bank n (off / 0x80000)).busy

/-- What a copy instruction does with an operand that lies in no unit: it waits for a bank that is switching (R178), else
the check of R260 or R356 that asks for the unit raises BOUNDS. -/
def notOnChip (s : State) (va : Word) : Result := if onSwitching s (toWindow s va) then stall s else trap .bounds va 0 s

/-- Bytes of the unit. -/
def OnChip.size (u : OnChip) : Nat := if u.core.isSome then 0x80000 else 0x800000

/-- The key of a byte of the unit. -/
def OnChip.key (u : OnChip) (off : Nat) : Nat :=
  match u.core with
  | some c => keySram c off
  | none => keyScratch u.cluster off

/-- The address passes step 4 of R260. -/
def copyCanonical (s : State) (va : Word) : Bool :=
  if s.cur.1 = mgmtCore then va.extractLsb' 52 12 == 0 else canonical va

/-! ### Posting -/

/-- The register checks of R260 step 1, in order: register and consumer kind. -/
def withClean (l : List (Reg × Nat)) (f : State → Result) (s : State) : Result :=
  match l.find? fun r => s.ctx.psn r.1 with
  | some (r, k) => trapPoison r k (s.ctx.reg r) (s.ctx.reg r) s
  | none => f s

/-- Checks and reads the 32-byte descriptor at g[a] (R260 steps 1 and 2), then f. -/
def withDesc (a : Reg) (f : Word → List Word → State → Result) : State → Result :=
  unlessLocked [] [a] fun s =>
    withClean [(a, 1)] (fun s =>
      let va := s.ctx.reg a
      if 0x80000 ≤ va.toNat || s.cur.1 = mgmtCore then trap .bounds va 0 s
      else if va.toNat % 32 ≠ 0 then trap .align va 0 s
      else if !ownsCore s s.agent s.cur.1 needRead then trap .prot va 0 s
      else if !settled s (.sram s.cur.1 va.toNat false) 32 then stall s
      else
        let ps := [0, 8, 16, 24].map fun o => Place.sram s.cur.1 (va.toNat + o) false
        match ps.find? fun p => (readHome s p 8).2 with
        | some p => trapPoisonWord p 1 (readHome s p 8).1 va s
        | none => f va (ps.map fun p => (readHome s p 8).1) s) s

/-- Steps 4 and 5 of R260: addresses canonical, then addresses and lengths multiples of 8 and IDX a multiple of its size.
A length or stride that fails has no address for TVAL to hold: a free value. -/
def withAligned (addrs lens : List Word) (idx : Option (Word × Nat)) (f : State → Result) (s : State) : Result :=
  let all := addrs ++ (match idx with | some (i, _) => [i] | none => [])
  match all.find? fun v => !copyCanonical s v with
  | some v => trap .bounds v 0 s
  | none =>
    match addrs.find? fun v => v.toNat % 8 ≠ 0 with
    | some v => trap .align v 0 s
    | none =>
      if lens.any fun v => v.toNat % 8 ≠ 0 then trap .align s.freeVal 0 s.drawn
      else
        match idx with
        | some (v, n) => if v.toNat % n ≠ 0 then trap .align v 0 s else f s
        | none => f s

/-- Step 6 of R260, then f with the key of the arrival word, if writes are counted in one of this package. -/
def withArrival (aw : Bool) (dst : Word) (awoff : Nat) (f : Option Nat → State → Result) (s : State) : Result :=
  if !aw then f none s
  else
    match onChip s (toWindow s dst) with
    | none => notOnChip s dst
    | some u =>
      if u.size < 16 * awoff + 16 || s.cur.1 = mgmtCore then trap .bounds dst 0 s
      else f (if u.pkg = s.package.toNat then some (u.key (16 * awoff)) else none) s

/-- Posts a copy: it joins the context's open batch (R262), and the context goes on. -/
def postCopy (x : Copy) (s : State) : Result :=
  let s := s.modMem fun m =>
    { m with
      copies := m.copies ++ [{ x with id := m.nextReq, core := s.cur.1, slot := s.cur.2, gen := s.ctx.gen,
                                      realm := s.agent.realm, super := s.isSuper }]
      nextReq := m.nextReq + 1 }
  .next (s.modCtx fun y => { y.advance with openN := y.openN + 1 })

/-- A copy with no operand set. -/
def Copy.blank (kind : CopyKind) (fn : Nat) : Copy :=
  { id := 0, core := 0, slot := 0, gen := 0, realm := 0, super := false, kind, fn, dst := 0, src := 0, rowBytes := 0,
    rows := 1 }

/-- CCOPY (R259, R260, R353). -/
def execCcopy (d a b : Reg) : State → Result :=
  unlessLocked [] [d, a, b] fun s =>
    withClean [(d, 1), (a, 1), (b, 4)] (fun s =>
      let dst := s.ctx.reg d
      let src := s.ctx.reg a
      let v := s.ctx.reg b
      let len := v &&& 0xFFFFFFFF
      if v.extractLsb' 56 8 ≠ 0 || v.extractLsb' 32 4 ≠ 0 then trap .bounds v 0 s
      else
        withAligned [dst, src] [len] none (fun s =>
          withArrival (v.getLsbD 55) dst (v.extractLsb' 36 19).toNat (fun aw s =>
            postCopy { Copy.blank .linear 0 with dst := toWindow s dst, src := toWindow s src, rowBytes := len.toNat, aw }
              s) s) s) s

/-- CCOPY2D (R259, R260, R354). -/
def execCcopy2d (a : Reg) : State → Result :=
  withDesc a fun _ w s =>
    let dst := w.getD 0 0
    let src := w.getD 1 0
    let dstride := ((w.getD 2 0).extractLsb' 32 32).signExtend 64
    let sstride := ((w.getD 2 0).extractLsb' 0 32).signExtend 64
    let v := w.getD 3 0
    let len := v &&& 0xFFFFFFF
    withAligned [dst, src] [len, dstride, sstride] none (fun s =>
      withArrival (v.getLsbD 47) dst (v.extractLsb' 28 19).toNat (fun aw s =>
        postCopy { Copy.blank .linear 1 with dst := toWindow s dst, src := toWindow s src, rowBytes := len.toNat,
                                             rows := (v.extractLsb' 48 16).toNat + 1, dstride, sstride, aw } s) s) s

/-- A range of IDX or BUF lies in a unit of the issuing cluster (R356). -/
def inCluster (s : State) (va : Word) : Option OnChip :=
  match onChip s (toWindow s va) with
  | none => none
  | some u => if u.pkg = s.package.toNat && u.cluster = clusterOf s.cur.1 then some u else none

/-- CGATHER and CSCATTER (R259, R260, R356). -/
def indirectCopy (kind : CopyKind) (fn : Nat) (a : Reg) : State → Result :=
  withDesc a fun va w s =>
    let base := w.getD 0 0
    let idx := w.getD 1 0
    let buf := w.getD 2 0
    let v := w.getD 3 0
    let lg := (v.extractLsb' 61 3).toNat
    let iw64 := v.getLsbD 60
    let isz := if iw64 then 8 else 4
    let esz := 8 * 2 ^ lg
    let count := (v.extractLsb' 0 32).toNat
    if 4 < lg || v.extractLsb' 32 8 ≠ 0 || (v.getLsbD 59 && kind = .scatter) then trap .bounds va 0 s
    else
      withAligned [base, buf] [] (some (idx, isz)) (fun s =>
        withArrival (v.getLsbD 59) buf (v.extractLsb' 40 19).toNat (fun aw s =>
          match inCluster s idx, inCluster s buf with
          | none, _ => notOnChip s idx
          | some _, none => notOnChip s buf
          | some u, some z =>
            if u.size < u.off + count * isz then trap .bounds idx 0 s
            else if z.size < z.off + count * esz then trap .bounds buf 0 s
            else
              postCopy { Copy.blank kind fn with dst := toWindow s buf, src := toWindow s base, idx := toWindow s idx,
                                                 esize := esz, iw64, count, aw } s) s) s

/-- CGATHER (R356). -/
def execCgather (a : Reg) : State → Result := indirectCopy .gather 2 a
/-- CSCATTER (R356). -/
def execCscatter (a : Reg) : State → Result := indirectCopy .scatter 3 a

/-! ### The engines (R261, R267, R353, R354) -/

/-- The agent of a copy's accesses. -/
def Copy.agent (x : Copy) : Agent := { core := x.core, realm := x.realm, super := x.super }

/-- A copy engine as a writer (Table 11-12). -/
def Copy.writer (x : Copy) : WriterId := { wkind := 2, wcore := 0xFFF, realm := some x.realm }

/-- Changes a posted copy. -/
def modCopy (s : State) (id : Nat) (f : Copy → Copy) : State :=
  s.modMem fun m => { m with copies := m.copies.map fun x => if x.id = id then f x else x }

/-- A copy has done all its writes. -/
def dropCopy (s : State) (id : Nat) : State := s.modMem fun m => { m with copies := m.copies.filter fun x => x.id ≠ id }

/-- A fault stops the copy; its batch is marked faulted with the first fault, and a context that sleeps in CWAIT looks again
(R261, R263). A gather or scatter is to begin its chunk again (R267). A copy whose context has ended discards it (R264). -/
def copyFault (s : State) (x : Copy) (cause : Cause) (addr : Word) : State :=
  let f : CopyFault := { cause, addr, fn := x.fn }
  if x.orphan then dropCopy s x.id
  else
    (modCopy s x.id fun y =>
        { y with fault := some f, got := if y.kind = .linear then y.got else [] }).modCtxAt x.core x.slot fun y =>
      match x.batch with
      | none => { y with openFault := y.openFault.orElse fun _ => some f }
      | some n =>
        { y with
          batches := y.batches.map fun (b : Batch) =>
            if b.num = n then { b with fault := b.fault.orElse fun _ => some f } else b }

/-- A place in another package or in host memory: poison may not be copied there (R278). -/
def Place.exported : Place → Bool
  | .other _ _ _ | .host _ _ _ => true
  | _ => false

/-- Reads a source word at its home; a word of another package and its tag are free values (log 10). -/
def copyRead (s : State) (p : Place) : (Word × Bool) × State :=
  match p with
  | .other _ a _ => (s.foreign a, s.drawn)
  | _ => (readMerged s p 8, s.merged p)

/-- Writes a destination word, counted in the copy's arrival word (R261, R211). -/
def copyWrite (s : State) (x : Copy) (q : Place) (v : Word) (p : Bool) : State :=
  let s := writeHome s q 8 v p x.writer
  match x.aw with
  | some k => arriveAt s k 8 p x.writer
  | none => s

/-- The address lies in row r of the destination. -/
def Copy.inRow (x : Copy) (r : Nat) (a : Word) : Bool := (a - x.dst - BitVec.ofNat 64 r * x.dstride).toNat < x.rowBytes

/-- The words of a row. -/
def Copy.per (x : Copy) : Nat := x.rowBytes / 8

/-- The words of a linear copy. -/
def Copy.total (x : Copy) : Nat := x.rows * x.per

/-- Word i of a linear copy has been written. -/
def Copy.done (x : Copy) (i : Nat) : Bool := i < x.prog || x.ahead.contains i

/-- The source address of word i (R353, R354). -/
def Copy.srcOf (x : Copy) (i : Nat) : Word :=
  x.src + BitVec.ofNat 64 (i / x.per) * x.sstride + BitVec.ofNat 64 (8 * (i % x.per))

/-- The destination address of word i. -/
def Copy.dstOf (x : Copy) (i : Nat) : Word :=
  x.dst + BitVec.ofNat 64 (i / x.per) * x.dstride + BitVec.ofNat 64 (8 * (i % x.per))

/-- Another row has written the destination address of word i. -/
def Copy.rewritten (x : Copy) (i : Nat) : Bool :=
  (List.range x.rows).any fun r =>
    let a := x.dstOf i - x.dst - BitVec.ofNat 64 r * x.dstride
    r ≠ i / x.per && x.inRow r (x.dstOf i) && x.done (r * x.per + a.toNat / 8)

/-- A word of the destination line of word i has been written (R264). -/
def Copy.begun (x : Copy) (i : Nat) : Bool :=
  (List.range 31).any fun d =>
    let j := i + d - 15
    15 ≤ i + d && j ≠ i && j < x.total && x.done j && (x.dstOf j).toNat / 128 == (x.dstOf i).toNat / 128

/-- Word i of a linear copy is still to be written, and its engine may do so: a stopped one ends the 128-byte destination lines
that it has begun (R264). -/
def Copy.open (s : State) (x : Copy) (i : Nat) : Bool :=
  i < x.total && !x.done i && x.fault.isNone && (s.stop.phase = 0 || x.begun i)

/-- An engine's access to a place is not possible now: the port to another package does not take it (R81). -/
def heldAt (s : State) (x : Copy) (p : Resolved) : Bool :=
  match p with
  | .ok q => s.linkHolds x.core q
  | .miss | .busy => true
  | .bad _ => false

/-- The walk of an address that an engine translates, then where it leads. -/
def copyPlace (s : State) (x : Copy) (a : Word) (need : Need) : Resolved × State :=
  let p := resolve s x.agent a 8 need true true
  (if heldAt s x p then .busy else p, noteWalk s x.agent a)

/-- The address at which a range that starts at `first` faults when the word at `a` does: where the range has run off the
end of its unit, the first word beyond it (R353, R354). -/
def faultWord (first a : Word) : Word :=
  let size := if a.extractLsb' 24 5 = 16#5 then 0x800000 else 0x80000
  let off := (a.extractLsb' 0 24).toNat
  let edge := a - BitVec.ofNat 64 (off - size)
  if !inWindow a || off < size then a else if edge.toNat < first.toNat then first else edge

/-- The engine reads source word i. A word that lies within the destination is a free value (R261). -/
def copyReadWord (s : State) (x : Copy) (i : Nat) : State :=
  let a := x.srcOf i
  match copyPlace s x a needRead with
  | (.bad c, s) => copyFault s x c (faultWord (x.srcOf (i / x.per * x.per)) a)
  | (.ok p, s) =>
    match foreignCause s p with
    | some c => copyFault (drawnFor s p) x c a
    | none =>
      let inDst := (List.range x.rows).any fun r => x.inRow r a
      let rd := if inDst then ((s.freeVal, false), s.drawn) else copyRead (drawnFor s p) p
      modCopy rd.2 x.id fun y => { y with got := fset y.got none i (some rd.1) }
  | (.miss, _) | (.busy, _) => s

/-- Word i of a linear copy is done; the last one ends the copy. -/
def Copy.ended (x : Copy) (i : Nat) : Copy :=
  let ahead := nput x.ahead i
  let run := ((List.range (ahead.length + 1)).map (x.prog + ·)).takeWhile ahead.contains
  { x with prog := x.prog + run.length, ahead := ahead.filter fun j => x.prog + run.length ≤ j, got := fset x.got none i none }

/-- The engine writes destination word i, which it has read. Of rows that overlap in the destination a free value picks the row
whose word stays (R354). -/
def copyWriteWord (s : State) (x : Copy) (i : Nat) : State :=
  let a := x.dstOf i
  match fget x.got none i with
  | none => s
  | some v =>
    match copyPlace s x a needWrite with
    | (.bad c, s) => copyFault s x c (faultWord (x.dstOf (i / x.per * x.per)) a)
    | (.ok q, s) =>
      match foreignCause s q with
      | some c => copyFault (drawnFor s q) x c a
      | none =>
        let s := drawnFor s q
        if v.2 && q.exported then copyFault s x .poison a
        else
          let again := x.rewritten i
          let old := readHome s q 8
          let w := if again && s.freeVal.getLsbD 0 then old else v
          let s := copyWrite (if again then s.drawn else s) x q w.1 w.2
          let y := x.ended i
          if x.total ≤ y.prog then dropCopy s x.id else modCopy s x.id fun _ => y
    | (.miss, _) | (.busy, _) => s

/-- A posted copy by its number. -/
def Mem.copy? (m : Mem) (id : Nat) : Option Copy := m.copies.find? fun x => x.id == id

/-- The word that an engine in ascending order does next. -/
def Copy.next? (s : State) (x : Copy) : Option Nat :=
  if x.open s x.prog then some x.prog
  else if s.stop.phase = 0 then none
  else ((x.prog :: x.ahead).flatMap fun j => (List.range 31).map fun d => j + d - 15).find? (x.open s)

/-- Performs at most n words of a copy, each read and then written. -/
def copyRun : Nat → Nat → State → State
  | 0, _, s => s
  | n + 1, id, s =>
    match s.mem.copy? id with
    | none => s
    | some x =>
      if x.kind ≠ .linear || x.fault.isSome then s
      else if x.total = 0 then dropCopy s id
      else
        match x.next? s with
        | none => s
        | some i =>
          let s := if (fget x.got none i).isSome then s else copyReadWord s x i
          match s.mem.copy? id with
          | none => s
          | some y => copyRun n id (if y.fault.isSome then s else copyWriteWord s y i)

/-- A move of the engine of a linear copy: words in ascending order, or one word read or written at any time (R209). -/
def copyMove (s : State) (x : Copy) (m : CopyMove) : State :=
  match m with
  | .run n => copyRun n x.id s
  | .read i => if x.kind = .linear && x.open s i && (fget x.got none i).isNone then copyReadWord s x i else s
  | .write i => if x.kind = .linear && x.open s i then copyWriteWord s x i else s

/-- COPY_EXECUTE: the engine performs words of a posted copy (R209, R261). -/
def execCopyExecute (id : Nat) (m : CopyMove) (s : State) : Result :=
  .next (match s.mem.copy? id with
    | none => s
    | some x => copyMove s x m)

/-- The first address of a list that fails its checks, or the places of all; the last case waits for a bank or a port. -/
def resolveAll (s : State) (x : Copy) (size : Nat) (need : Need) : List Word → Option (Cause × Word) ⊕ List Place
  | [] => .inr []
  | a :: rest =>
    let r := resolve s x.agent a size need true true
    if heldAt s x r then .inl none
    else
      match r with
      | .bad c => .inl (some (c, a))
      | .miss | .busy => .inl none
      | .ok p =>
        match foreignCause s p with
        | some c => .inl (some (c, a))
        | none =>
          match resolveAll s x size need rest with
          | .inl e => .inl e
          | .inr l => .inr (p :: l)

/-- The 64-bit words of elements of n bytes at the listed addresses. -/
def elementWords (n : Nat) (l : List Word) : List Word :=
  l.flatMap fun a => (List.range (n / 8)).map fun i => a + BitVec.ofNat 64 (8 * i)

/-- Bytes of an index. -/
def Copy.isz (x : Copy) : Nat := if x.iw64 then 8 else 4

/-- The entries of the chunk that the engine works on (R267). -/
def Copy.entries (x : Copy) : List Nat := ((List.range 64).map (64 * x.prog + ·)).filter (· < x.count)

/-- The address of entry j's index. -/
def Copy.indexAt (x : Copy) (j : Nat) : Word := x.idx + BitVec.ofNat 64 (j * x.isz)

/-- Index i of the chunk as it has been read, and source word i of it: `got` holds the indices first. -/
def Copy.index? (x : Copy) (i : Nat) : Option (Word × Bool) := fget x.got none i
/-- Source word i of the chunk as it has been read. -/
def Copy.word? (x : Copy) (i : Nat) : Option (Word × Bool) := fget x.got none (64 + i)

/-- The addresses of the chunk's elements, by the indices read. -/
def Copy.elements (x : Copy) : List Word :=
  (List.range x.entries.length).map fun i =>
    x.src + extendBytes ((x.index? i).getD (0, false)).1 x.isz true * BitVec.ofNat 64 x.esize

/-- The addresses of the chunk's buffer entries. -/
def Copy.buffers (x : Copy) : List Word := x.entries.map fun j => x.dst + BitVec.ofNat 64 (j * x.esize)

/-- The words that the chunk reads: a gather's from its elements, a scatter's from the buffer. -/
def Copy.sources (x : Copy) : List Word := elementWords x.esize (if x.kind = .gather then x.elements else x.buffers)

/-- The words that the chunk writes, in its order. -/
def Copy.targets (x : Copy) : List Word := elementWords x.esize (if x.kind = .gather then x.buffers else x.elements)

/-- Every index of the chunk has been read. -/
def Copy.indexed (x : Copy) : Bool := (List.range x.entries.length).all fun i => (x.index? i).isSome

/-- The engine reads a word of n bytes at an address into `got` (R209): the first failing check faults the copy. -/
def chunkRead (s : State) (x : Copy) (i n : Nat) (a : Word) : State :=
  let s' := noteWalk s x.agent a
  match resolveAll s x n needRead [a] with
  | .inl none => s
  | .inl (some (c, a)) => copyFault s'.drawn x c a
  | .inr l =>
    let p := l.headD (.device 0)
    let v := match p with
      | .other _ b _ => (s'.foreign b, s'.drawn)
      | _ => (readMerged s' p n, s'.merged p)
    modCopy v.2 x.id fun y => { y with got := fset y.got none i (some v.1) }

/-- The read that the chunk makes next, or the one asked for: an index, and once all are read a source word; its place in
`got`, its size and its address. -/
def Copy.chunkNext (x : Copy) (only : Option Nat) : Option (Nat × Nat × Word) :=
  let ok (i : Nat) : Bool := (fget x.got none i).isNone && (only.isNone || only = some i)
  if !x.indexed then
    ((List.range x.entries.length).find? ok).map fun i => (i, x.isz, x.indexAt (64 * x.prog + i))
  else
    ((List.range x.sources.length).find? fun i => ok (64 + i)).map fun i => (64 + i, 8, x.sources.getD i 0)

/-- Every word of the chunk has been read: every address it writes is checked, and the writes it is to make stand in
`pending`. Of the entries of a scatter that name one element the last is written (R267). -/
def chunkReady (s : State) (x : Copy) : State :=
  let ds := x.targets
  let noted := ds.foldl (fun s a => noteWalk s x.agent a) s
  match resolveAll s x 8 needWrite ds with
  | .inl none => s
  | .inl (some (c, a)) => copyFault noted.drawn x c a
  | .inr ps =>
    let work := (ds.zip ps).zip ((List.range ds.length).map fun i => (x.word? i).getD (0, false))
    match work.find? fun q => q.2.2 && q.1.2.exported with
    | some q => copyFault noted x .poison q.1.1
    | none =>
      let last (i : Nat) : Bool := x.kind = .gather || !((x.elements.drop (i + 1)).contains (x.elements.getD i 0))
      let ws := (work.zipIdx.filter fun q => last (q.2 / (x.esize / 8))).map fun q => (q.1.1.2, q.1.2.1, q.1.2.2)
      modCopy noted x.id fun y => { y with pending := ws, ahead := [], got := [] }

/-- One read of the chunk, the one asked for or the next in order; a poisoned index faults the copy (R261), and after the
last read the writes are made ready. -/
def chunkStep (s : State) (x : Copy) (only : Option Nat) : State :=
  let poisoned := (List.range x.entries.length).find? fun i => ((x.index? i).getD (0, false)).2
  match x.indexed, poisoned with
  | true, some i => copyFault s x .poison (x.indexAt (64 * x.prog + i))
  | _, _ =>
    match x.chunkNext only with
    | some (i, n, a) => chunkRead s x i n a
    | none => if x.indexed && (x.chunkNext none).isNone then chunkReady s x else s

/-- Opens the next chunk of a gather or scatter (R267): its indices and then every source word are read and every address is
checked, at most n reads. -/
def openChunk : Nat → Nat → State → State
  | 0, _, s => s
  | n + 1, id, s =>
    match s.mem.copy? id with
    | none => s
    | some x => if x.fault.isSome || !x.pending.isEmpty then s else openChunk n id (chunkStep s x none)

/-- The 128-byte line of a place, by a number. -/
def Place.lineOf : Place → Nat
  | .sram c o _ => keySram c o / 128
  | .scratch n o _ => keyScratch n o / 128
  | .global o _ _ | .host o _ _ => o / 128
  | .device o => 2 ^ 56 + o / 128
  | .fifo n b _ => 2 ^ 57 + 16 * n + b
  | .other _ a _ => 2 ^ 58 + a / 128

/-- A write whose place has been resolved waits: its bank is switching (R178), or the port to its package does not take it
(R81). -/
def writeHeld (s : State) (core : Nat) : Place → Bool
  | .scratch n o _ => (s.bank n (o / 0x80000)).busy
  | p => s.linkHolds core p

/-- Write j of the chunk may be made: its place takes it, and a stopped engine ends the destination lines it has begun
(R264). -/
def Copy.mayWrite (s : State) (x : Copy) (j : Nat) : Bool :=
  match x.pending[j]? with
  | none => false
  | some w => !writeHeld s x.core w.1 && (s.stop.phase = 0 || x.ahead.contains w.1.lineOf)

/-- Makes write j of the chunk; after its last one the chunk is done, and after the last chunk the copy. -/
def chunkWrite (s : State) (x : Copy) (j : Nat) : State :=
  match takeAt x.pending j with
  | none => s
  | some (w, rest) =>
    let s := copyWrite s x w.1 w.2.1 w.2.2
    if rest ≠ [] then modCopy s x.id fun y => { y with pending := rest, ahead := nput y.ahead w.1.lineOf }
    else if x.count ≤ 64 * (x.prog + 1) then dropCopy s x.id
    else modCopy s x.id fun y => { y with pending := [], ahead := [], prog := y.prog + 1 }

/-- Makes every write of the chunk that its engine may make, the first listed first; at most n. -/
def chunkWrites : Nat → Nat → State → State
  | 0, _, s => s
  | n + 1, id, s =>
    match s.mem.copy? id with
    | none => s
    | some x =>
      match (List.range x.pending.length).find? (x.mayWrite s) with
      | none => s
      | some j => chunkWrites n id (chunkWrite s x j)

/-- INDIRECT_COPY_CHUNK: the indirect copy engine opens the next chunk of 64 entries and makes its writes (R267), or makes
only one of the chunk's reads or writes (R209). -/
def execIndirectCopyChunk (copy : Piece) (s : State) : Result :=
  let id := copy.work
  .next (match s.mem.copy? id with
    | none => s
    | some x =>
      if x.fault.isSome || x.kind = .linear then s
      else if x.count = 0 then dropCopy s id
      else
        match copy.only with
        | some j =>
          if !x.pending.isEmpty then (if x.mayWrite s j then chunkWrite s x j else s)
          else if s.stop.phase = 0 then chunkStep s x (some j)
          else s
        | none =>
          let s := if s.stop.phase = 0 then openChunk (65 + 64 * (x.esize / 8)) id s else s
          match s.mem.copy? id with
          | none => s
          | some x => chunkWrites x.pending.length id s)

/-- A stopped engine has still to end a 128-byte destination line that it has begun (R264, R282). -/
def copyMidLine (s : State) (x : Copy) : Bool :=
  x.fault.isNone &&
    (match x.kind with
     | .linear => (x.next? s).isSome
     | .gather | .scatter => (List.range x.pending.length).any (x.mayWrite s))

/-! ### Batches (R262 to R264, R359, R364) -/

/-- The copy belongs to the task of context k of core c. -/
def Copy.by (x : Copy) (c k : Nat) (gen : BitVec 8) : Bool := x.core == c && x.slot == k && x.gen == gen && !x.orphan

/-- The number after a batch's: 0 is skipped (R262). -/
def nextBatch (n : BitVec 16) : BitVec 16 := if n + 1 = 0 then 1 else n + 1

/-- Seals the open batch of context k of core c (R262). -/
def sealBatch (s : State) (c k : Nat) : State :=
  let x := s.ctxAt c k
  let n := nextBatch x.cseq
  let s := s.modMem fun m =>
    { m with copies := m.copies.map fun (y : Copy) =>
        if y.by c k x.gen && y.batch = none then { y with batch := some n } else y }
  s.modCtxAt c k fun x =>
    { x with cseq := n, openN := 0, openFault := none, batches := x.batches ++ [{ num := n, fault := x.openFault }] }


/-- CSEAL (R359): with 16 batches unfinished it waits. -/
def execCseal (d : Reg) : State → Result :=
  unlessLocked [d] [] fun s =>
    if 16 ≤ s.ctx.batches.length then sleep .cseal s.ctx.oldestBatch s
    else
      let s := sealBatch s s.cur.1 s.cur.2
      .next (s.modCtx fun x => (x.setReg d (x.cseq.setWidth 64) false).advance)

/-- The sealed batches that have faulted. -/
def Ctx.faulted (x : Ctx) : Nat := (x.batches.filter fun (b : Batch) => b.fault.isSome).length

/-- The issuing context sleeps in its instruction, having seen n faulted batches (R364). -/
def sleepMark (kind : WaitKind) (val : Word) (n : Nat) (s : State) : Result :=
  .next (s.modCtx fun x =>
    let x := x.startWait kind val
    { x with wait := x.wait.map fun (w : Wait) => { w with mark := n } })

/-- The batches from the oldest faulted one to the newest. -/
def fromFaulted : List Batch → List Batch
  | [] => []
  | b :: rest => if b.fault.isSome then b :: rest else fromFaulted rest

/-- The wait of CWAIT n, then f (R364): the oldest faulted batch's fault is raised where more than n batches from it on are
sealed. -/
def withBatches (n : Nat) (f : State → Result) (s : State) : Result :=
  let wait : Result :=
    if s.ctx.batches.length ≤ n then f s
    else sleepMark .cwait s.ctx.oldestBatch s.ctx.faulted s
  match fromFaulted s.ctx.batches with
  | [] => wait
  | b :: rest =>
    match b.fault with
    | some e =>
      if n < rest.length + 1 then
        trap e.cause e.addr ((b.num.setWidth 64) ||| BitVec.ofNat 64 (e.fn * 2 ^ 16))
          (s.modCtx fun x => { x with copyFaulted := some b.num })
      else wait
    | none => wait

/-- CWAIT (R364): an acquire of the finished batches' writes (R209). -/
def execCwait (a : Reg) : State → Result :=
  unlessLocked [] [a] fun s =>
    withClean [(a, 4)] (fun s =>
      withBatches (min (s.ctx.reg a).toNat 16) (fun s => .next ((acquire s .package).modCtx Ctx.advance)) s) s

/-- ENDT and TDONE seal a batch that is not empty and then wait as CWAIT 0 does (R264, R368). With 16 batches unfinished the
seal waits for one of them, as CWAIT 0 does and raising their faults (R359). -/
def withCopiesDone (f : State → Result) (s : State) : Result :=
  if s.ctx.openN = 0 || 16 ≤ s.ctx.batches.length then withBatches 0 f s
  else withBatches 0 f (sealBatch s s.cur.1 s.cur.2)

/-- BATCH_FINISH: the oldest sealed batch has no copy left and is not faulted (R262). -/
def execBatchFinish (core : BitVec 13) (slot : BitVec 3) (s : State) : Result :=
  let c := core.toNat
  let k := slot.toNat
  let x := s.ctxAt c k
  match x.batches with
  | [] => .next s
  | b :: rest =>
    if b.fault.isSome || s.mem.copies.any (fun y => y.by c k x.gen && y.batch = some b.num) then .next s
    else .next (s.modCtxAt c k fun x => { x with batches := rest })

/-- ERET after a fault raised by CWAIT, ENDT or TDONE resumes every faulted copy of that batch (R263). -/
def resumeBatch (s : State) (c k : Nat) : State :=
  let x := s.ctxAt c k
  match x.copyFaulted with
  | none => s
  | some n =>
    let s := s.modMem fun m =>
      { m with copies := m.copies.map fun (y : Copy) =>
          if y.by c k x.gen && y.batch = some n then { y with fault := none } else y }
    s.modCtxAt c k fun x =>
      { x with copyFaulted := none
               batches := x.batches.map fun (b : Batch) => if b.num = n then { b with fault := none } else b }

/-- TKILL and NFAIL leave the copies running; faults in them are discarded (R264). -/
def orphanCopies (s : State) (c k : Nat) : State :=
  let x := s.ctxAt c k
  s.modMem fun m =>
    { m with copies := (m.copies.filter fun y => !(y.by c k x.gen && y.fault.isSome)).map fun (y : Copy) =>
        if y.by c k x.gen then { y with orphan := true } else y }

/-! ### SYNCARM (R265) -/

/-- The arming as a watchpoint sees it: a write of the network interface, WKIND 7 (SYNCARM's entry in the instruction
reference). -/
def armWriter (s : State) : WriterId := { wkind := 7, wcore := s.cur.1, realm := some s.agent.realm, plain := false }

/-- SYNCARM's step at the word's SRAM. -/
def armAt (k : Nat) (target : Word) (lv : Bool) (l : BitVec 4) (w : WriterId) (s : State) : State :=
  let w1 := s.mem.load (k + 8) 8
  let s := writeArrival s k (target <<< 32) w
  let s := writeArrival s (k + 8)
    ((w1 &&& 0xFFFFFFFF00000000) ||| 0x80 ||| (if lv then 0x10 else 0) ||| l.setWidth 64) w
  s.modMem fun m => { m with armed := nput m.armed k }

/-- SYNCARM (R265). -/
def execSyncarm (a b : Reg) (lv : Bool) (l : BitVec 4) : State → Result :=
  unlessLocked [] [a, b] fun s =>
    withClean [(a, 1), (b, 4)] (fun s =>
      let va := s.ctx.reg a
      let t := s.ctx.reg b
      if inGlobal va || s.cur.1 = mgmtCore then trap .bounds va 0 s
      else
        match resolve s { s.agent with super := true } va 1 needWrite false false with
        | .bad c => trap c va 0 s
        | .miss | .busy => stall s
        | .ok p =>
          if t = 0 || t.extractLsb' 32 32 ≠ 0 then trap .bounds va 0 s
          else if va.toNat % 16 ≠ 0 then trap .align va 0 s
          else
            match resolve s s.agent va 1 needWrite false false, p with
            | .bad c, _ => trap c va 0 s
            | _, .other _ _ _ => remote va p 16 true t false (fun _ _ s => .next (s.modCtx Ctx.advance)) s
            | _, _ =>
              if !settled s p 16 then stall s
              else
                match p.key? s with
                | some k =>
                  .next ((armAt k t lv l (armWriter s) s).modCtx Ctx.advance)
                | none => trap .bounds va 0 s) s

end Sys2Proof.Machine
end

