-- ==== Sys2Proof/Machine/Walker.lean ====
section
/-!
DEFINITION. Meridian walkers (R110 to R138, R434, R435, R438): launch records and their check, the iteration space, walker
instances, permits and splits, footprint fetch and write-back, tile starts, faults, cancels, completion.
-/

namespace Sys2Proof.Machine

/-! ### The launch record (R110, R111) -/

/-- A word of a record. -/
def recWord (w : List Word) (i : Nat) : Word := w.getD i 0
/-- D, the number of dimensions. -/
def recDims (w : List Word) : Nat := ((recWord w 0).extractLsb' 0 2).toNat + 1
/-- ORDER. -/
def recOrder (w : List Word) : Nat := ((recWord w 0).extractLsb' 2 2).toNat
/-- NOPS. -/
def recOps (w : List Word) : Nat := ((recWord w 0).extractLsb' 4 3).toNat
/-- ENGINE. -/
def recEngine (w : List Word) : Bool := (recWord w 0).getLsbD 9
/-- PRIO. -/
def recPrio (w : List Word) : BitVec 2 := (recWord w 0).extractLsb' 10 2
/-- SETS. -/
def recSets (w : List Word) : Nat := ((recWord w 0).extractLsb' 16 4).toNat + 1
/-- IPERMIT. -/
def recIpermit (w : List Word) : Bool := (recWord w 0).getLsbD 20
/-- SETSTRIDE × 8: bytes between buffer sets. -/
def recSetStride (w : List Word) : Nat := 8 * ((recWord w 1).extractLsb' 48 16).toNat
/-- DONE. -/
def recDone (w : List Word) : Word := recWord w 2
/-- MINSPLIT. -/
def recMinSplit (w : List Word) : Nat := ((recWord w 3).extractLsb' 0 32).toNat
/-- EXTENT of dimension j; 1 from D on. -/
def recExtent (w : List Word) (j : Nat) : Nat := if j < recDims w then ((recWord w (4 + j)).extractLsb' 32 32).toNat else 1
/-- LEAD of dimension j. -/
def recLead (w : List Word) (j : Nat) : Nat := if j < recDims w then ((recWord w (4 + j)).extractLsb' 16 16).toNat else 0
/-- TILE of dimension j (R113). -/
def recTile (w : List Word) (j : Nat) : Nat := if j < recDims w then ((recWord w (4 + j)).extractLsb' 0 16).toNat + 1 else 1
/-- N of dimension j (R113). -/
def recN (w : List Word) (j : Nat) : Nat := (recExtent w j + recLead w j + recTile w j - 1) / recTile w j
/-- T, the number of tiles (R113). -/
def recTiles (w : List Word) : Nat := recN w 0 * recN w 1 * recN w 2 * recN w 3
/-- Bit n of CMASK. -/
def recMask (w : List Word) (n : Nat) : Bool := (recWord w (8 + n / 64)).getLsbD (n % 64)

/-- Word k of operand descriptor n. -/
def opWord (w : List Word) (n k : Nat) : Word := recWord w (16 + 4 * n + k)
/-- ROLE of an operand: 0 IN, 1 OUT, 2 INOUT. -/
def opRole (w : List Word) (n : Nat) : Nat := ((opWord w n 1).extractLsb' 62 2).toNat
/-- Bytes of an element. -/
def opSize (w : List Word) (n : Nat) : Nat := 2 ^ ((opWord w n 1).extractLsb' 59 2).toNat
/-- Operand dimension m is used. -/
def opUsed (w : List Word) (n m : Nat) : Bool := (opWord w n 1).getLsbD (44 + m)
/-- MAP[m]. -/
def opMap (w : List Word) (n m : Nat) : Nat := ((opWord w n 1).extractLsb' (48 + 2 * m) 2).toNat
/-- BOFF. -/
def opBoff (w : List Word) (n : Nat) : Nat := ((opWord w n 1).extractLsb' 0 19).toNat
/-- sext(VBASE). -/
def opBase (w : List Word) (n : Nat) : Word := ((opWord w n 0).extractLsb' 0 48).signExtend 64
/-- STRIDE m. -/
def opStride (w : List Word) (n m : Nat) : Int := ((opWord w n (2 + m / 2)).extractLsb' (32 * (m % 2)) 32).toInt
/-- F_m: the footprint's extent in operand dimension m (R121). -/
def opExtent (w : List Word) (n m : Nat) : Nat := if opUsed w n m then recTile w (opMap w n m) else 1
/-- F: elements of the footprint. -/
def opFootprint (w : List Word) (n : Nat) : Nat := opExtent w n 0 * opExtent w n 1 * opExtent w n 2 * opExtent w n 3

/-- A core's local SRAM is owned by the realm with RD and W (R120). -/
def ownedBy (s : State) (c : Nat) (realm : BitVec 12) : Bool := ownerGrants (fget s.mem.ownCore 0 c) realm needBoth

/-- The unit that a completion address names, of any package (R112). Which units of another package are usable is its own
affair (log 10). -/
def doneUnit (s : State) (a : Word) : Option OnChip :=
  let n := (a.extractLsb' 29 8).toNat
  let unit := (a.extractLsb' 24 5).toNat
  let off := (a.extractLsb' 0 24).toNat
  let pkg := (a.extractLsb' 37 10).toNat
  let away := pkg ≠ s.package.toNat
  if !inWindow a then none
  else if unit < 16 && off < 0x80000 && (if away then !isSliceRouter (n / 4) else s.usableCore (16 * n + unit)) then
    some { pkg, core := some (16 * n + unit), cluster := n, off }
  else if unit = 16 && off < 0x800000 && (if away then !isSliceRouter (n / 4) else s.usableCluster n) then
    some { pkg, core := none, cluster := n, off }
  else none

/-- The realm owns the unit; of a unit of another package that is free (log 10). -/
def ownsUnit (s : State) (u : OnChip) (realm : BitVec 12) : Bool :=
  if u.pkg ≠ s.package.toNat then (Config.foreignFault s.free (u.key u.off)).isNone
  else
    match u.core with
    | some c => ownedBy s c realm
    | none => ownerGrants (fget s.mem.ownCluster 0 u.cluster) realm needBoth

/-- DONE has the form that its launcher needs: the node's own id, or a completion address (R112). -/
def doneOk (s : State) (w : List Word) (realm : BitVec 12) (node : Option Nat) : Bool :=
  match node with
  | some n => recDone w == BitVec.ofNat 64 n
  | none =>
    match doneUnit s (recDone w) with
    | some u => (recDone w).toNat % 8 = 0 && ownsUnit s u realm
    | none => false

/-- The failing words of dimension j (R112). -/
def badDim (w : List Word) (j : Nat) : Bool :=
  if j < recDims w then
    recExtent w j = 0 || recTile w j ≤ recLead w j || 65536 < recN w j || (j = 0 && 2 ^ 32 ≤ recTiles w)
  else recWord w (4 + j) ≠ 0

/-- Word k of operand descriptor n fails (R111, R112). -/
def badOp (w : List Word) (n k : Nat) : Bool :=
  let x := opWord w n k
  if recOps w ≤ n then x ≠ 0
  else if k = 0 then
    x.extractLsb' 48 16 ≠ 0 || (opBase w n).toNat < 0x4000000 || (opBase w n).toNat % opSize w n ≠ 0
  else if k = 1 then
    opRole w n = 3 || (opRole w n = 1 && x.getLsbD 61) || x.extractLsb' 56 3 ≠ 0 || x.extractLsb' 19 25 ≠ 0 ||
      [0, 1, 2, 3].any (fun m => opUsed w n m && recDims w ≤ opMap w n m) || opBoff w n % opSize w n ≠ 0 ||
      0x7FE00 < opBoff w n + recSetStride w * (recSets w - 1) + opFootprint w n * opSize w n
  else [2 * (k - 2), 2 * (k - 2) + 1].any fun m => !opUsed w n m && opStride w n m ≠ 0

/-- Word i of the record fails (R112). -/
def badWord (s : State) (w : List Word) (realm : BitVec 12) (node : Option Nat) (i : Nat) : Bool :=
  let x := recWord w i
  if i = 0 then
    x.extractLsb' 48 16 ≠ 0x504C#16 || x.extractLsb' 40 8 ≠ 1#8 || x.extractLsb' 21 19 ≠ 0 || x.extractLsb' 12 4 ≠ 0 ||
      x.extractLsb' 7 2 ≠ 0 || 4 < recOps w
  else if i = 1 then x.extractLsb' 46 2 ≠ 0
  else if i = 2 then !doneOk s w realm node
  else if i = 3 then x.extractLsb' 32 32 = 0 || recMinSplit w = 0
  else if i < 8 then badDim w (i - 4)
  else if i < 12 then (List.range 64).any fun b => x.getLsbD b && !isCluster (64 * (i - 8) + b)
  else if i < 16 then false
  else badOp w ((i - 16) / 4) ((i - 16) % 4)

/-- The usable clusters that a record targets, in ascending order (R21). -/
def targets (s : State) (w : List Word) : List Nat := (List.range 256).filter fun n => recMask w n && s.usableCluster n

/-- The usable cores of a launch's target clusters that its realm owns (R120). -/
def ownedTargets (s : State) (w : List Word) (realm : BitVec 12) : List Nat :=
  ((targets s w).flatMap fun n => (List.range 16).map (16 * n + ·)).filter fun c => s.usableCore c && ownedBy s c realm

/-- What reading and checking a record finds (R112, R120, R129). -/
inductive Checked where
  | read
  | malformed (off : Nat)
  | noTarget
  | good (phys : Nat) (w : List Word)
  deriving DecidableEq, Repr

/-- The agent of a walker's accesses: the router's, in the launch's realm. An element that a negative stride takes below
0x0400_0000 lies in the private alias of some core, and the spec does not say whose: the router's core 64 × router (log 70). -/
def walkAgent (router : Nat) (realm : BitVec 12) : Agent := { core := 64 * router, realm, super := false }

/-- The place of a record's words, or none where one cannot be read or is poisoned. -/
def recordPlaces (s : State) (g : Agent) (va : Word) : Option (List Place) :=
  (List.range 32).mapM fun i =>
    match resolve s g (va + BitVec.ofNat 64 (8 * i)) 8 needRead true true with
    | .ok (.other pkg a w) => if (s.foreign a).2 then none else some (.other pkg a w)
    | .ok p => if (readHome s p 8).2 then none else some p
    | _ => none

/-- Some word of a record lies in another package that no port takes requests for now (R81): the record's read waits. -/
def recordHeld (s : State) (router : Nat) (realm : BitVec 12) (va : Word) : Bool :=
  let g := walkAgent router realm
  (List.range 32).any fun i =>
    match resolve s g (va + BitVec.ofNat 64 (8 * i)) 8 needRead true true with
    | .ok p => s.linkHolds g.core p
    | _ => false

/-- The physical address of a place in global memory. -/
def placePhys (s : State) : Place → Nat
  | .global o _ _ | .host o _ _ => (s.phys o).toNat
  | .other _ a _ => a
  | _ => 0

/-- The words at a list of places; those of another package are free values (log 10). -/
def wordsAt (s : State) (ps : List Place) : List Word :=
  ps.map fun p =>
    match p with
    | .other _ a _ => (s.foreign a).1
    | q => (readHome s q 8).1

/-- Reads and checks a launch record (R112, R120, R129, R149). -/
def checkRecord (s : State) (router : Nat) (realm : BitVec 12) (va : Word) (node : Option Nat) : Checked :=
  match recordPlaces s (walkAgent router realm) va with
  | none => .read
  | some ps =>
    let w := wordsAt s ps
    match (List.range 32).find? (badWord s w realm node) with
    | some i => .malformed (8 * i)
    | none =>
      if (ownedTargets s w realm).isEmpty then .noTarget else .good (placePhys s (ps.headD (.device 0))) w

/-! ### The traversal (R114) -/

/-- Digits of t over a list of extents, the first fastest. -/
def digits (t : Nat) : List Nat → List Nat
  | [] => []
  | n :: rest => t % n :: digits (t / n) rest

/-- Tiles of a dimension whose number has a given prefix p and m free low values. -/
def prefixCount (n p m : Nat) : Nat := min n (p + m) - p

/-- Bit b of dimension j of the t-th tile in Morton order: the tiles with a 0 there come first. The state is t and the
prefixes found so far; m is the free range of the dimensions after j and of those before it. -/
def mortonBit (w : List Word) (b j : Nat) (x : Nat × List Nat) : Nat × List Nat :=
  let cnt (i : Nat) : Nat := prefixCount (recN w i) (x.2.getD i 0) (if j ≤ i then 2 ^ b else 2 ^ (b + 1))
  let clear := cnt 0 * cnt 1 * cnt 2 * cnt 3
  if x.1 < clear then x else (x.1 - clear, x.2.set j (x.2.getD j 0 + 2 ^ b))

/-- The t-th tile in Morton order: the bits from the highest, dimension 3 before 0. -/
def morton (w : List Word) (t : Nat) : List Nat :=
  ((List.range 16).reverse.foldl (fun x b => [3, 2, 1, 0].foldl (fun x j => mortonBit w b j x) x) (t, [0, 0, 0, 0])).2

/-- The coordinates of tile t (R114). -/
def tileCoords (w : List Word) (t : Nat) : List Nat :=
  let u := digits t [recN w 0, recN w 1, recN w 2, recN w 3]
  let at_ (l : List Nat) (j : Nat) : Nat := l.getD j 0
  match recOrder w with
  | 0 => u
  | 1 =>
    let v := digits t [recN w 1, recN w 0, recN w 2, recN w 3]
    [at_ v 1, at_ v 0, at_ v 2, at_ v 3]
  | 2 => morton w t
  | _ =>
    let k3 := at_ u 3
    let k2 := if k3 % 2 = 1 then recN w 2 - 1 - at_ u 2 else at_ u 2
    let k1 := if (k2 + k3) % 2 = 1 then recN w 1 - 1 - at_ u 1 else at_ u 1
    let k0 := if (k1 + k2 + k3) % 2 = 1 then recN w 0 - 1 - at_ u 0 else at_ u 0
    [k0, k1, k2, k3]

/-! ### Tiles (R113, R121, R122) -/

/-- x_j of the tile's first offset. -/
def tileStart (w : List Word) (k : List Nat) (j : Nat) : Int := (k.getD j 0 * recTile w j : Nat) - (recLead w j : Nat)
/-- Lowest valid offset in dimension j. -/
def boxLow (w : List Word) (k : List Nat) (j : Nat) : Nat := (-(tileStart w k j)).toNat
/-- Highest valid offset in dimension j. -/
def boxHigh (w : List Word) (k : List Nat) (j : Nat) : Nat :=
  min (recTile w j - 1) ((recExtent w j : Int) - 1 - tileStart w k j).toNat
/-- The tile is clipped. -/
def clipped (w : List Word) (k : List Nat) : Bool :=
  [0, 1, 2, 3].any fun j => boxLow w k j ≠ 0 || boxHigh w k j ≠ recTile w j - 1

/-- A box flit: 16 bits per dimension (Table 5-4). -/
def boxFlit (w : List Word) (f : Nat → Nat) : Word :=
  BitVec.ofNat 64 ((List.range (recDims w)).foldl (fun a j => a + f j * 2 ^ (16 * j)) 0)

/-- All choices of one offset from each range; an unused dimension contributes 0. -/
def offsets : List (Bool × Nat × Nat) → List (List Nat)
  | [] => [[]]
  | (used, lo, hi) :: rest =>
    let tl := offsets rest
    if used then (List.range (hi + 1 - lo)).flatMap fun i => tl.map ((lo + i) :: ·) else tl.map (0 :: ·)

/-- The elements of the valid box of operand n of a tile: buffer offset in set s, and address (R121, R122). Of two operand
dimensions along one iteration dimension both coordinates are that dimension's x, so only elements with equal offsets in both
are in a tile's box (log 70). -/
def elements (w : List Word) (k : List Nat) (set n : Nat) : List (Nat × Word) :=
  let dims := [0, 1, 2, 3].map fun j =>
    ([0, 1, 2, 3].any fun m => opUsed w n m && opMap w n m == j, boxLow w k j, boxHigh w k j)
  (offsets dims).map fun r =>
    let b (m : Nat) : Nat := if opUsed w n m then r.getD (opMap w n m) 0 else 0
    let e (m : Nat) : Int := if opUsed w n m then tileStart w k (opMap w n m) + (b m : Nat) else 0
    let idx := b 0 + opExtent w n 0 * (b 1 + opExtent w n 1 * (b 2 + opExtent w n 2 * b 3))
    let o : Int := (e 0 * opStride w n 0 + e 1 * opStride w n 1 + e 2 * opStride w n 2 + e 3 * opStride w n 3) * opSize w n
    (opBoff w n + recSetStride w * set + idx * opSize w n, opBase w n + BitVec.ofInt 64 o)

/-- Operands that a fetch reads (IN, INOUT) or a write-back writes (OUT, INOUT). -/
def movesOp (w : List Word) (wb : Bool) (n : Nat) : Bool := if wb then opRole w n ≠ 0 else opRole w n ≠ 1

/-- The moves of a tile's fetch or write-back: operand, size, buffer offset, address. -/
def tileMoves (w : List Word) (t set : Nat) (wb : Bool) : List (Nat × Nat × Nat × Word) :=
  let k := tileCoords w t
  ((List.range (recOps w)).filter (movesOp w wb)).flatMap fun n =>
    (elements w k set n).map fun e => (n, opSize w n, e.1, e.2)

/-- REASON of a failed check (Table 5-10). -/
def walkReason (s : State) (va : Word) (c : Cause) : Nat :=
  match c with
  | .page => 1
  | .prot => 2
  | _ =>
    let unit := (va.extractLsb' 24 5).toNat
    if inGlobal va then 4
    else if inWindow va && (va.extractLsb' 37 10).toNat ≠ s.package.toNat &&
        !(isSliceRouter ((va.extractLsb' 29 8).toNat / 4) || 16 < unit ||
          (unit < 16 && 0x80000 ≤ (va.extractLsb' 0 24).toNat) || (unit = 16 && 0x800000 ≤ (va.extractLsb' 0 24).toNat))
    then 4
    else 3

/-- What the checks of a tile's moves find: the places in order, a fault (REASON, operand, address), or a wait. -/
inductive Moves where
  | places (l : List (Nat × Nat × Place))
  | fault (reason oper : Nat) (addr : Word)
  | wait
  deriving DecidableEq, Repr

/-- Checks the moves: size, buffer offset and place of each. -/
def resolveMoves (s : State) (g : Agent) (wb : Bool) : List (Nat × Nat × Nat × Word) → Moves
  | [] => .places []
  | (n, z, b, va) :: rest =>
    match resolve s g va z (if wb then needWrite else needRead) true true with
    | .bad c => .fault (walkReason s va c) n va
    | .miss | .busy => .wait
    | .ok p =>
      if s.linkHolds g.core p then .wait
      else
        match foreignCause s p with
        | some .prot => .fault 2 n va
        | some _ => .fault 4 n va
        | none =>
          match resolveMoves s g wb rest with
          | .places l => .places ((z, b, p) :: l)
          | r => r

/-- A walker as a writer (Table 11-12). -/
def walkWriter (realm : BitVec 12) : WriterId := { wkind := 3, wcore := 0xFFF, realm := some realm }

/-- Reads the element of a fetch at its home. -/
def fetchRead (s : State) (m : Nat × Nat × Place) : (Word × Bool) × State :=
  match m.2.2 with
  | .other _ a _ => (s.foreign a, s.drawn)
  | p => (readMerged s p m.1, s.merged p)

/-- Writes an element that a fetch has read into its buffer, poison with data (R124); `open_` makes its contents a free
value. -/
def fetchMove (s : State) (c : Nat) (realm : BitVec 12) (open_ : Bool) (m : Nat × Nat × Place) (v : Word × Bool) : State :=
  if open_ then writeSram s.drawn c m.2.1 m.1 s.freeVal v.2 (walkWriter realm)
  else writeSram s c m.2.1 m.1 v.1 v.2 (walkWriter realm)

/-- Bytes a to a + n - 1 of the buffers lie in two operands' buffers, or in those of two sets (R112): their contents are
undefined. -/
def bufferOverlap (w : List Word) (a n : Nat) : Bool :=
  let bufs := (List.range (recSets w)).flatMap fun set => (List.range (recOps w)).filter fun k =>
    let o := opBoff w k + recSetStride w * set
    a < o + opFootprint w k * opSize w k && o < a + n
  1 < bufs.length

/-- The unit of a DEFERRED record for poison that leaves the package (R279). -/
def exportUnit (s : State) (router : Nat) (p : Place) : Nat :=
  match p with
  | .other pkg _ _ => (fget (s.router router).domainPorts 0 pkg).toNat % 16
  | _ => 0x10

/-- The number of a place's first byte, for the comparison of footprints. -/
def Place.number (s : State) (p : Place) : Nat :=
  match p with
  | .other _ a _ => 2 ^ 70 + a
  | .device o => 2 ^ 69 + o
  | .fifo n b _ => 2 ^ 68 + 16 * n + b
  | _ => (p.key? s).getD 0

/-- Another tile of the launch has written some of the bytes: their value is undefined (R125). -/
def outOverlap (s : State) (root : BitVec 16) (part : BitVec 16) (tile k n : Nat) : Bool :=
  (fget s.launchOuts [] root.toNat).any fun o =>
    !(o.1 == part && o.2.1 == tile) && k < o.2.2.1 + o.2.2.2 && o.2.2.1 < k + n

/-- Reads the element of a write-back in its buffer. -/
def backRead (s : State) (c : Nat) (m : Nat × Nat × Place) : Word × Bool :=
  (s.mem.load (keySram c m.2.1) m.1, s.mem.psn (keySram c m.2.1))

/-- Writes one element of a tile's buffers back, poison with data, with a record where poison leaves the package (R124,
R278): its address is that of the word written. -/
def backMove (s : State) (router : Nat) (realm : BitVec 12) (root part : BitVec 16) (tile : Nat) (m : Nat × Nat × Place)
    (x : Word × Bool) : State :=
  let p := x.2
  let key := m.2.2.number s
  let open_ := outOverlap s root part tile key m.1
  let v := if open_ then s.freeVal else x.1
  let s := writeHome (if open_ then s.drawn else s) m.2.2 m.1 v p (walkWriter realm)
  let s := { s with launchOuts := fset s.launchOuts [] root.toNat (fget s.launchOuts [] root.toNat ++
    [(part, tile, key, m.1)]) }
  if p && m.2.2.exported then exportRecord s (exportUnit s router m.2.2) (m.2.2.source s).addr else s

/-! ### Instances (R116, R117) -/

/-- The router of a walker slot's number. -/
def walkRouter (n : Nat) : Nat := n / 4
/-- The instance word of a slot with a generation (R116). -/
def instWord (n : Nat) (gen : BitVec 8) : BitVec 16 := gen ++ BitVec.ofNat 8 n
/-- The instance word of what a slot holds. -/
def State.inst (s : State) (n : Nat) : BitVec 16 := instWord n (s.walker n).sgen

/-- The lowest free walker slot of a router; slice routers have none (R116). -/
def freeWalker (s : State) (r : Nat) : Option Nat :=
  if isSliceRouter r then none else [4 * r, 4 * r + 1, 4 * r + 2, 4 * r + 3].find? fun n => (s.walker n).state = .free

/-- The slot that a root takes: at the router of its lowest target cluster that has one free (R116). -/
def placeRoot (s : State) (w : List Word) : Option Nat := (targets s w).findSome? fun n => freeWalker s (n / 4)

/-- A launch takes slot n in LOAD (R117). -/
def takeWalker (s : State) (n : Nat) (realm : BitVec 12) (va : Word) (phys : Nat) (node : Option Nat)
    (asker : Option (Nat × Nat × BitVec 8 × Nat)) : State :=
  s.modWalker n fun w =>
    { sgen := w.sgen + 1, state := .load, realm, record := va, phys, node, asker, root := instWord n (w.sgen + 1) }

/-- A refusal (R128). -/
def refusal (reason low : Nat) : Word := BitVec.ofNat 64 (2 ^ 63 + reason * 2 ^ 56 + low)

/-- Sends an answer to the context that made a request. -/
def answerTo (s : State) (core slot : Nat) (gen : BitVec 8) (d : Nat) (v : Word) : State :=
  { s with answers := s.answers ++ [{ core, slot, gen, d, val := v }] }

/-- The router that a request of a core reaches first. -/
def homeRouter (core : Nat) : Nat := routerOf core

/-- Request i may be served before the others of its kind: of those sent in one cycle the lowest core's goes first (R131, R434,
R435). -/
def firstRequest (s : State) (i : Nat) : Bool :=
  match s.wreqs[i]? with
  | none => false
  | some q => s.wreqs.all fun r => r.fn ≠ q.fn || r.time ≠ q.time || q.core ≤ r.core

/-- A request to launch can be served: its router serves one in a cycle (R434), and its record's read is not held (R81). -/
def launchDue (s : State) (q : WReq) : Bool :=
  (s.router (homeRouter q.core)).launchCycle ≠ some s.cycle.toNat && !recordHeld s (homeRouter q.core) q.realm q.opA

/-- The request's router has served one in this cycle. -/
def launchServed (s : State) (q : WReq) : State :=
  s.modRouter (homeRouter q.core) fun x => { x with launchCycle := some s.cycle.toNat }

/-- LAUNCH_REQUEST: the router reads and checks the record and places the root, which then loads, or it answers a refusal
(R129, R434). -/
def execLaunchRequest (i : Nat) (s : State) : Result :=
  match takeAt s.wreqs i with
  | none => .next s
  | some (q, rest) =>
    if s.stop.phase ≠ 0 || q.fn ≠ 0 || !firstRequest s i || !launchDue s q then .next s
    else
      let t : State := noteWalk (launchServed { s with wreqs := rest } q) (walkAgent (homeRouter q.core) q.realm) q.opA
      let ans (v : Word) : Result := .next (answerTo t q.core q.slot q.gen q.d v)
      match checkRecord t (homeRouter q.core) q.realm q.opA none with
      | .read => ans (refusal 11 0)
      | .malformed o => ans (refusal 9 o)
      | .noTarget => ans (refusal 10 0)
      | .good phys w =>
        match placeRoot t w with
        | none => ans (refusal 2 0)
        | some n => .next (takeWalker t n q.realm q.opA phys none (some (q.core, q.slot, q.gen, q.d)))

/-- The permits that IPERMIT grants: sets 0 to SETS - 1 of every owned core (R118, R120). -/
def initialPermits (s : State) (w : List Word) (realm : BitVec 12) : FMap (BitVec 16) :=
  (ownedTargets s w realm).foldl (fun m c => fset m 0 c (BitVec.ofNat 16 (2 ^ recSets w - 1))) []

/-- The answer of a load goes to the context that asked, or a refusal of a node's launch to its node (R129, R150). -/
def loadAnswer (s : State) (w : Walker) (v : Word) : State :=
  match w.asker, w.node with
  | some (c, k, g, d), _ => answerTo s c k g d v
  | none, some n =>
    if v.getLsbD 63 then { s with eph := { s.eph with faults := s.eph.faults ++ [(n, 2, 0)] } } else s
  | none, none => s

/-- WALKER_LOAD_DONE: LOAD has read the record again: the instance enters RUN and answers, or the slot frees and answers
the refusal (R117, R129). -/
def execWalkerLoadDone (inst : BitVec 16) (s : State) : Result :=
  let n := walkerOf inst
  let w := s.walker n
  if !s.holds inst || w.state ≠ .load || w.frozen || recordHeld s (walkRouter n) w.realm w.record then .next s
  else
    let fail (v : Word) : Result :=
      .next (loadAnswer (s.modWalker n fun w => { sgen := w.sgen }) w v)
    match checkRecord s (walkRouter n) w.realm w.record w.node with
    | .read => fail (refusal 11 0)
    | .malformed o => fail (refusal 9 o)
    | .noTarget => fail (refusal 10 0)
    | .good phys rw =>
      let s := s.modWalker n fun w =>
        { w with state := .run, words := rw, phys, cur := 0, end_ := recTiles rw, mask := targets s rw, asker := none
                 permits := if recIpermit rw then initialPermits s rw w.realm else [] }
      .next (loadAnswer s w (inst.setWidth 64))

/-! ### Dispatch (R116, R119, R120) -/

/-- The cores with a permit that the launch's realm owns, in ascending order. -/
def permitted (s : State) (w : Walker) : List Nat :=
  (w.permits.map (·.1)).filter fun c => fget w.permits 0 c ≠ 0 && ownedBy s c w.realm

/-- The core that the instance chooses: the first after the one it chose last (R119). -/
def chooseCore (s : State) (w : Walker) : Option Nat :=
  let l := permitted s w
  (l.find? fun c => w.lastCore < c).orElse fun _ => l.head?

/-- The instance has a tile and a permit. -/
def mayDispatch (s : State) (n : Nat) : Bool :=
  let w := s.walker n
  w.state = .run && !w.frozen && w.cur < w.end_ && (chooseCore s w).isSome

/-- The walker slot of a router whose turn it is (R116). -/
def walkTurn (s : State) (r : Nat) : Option Nat :=
  let last := (s.router r).walkLast
  ([1, 2, 3, 4].map fun i => 4 * r + (last + i) % 4).find? (mayDispatch s)

/-- The lowest set bit of a mask. -/
def lowestBit (m : BitVec 16) : Nat := ((List.range 16).find? m.getLsbD).getD 0

/-- WALKER_DISPATCH: the instance whose turn it is assigns its next tile to a permitted set (R119); its router makes one
decision in a cycle (R116). -/
def execWalkerDispatch (inst : BitVec 16) (s : State) : Result :=
  let n := walkerOf inst
  let w := s.walker n
  let r := walkRouter n
  if !s.holds inst || walkTurn s r ≠ some n || (s.router r).walkCycle = some s.cycle.toNat then .next s
  else
    match chooseCore s w with
    | none => .next s
    | some c =>
      let m := fget w.permits 0 c
      let set := lowestBit m
      let s := s.modRouter r fun x => { x with walkLast := n % 4, walkCycle := some s.cycle.toNat }
      .next (s.modWalker n fun w =>
        { w with
          cur := w.cur + 1
          state := if w.cur + 1 = w.end_ then .drain else .run
          lastCore := c
          permits := fset w.permits 0 c (m &&& ~~~(BitVec.ofNat 16 (2 ^ set)))
          flags := if clipped w.words (tileCoords w.words w.cur) then w.flags ||| 0x10 else w.flags
          tiles := w.tiles ++ [{ index := w.cur, core := c, set, phase := .fetching }] })

/-! ### Fetch and start (R122, R125, R126) -/

/-- A tile of an instance. -/
def State.tile? (s : State) (inst : BitVec 16) (t : Nat) : Option Tile :=
  if s.holds inst && !(s.walker (walkerOf inst)).frozen then
    (s.walker (walkerOf inst)).tiles.find? fun x => x.index == t
  else none

/-- The record's words under which a tile was dispatched (R110). -/
def Tile.record (x : Tile) (w : Walker) : List Word := if x.words.isEmpty then w.words else x.words

/-- The moves of a tile's fetch or write-back. -/
def movesOf (s : State) (inst : BitVec 16) (x : Tile) (wb : Bool) : List (Nat × Nat × Nat × Word) :=
  tileMoves (x.record (s.walker (walkerOf inst))) x.index x.set wb

/-- The agent of an instance's accesses. -/
def instAgent (s : State) (inst : BitVec 16) : Agent :=
  walkAgent (walkRouter (walkerOf inst)) (s.walker (walkerOf inst)).realm

/-- The checks of a tile's fetch or write-back. -/
def tileChecks (s : State) (inst : BitVec 16) (x : Tile) (wb : Bool) : Moves :=
  resolveMoves s (instAgent s inst) wb (movesOf s inst x wb)

/-- What the walks of a tile's moves leave behind (R183, R185). -/
def noteMoves (s : State) (inst : BitVec 16) (x : Tile) (wb : Bool) : State :=
  (movesOf s inst x wb).foldl (fun s m => noteWalk s (instAgent s inst) m.2.2.2) s

/-- The moves of a list that are still to be made, with their places in it. -/
def Tile.left (x : Tile) (l : List (Nat × Nat × Place)) : List (Nat × Nat × Nat × Place) :=
  (l.zipIdx.filter fun m => !x.moved.contains m.2).map fun m => (m.2, m.1)

/-- Another unretired tile holds the set of the core (R118). -/
def setShared (s : State) (inst : BitVec 16) (x : Tile) : Bool :=
  s.walkers.any fun p =>
    p.2.tiles.any fun y => y.core == x.core && y.set == x.set && !(p.1 == walkerOf inst && y.index == x.index)

/-- What move j of a tile's fetch writes: what it has read before, or what it reads now. -/
def Tile.fetched (s : State) (x : Tile) (j : Nat) (m : Nat × Nat × Place) : (Word × Bool) × State :=
  match fget x.got none j with
  | some v => (v, s)
  | none => fetchRead s m

/-- Makes move j of a tile's fetch: where buffers overlap, or the set is lent twice, what it leaves is undefined (R112,
R118). -/
def tileFetch (s : State) (inst : BitVec 16) (x : Tile) (j : Nat) (m : Nat × Nat × Place) : State :=
  let w := s.walker (walkerOf inst)
  let v := x.fetched s j m
  fetchMove v.2 x.core w.realm (bufferOverlap (x.record w) m.2.1 m.1 || setShared s inst x) m v.1

/-- Makes move j of a tile's write-back; one that carries poison sets POISON in the part's status (R124). -/
def tileBack (s : State) (inst : BitVec 16) (x : Tile) (j : Nat) (m : Nat × Nat × Place) : State :=
  let n := walkerOf inst
  let w := s.walker n
  let v := (fget x.got none j).getD (backRead s x.core m)
  let s := backMove s (walkRouter n) w.realm w.root w.part x.index m v
  if v.2 then s.modWalker n fun w => { w with flags := w.flags ||| 0x08 } else s

/-- One move of a tile's fetch or write-back, at any time and in any order: of `only`, 2i asks for the read of move i and 2i
+ 1 for its write, which reads first what has not been read (R209). -/
def tileMove (s : State) (inst : BitVec 16) (x : Tile) (wb : Bool) (l : List (Nat × Nat × Place)) (only : Nat) : State :=
  let j := only / 2
  match (x.left l).find? (·.1 == j) with
  | none => s
  | some m =>
    let hold (s : State) (v : Word × Bool) : State := modTile s inst x.index fun x =>
      { x with got := fset x.got none j (some v) }
    if only % 2 = 0 then
      if (fget x.got none j).isSome then s
      else if wb then hold s (backRead s x.core m.2)
      else
        let v := fetchRead s m.2
        hold v.2 v.1
    else
      modTile (if wb then tileBack s inst x j m.2 else tileFetch s inst x j m.2) inst x.index fun x =>
        { x with moved := nput x.moved j, got := fset x.got none j none }

/-- The start that a tile sends (R126, Table 5-5). -/
def tileStartOf (s : State) (inst : BitVec 16) (x : Tile) : Start :=
  let w := s.walker (walkerOf inst)
  let r := x.record w
  let k := tileCoords r x.index
  { engine := recEngine r, prio := recPrio r, entry := entryPc ((recWord r 1).setWidth 46)
    args := [12, 13, 14, 15].map fun i => (recWord r i, false)
    budget := (recWord r 3).extractLsb' 32 32, realm := w.realm
    tinfo := taskInfo s.package 0xFFFF false false (recPrio r) (clipped r k) 62 2
    walkid := BitVec.ofNat 64 (x.index * 2 ^ 32 + w.part.toNat * 2 ^ 16 + inst.toNat)
    nodeid := recDone r
    launch := BitVec.ofNat 64 (k.getD 0 0 + k.getD 1 0 * 2 ^ 16 + k.getD 2 0 * 2 ^ 32 + k.getD 3 0 * 2 ^ 48) }

/-- The box flits of a clipped tile: the core's network interface writes them and sets their words full (R122, R193). -/
def writeBox (s : State) (w : Walker) (x : Tile) : State :=
  let r := x.record w
  let k := tileCoords r x.index
  if !clipped r k then s
  else
    let put (s : State) (o : Nat) (v : Word) : State :=
      (writeSram s x.core o 8 v false (niWriter x.core)).modMem fun m => m.setFull (keySram x.core o) true
    put (put s (0x7FE00 + 16 * x.set) (boxFlit r (boxLow r k))) (0x7FE08 + 16 * x.set)
      (boxFlit r (boxHigh r k))

/-- FOOTPRINT_FETCH_DONE: the tile's footprint and box flits are written and its start is sent to the core (R125). Or one
element of the fetch is moved, at any time and in any order (R209). -/
def execFootprintFetchDone (inst : BitVec 16) (piece : Piece) (s : State) : Result :=
  let tile := piece.work
  match s.tile? inst tile with
  | none => .next s
  | some x =>
    if x.phase ≠ .fetching || x.fault.isSome then .next s
    else
      match tileChecks s inst x false with
      | .places l =>
        let noted := noteMoves s inst x false
        match piece.only with
        | some j => .next (tileMove noted inst x false l j)
        | none =>
          let t := writeBox ((x.left l).foldl (fun s m => tileFetch s inst x m.1 m.2) noted) (s.walker (walkerOf inst)) x
          let t := modTile t inst tile fun x => { x with phase := .starting, moved := [], got := [] }
          .next (t.modCore x.core fun y => { y with incoming := y.incoming ++ [tileStartOf s inst x] })
      | .fault _ _ _ | .wait => .next s

/-- Another tile whose start has been delivered, and whose task has not ended, holds the set (R118). -/
def setBusy (s : State) (inst : BitVec 16) (x : Tile) : Bool :=
  s.walkers.any fun p =>
    p.2.tiles.any fun y =>
      y.core == x.core && y.set == x.set && y.phase == .started && !(p.1 == walkerOf inst && y.index == x.index)

/-- TILE_START: a tile start reaches its core: it starts or waits, or is discarded where its set is already held (R118,
R126). -/
def execTileStart (core : BitVec 12) (i : Nat) (s : State) : Result :=
  let c := core.toNat
  match takeAt (s.core c).incoming i with
  | none => .next s
  | some (t, rest) =>
    let inst : BitVec 16 := t.walkid.extractLsb' 0 16
    let n := (t.walkid.extractLsb' 32 32).toNat
    let s := s.modCore c fun y => { y with incoming := rest }
    match s.tile? inst n with
    | none => .next s
    | some x =>
      if setBusy s inst x then
        .next (modTile s inst n fun x => { x with phase := .fetching, fault := some (5, false, 0, 0) })
      else .next (arriveStart (modTile s inst n fun x => { x with phase := .started }) c t)

/-! ### Retirement and completion (R125, R132, R133) -/

/-- Removes a tile; its permit returns to the instance unless it lapses (R118, R135). -/
def retireTile (s : State) (inst : BitVec 16) (x : Tile) (permit : Bool) : State :=
  s.modWalker (walkerOf inst) fun w =>
    { w with
      tiles := w.tiles.filter fun y => y.index ≠ x.index
      permits := if permit then fset w.permits 0 x.core (fget w.permits 0 x.core ||| BitVec.ofNat 16 (2 ^ x.set))
        else w.permits }

/-- The task of the tile has posted stores to its core's local SRAM that have not been performed: the write-back is to see
them (R125). -/
def storesPending (s : State) (x : Tile) : Bool :=
  s.mem.reqs.any fun r =>
    match r.place with
    | .sram c _ _ => r.store && !r.done && r.core == x.core && c == x.core &&
        !((s.ctxAt x.core r.slot).occupied && (s.ctxAt x.core r.slot).gen == r.gen)
    | _ => false

/-- TILE_RETIRE: the tile's write-back is performed and acknowledged, or is not made, and the tile retires (R125, R136). Or
one element is written back, at any time and in any order (R209). -/
def execTileRetire (inst : BitVec 16) (piece : Piece) (s : State) : Result :=
  let tile := piece.work
  match s.tile? inst tile with
  | none => .next s
  | some x =>
    if x.phase ≠ .writingBack || x.fault.isSome then .next s
    else if x.noWrite then .next (retireTile s inst x true)
    else if storesPending s x then .next s
    else
      match tileChecks s inst x true with
      | .places l =>
        let noted := noteMoves s inst x true
        match piece.only with
        | some j => .next (tileMove noted inst x true l j)
        | none =>
          let t := (x.left l).foldl (fun s m => tileBack s inst x m.1 m.2) noted
          .next ((retireTile t inst x true).modWalker (walkerOf inst) fun w => { w with retired := w.retired + 1 })
      | .fault _ _ _ | .wait => .next s

/-- The status word of a part (Table 5-9). -/
def Walker.status (w : Walker) : Word := BitVec.ofNat 64 (w.retired % 2 ^ 32 * 2 ^ 32 + w.flags.toNat)

/-- The completion word lies in a scratch bank that is switching: its write waits (R133, R178). -/
def completionWaits (s : State) (w : Walker) : Bool :=
  match doneUnit s (recDone w.words) with
  | some u => u.pkg = s.package.toNat && u.core.isNone && (s.bank u.cluster (u.off / 0x80000)).busy
  | none => false

/-- Writes the completion word and sets it full, unless the realm no longer owns the unit or its bank is not SCRATCH
(R133). In another package it has no effect here (log 10). -/
def writeCompletion (s : State) (w : Walker) : State :=
  let a := recDone w.words
  match doneUnit s a with
  | none => s
  | some u =>
    if u.pkg ≠ s.package.toNat || !ownsUnit s u w.realm then s
    else
      let full (s : State) : State := s.modMem fun m => m.setFull (u.key u.off) true
      match u.core with
      | some c => full (writeSram s c u.off 8 w.status false (walkWriter w.realm))
      | none =>
        if (s.bank u.cluster (u.off / 0x80000)).mode = .scratch then
          full (writeScratch s u.cluster u.off 8 w.status false (walkWriter w.realm))
        else s

/-- PART_DONE: a part that has dispatched all and retired all, with every child done, frees its slot and reports to its
parent, to its node, or in the completion word (R132, R133). The outputs of a cancelled launch, which R136 calls undefined,
are what its write-backs left (R438, log 79). -/
def execPartDone (inst : BitVec 16) (s : State) : Result :=
  let n := walkerOf inst
  let w := s.walker n
  if !s.holds inst || w.frozen || !(w.state = .drain || w.state = .cancel) || !w.tiles.isEmpty || w.children ≠ 0 ||
      (w.parent = 0 && w.node.isNone && completionWaits s w) then
    .next s
  else
    let s := if w.parent = 0 then { s with launchOuts := fset s.launchOuts [] w.root.toNat [] } else s
    let t := s.modWalker n fun w => { sgen := w.sgen }
    .next (if w.parent ≠ 0 then { t with dones := t.dones ++ [{ inst := w.parent, node := none, status := w.status }] }
      else
        match w.node with
        | some k => { t with dones := t.dones ++ [{ inst := 0, node := some k, status := w.status }] }
        | none => writeCompletion t w)

/-- A child's done message combined into its parent (R132). -/
def childDone (s : State) (inst : BitVec 16) (status : Word) : State :=
  if s.holds inst then
    s.modWalker (walkerOf inst) fun w =>
      { w with children := w.children - 1, retired := w.retired + (status.extractLsb' 32 32).toNat
               flags := w.flags ||| status.extractLsb' 0 8 }
  else s

/-! ### Faults (R118, R134, R135) -/

/-- TCTX for WALK (Table 5-10). -/
def walkTctx (inst : BitVec 16) (t : Nat) (f : Nat × Bool × Nat × Word) : Word :=
  BitVec.ofNat 64 (f.1 * 2 ^ 56 + (if f.2.1 then 2 ^ 55 else 0) + f.2.2.1 * 2 ^ 50 + inst.toNat * 2 ^ 32 + t)

/-- The fault of a tile that is to be raised: a double grant, or what its fetch or write-back finds. -/
def tileFault (s : State) (inst : BitVec 16) (x : Tile) : Option (Nat × Bool × Nat × Word) :=
  match x.fault with
  | some f => if x.raised then none else some f
  | none =>
    let wb := x.phase = .writingBack
    if (x.phase = .fetching || (wb && !x.noWrite)) then
      match tileChecks s inst x wb with
      | .fault r n a => some (r, wb, n, a)
      | _ => none
    else none

/-- WALKER_FAULT: the instance enters FAULT and WALK is raised at the supervisor of the tile's core (R134). -/
def execWalkerFault (inst : BitVec 16) (tile : Nat) (s : State) : Result :=
  match s.tile? inst tile with
  | none => .next s
  | some x =>
    match tileFault s inst x with
    | none => .next s
    | some f =>
      let s := if x.fault.isNone then noteMoves s inst x f.2.1 else s
      let s := modTile s inst tile fun x => { x with fault := some f, raised := true }
      let s := s.modWalker (walkerOf inst) fun w =>
        { w with state := if w.state = .run || w.state = .drain then .fault else w.state }
      .next (raiseNotice s x.core
        { cause := .walk, pc := 0, val := f.2.2.2, ctx := walkTctx inst tile f, seq := 0, slot := none, imprec := false })

/-- The state of an instance one of whose faults has been resolved (R117). -/
def Walker.unfault (w : Walker) : Walker :=
  if w.state = .fault && !w.tiles.any (·.raised) then { w with state := if w.cur < w.end_ then .run else .drain } else w

/-- ERET on a WALK trap: the faulting fetch or write-back is tried again from its beginning; in a cancelled part a tile not
started retires instead (R135, R136). -/
def retryTile (s : State) (inst : BitVec 16) (t : Nat) : State :=
  let cancelled := (s.walker (walkerOf inst)).state == .cancel
  let s := modTile s inst t fun x =>
    { x with fault := none, raised := false, moved := [], got := []
             phase := if cancelled && x.phase = .fetching then .writingBack else x.phase
             noWrite := x.noWrite || (cancelled && x.phase = .fetching) }
  if s.holds inst then s.modWalker (walkerOf inst) Walker.unfault else s

/-- A cancel of the launch of a root starts towards every part of it (R136). -/
def cancelRoot (s : State) (root : BitVec 16) : State :=
  { s with walkers := s.walkers.map fun p =>
      (p.1, if p.2.state ≠ .free && p.2.root = root && p.2.state ≠ .cancel then { p.2 with cancelPending := true }
        else p.2) }

/-- A cancel of the launch that a node fired (R155, R162). -/
def cancelNode (s : State) (node : Nat) : State :=
  { s with walkers := s.walkers.map fun p =>
      (p.1, if p.2.state ≠ .free && p.2.node = some node && p.2.state ≠ .cancel then { p.2 with cancelPending := true }
        else p.2) }

/-- A part is cancelled: it stops dispatching, tiles not started retire without starting, and running tasks go on to retire
without write-back (R136, R438). -/
def cancelPart (s : State) (inst : BitVec 16) : State :=
  let n := walkerOf inst
  let w := s.walker n
  if !(w.state = .run || w.state = .drain || w.state = .fault) then s
  else
    let waits (x : Tile) : Bool :=
      (s.core x.core).starts.any fun t =>
        t.walkid.extractLsb' 0 16 == inst && (t.walkid.extractLsb' 32 32).toNat == x.index
    let mine (t : Start) : Bool := tiKind t.tinfo == 2 && t.walkid.extractLsb' 0 16 == inst
    let t := s.modWalker n fun w =>
      { w with
        state := .cancel, cancelPending := false, flags := w.flags ||| 0x80
        tiles := w.tiles.map fun (x : Tile) =>
          if x.fault.isNone && (x.phase = .fetching || x.phase = .starting || (x.phase = .started && waits x)) then
            { x with phase := .writingBack, noWrite := true }
          else x }
    { t with cores := t.cores.map fun p =>
      (p.1, { p.2 with starts := p.2.starts.filter (!mine ·), incoming := p.2.incoming.filter (!mine ·) }) }

/-- LAUNCH_CANCEL: a cancel reaches a part (R136, R438). -/
def execLaunchCancel (inst : BitVec 16) (s : State) : Result :=
  let w := s.walker (walkerOf inst)
  .next (if !s.holds inst || w.frozen || !w.cancelPending then s else cancelPart s inst)

/-- NFAIL fails a tile: it retires without write-back, its permit lapses, the part sets FAULT and goes to CANCEL, and the
launch's other parts are cancelled (R117, R135, R136). With the node of a node launch, which hears of it in the same step
(R437). -/
def failTile (s : State) (inst : BitVec 16) (t : Nat) : State × Option Nat :=
  match s.tile? inst t with
  | none => (s, none)
  | some x =>
    let w := s.walker (walkerOf inst)
    let s := (retireTile s inst x false).modWalker (walkerOf inst) fun w => { w with flags := w.flags ||| 0x40 }
    (cancelRoot (cancelPart s inst) w.root, w.node)

/-! ### Splits and permits (R130, R131, R435) -/

/-- The victim of a WSPLIT that names none: the instance in RUN of the realm with the largest range left, of equals the one
with the lowest instance word. -/
def victim (s : State) (realm : BitVec 12) : Option Nat :=
  let l := (s.walkers.filter fun p => p.2.state = .run && p.2.realm = realm).map (·.1)
  l.foldl (fun b n =>
    match b with
    | none => some n
    | some m =>
      let r (k : Nat) : Nat := (s.walker k).end_ - (s.walker k).cur
      if r m < r n || (r m = r n && (s.inst n).toNat < (s.inst m).toNat) then some n else some m) none

/-- What a WSPLIT finds: a reason to refuse, or the victim's slot. Nonzero bits of g[a] above the instance word name no instance
(log 70). -/
def splitVictim (s : State) (q : WReq) : Nat ⊕ Nat :=
  if q.opA = 0 then
    match victim s q.realm with
    | none => .inl 6
    | some n => if (s.walker n).frozen then .inl 5 else .inr n
  else
    let inst : BitVec 16 := q.opA.setWidth 16
    let w := s.walker (walkerOf inst)
    if 2 ^ 16 ≤ q.opA.toNat || !s.holds inst then .inl 3
    else if w.realm ≠ q.realm then .inl 4
    else if w.state ≠ .run || w.frozen then .inl 5
    else .inr (walkerOf inst)

/-- Splits the range of the instance in slot v for a requester of a cluster: the new part takes slot n (R130). -/
def split (s : State) (v n cluster : Nat) : State :=
  let w := s.walker v
  let rem := w.end_ - w.cur
  let mid := w.cur + (rem + 1) / 2
  let root := walkerOf w.root
  let part := (s.walker root).nextPart
  let vw := s.inst v
  let s := s.modWalker root fun x => { x with nextPart := x.nextPart + 1 }
  let s := s.modWalker v fun x => { x with end_ := mid, children := x.children + 1 }
  s.modWalker n fun x =>
    { sgen := x.sgen + 1, state := .run, realm := w.realm, record := w.record, phys := w.phys, words := w.words
      cur := mid, end_ := w.end_, parent := vw, root := w.root, part, mask := [cluster], node := w.node
      cancelPending := w.cancelPending }

/-- The instance in slot n has made its dispatch decision of this cycle, or has none to make (R130, R435). -/
def hasDecided (s : State) (n : Nat) : Bool :=
  walkTurn s (walkRouter n) ≠ some n || (s.router (walkRouter n)).walkCycle = some s.cycle.toNat

/-- A WSPLIT can be served: its victim has decided and has served none in this cycle, and while the package stops only a
refusal is given (R131, R435). -/
def splitDue (s : State) (q : WReq) : Bool :=
  match splitVictim s q with
  | .inl _ => s.stop.phase = 0 || q.opA ≠ 0
  | .inr v => s.stop.phase = 0 && hasDecided s v && (s.walker v).splitCycle ≠ some s.cycle.toNat

/-- SPLIT_SERVE: a victim serves a WSPLIT request (R130, R131). -/
def execSplitServe (i : Nat) (s : State) : Result :=
  match takeAt s.wreqs i with
  | none => .next s
  | some (q, rest) =>
    if q.fn ≠ 1 || !firstRequest s i || !splitDue s q then .next s
    else
      let t : State := { s with wreqs := rest }
      let ans (t : State) (v : Word) : Result := .next (answerTo t q.core q.slot q.gen q.d v)
      match splitVictim t q with
      | .inl r => ans t (refusal r 0)
      | .inr v =>
        let t := t.modWalker v fun x => { x with splitCycle := some s.cycle.toNat }
        let w := t.walker v
        if w.end_ - w.cur < 2 * recMinSplit w.words then ans t (refusal 1 0)
        else
          match freeWalker t (homeRouter q.core) with
          | none => ans t (refusal 2 0)
          | some n =>
            let t := split t v n (clusterOf q.core)
            ans t ((t.inst n).setWidth 64)

/-- A WPERMIT can be served: its instance has decided, no WSPLIT sent as early can be served before it in this cycle (R435),
and while the package stops only a frozen one answers. -/
def permitDue (s : State) (q : WReq) : Bool :=
  let n := walkerOf (q.opA.setWidth 16)
  (s.stop.phase = 0 || (s.walker n).frozen) && hasDecided s n &&
    s.wreqs.all fun r => r.fn ≠ 1 || q.time < r.time ||
      (match splitVictim s r with
       | .inl _ => true
       | .inr v => v ≠ n || (s.walker v).splitCycle = some s.cycle.toNat)

/-- PERMIT_SERVE: an instance ORs a WPERMIT mask into the issuing core's sets, or refuses (R120, R129, R435). Of several
grounds to refuse the first of STALE, REALM, STATE, NOTTARGET, SET is answered (log 70). -/
def execPermitServe (i : Nat) (s : State) : Result :=
  match takeAt s.wreqs i with
  | none => .next s
  | some (q, rest) =>
    if q.fn ≠ 2 || !firstRequest s i || !permitDue s q then .next s
    else
      let t : State := { s with wreqs := rest }
      let ans (t : State) (v : Word) : Result := .next (answerTo t q.core q.slot q.gen q.d v)
      let inst : BitVec 16 := q.opA.setWidth 16
      let n := walkerOf inst
      let w := t.walker n
      if 2 ^ 16 ≤ q.opA.toNat || !t.holds inst then ans t (refusal 3 0)
      else if w.realm ≠ q.realm || !ownedBy t q.core w.realm then ans t (refusal 4 0)
      else if !(w.state = .run || w.state = .fault) || w.frozen then ans t (refusal 5 0)
      else if !w.mask.contains (clusterOf q.core) then ans t (refusal 7 0)
      else if 2 ^ recSets w.words ≤ q.opB.toNat then ans t (refusal 8 0)
      else
        let m := fget w.permits 0 q.core ||| q.opB.setWidth 16
        ans (t.modWalker n fun w => { w with permits := fset w.permits 0 q.core m }) (m.setWidth 64)

/-! ### The WALK instructions (R128, R434) -/

/-- Sends a request: g[d] is locked until its answer. -/
def sendWalk (fn : Nat) (d : Reg) (a b : Word) (s : State) : Result :=
  .next (({ s with
    wreqs := s.wreqs ++ [{ core := s.cur.1, slot := s.cur.2, gen := s.ctx.gen, d := d.toNat, realm := s.agent.realm, fn,
                           opA := a, opB := b, time := s.cycle.toNat }] } : State).modCtx fun x => (x.setLock d true).advance)

/-- Check 4 of R128: the pages that the record touches are mapped and readable. -/
def withRecordPages (va : Word) (f : State → Result) (s : State) : Result :=
  let last := (va + 255) &&& ~~~0xFFFF
  let check (a : Word) (f : State → Result) (s : State) : Result :=
    match resolve s s.agent a 1 needRead false false with
    | .bad .page => trap .page a 0 s
    | .bad .prot => trap .prot a 0 s
    | .miss => stall (postWalk s s.cur.1 s.cur.2 a)
    | .busy => stall s
    | .bad _ | .ok _ => f s
  check va (if last.toNat ≤ va.toNat then f else check last f) s

/-- WLAUNCH (R128, R434): a release at PACKAGE scope. -/
def execWlaunch (d a : Reg) : State → Result :=
  unlessLocked [d] [a] fun s =>
    withClean [(a, 1)] (fun s =>
      let va := s.ctx.reg a
      if va.toNat % 64 ≠ 0 then trap .align va 0 s
      else if !inGlobal va then trap .bounds va 0 s
      else withRecordPages va (withRelease .package (sendWalk 0 d va 0)) s) s

/-- WSPLIT (R128, R130). -/
def execWsplit (d a : Reg) : State → Result :=
  unlessLocked [d] [a] fun s => withClean [(a, 4)] (fun s => sendWalk 1 d (s.ctx.reg a) 0 s) s

/-- WPERMIT (R128, R435). -/
def execWpermit (d a b : Reg) : State → Result :=
  unlessLocked [d] [a, b] fun s =>
    withClean [(a, 4), (b, 4)] (fun s => sendWalk 2 d (s.ctx.reg a) (s.ctx.reg b) s) s

/-- WALKER_ANSWER: an answer overwrites the locked g[d] and clears its poison; the answer of a task that has ended is
discarded (R128, R368). -/
def execWalkerAnswer (i : Nat) (s : State) : Result :=
  match takeAt s.answers i with
  | none => .next s
  | some (q, rest) =>
    let t : State := { s with answers := rest }
    let x := t.ctxAt q.core q.slot
    let d := BitVec.ofNat 5 q.d
    .next (if !x.occupied || x.gen ≠ q.gen then t
      else if q.graphTrap then t.modCtxAt q.core q.slot fun x => { x.setLock d false with graphTrap := some q.val }
      else t.modCtxAt q.core q.slot fun x => (x.setReg d q.val false).setLock d false)

end Sys2Proof.Machine
end

