-- ==== Sys2Proof/Machine/Graph.lean ====
section
/-!
DEFINITION. The Ephemeris (R139 to R165, R295 to R297, R394, R437): bindings and their check, triggers and run starts,
dispatch, tokens, body ends, faults, sweeps, final runs, completion records, the GRAPH instructions.
-/

namespace Sys2Proof.Machine

/-! ### Records in scheduler memory (R139, R141, R143) -/

/-- The key of word k of record n. -/
def nodeKey (n k : Nat) : Nat := keyGlobal (0x38000000000 + 128 * n + 8 * k)

/-- A field of a record: len bits from bit lo of word k. -/
def nget (s : State) (n k lo len : Nat) : Nat := (s.mem.load (nodeKey n k) 8).toNat / 2 ^ lo % 2 ^ len

/-- The Ephemeris as a writer (Table 11-12): no WKIND names it, and 3, the walkers', stands for it (log 35). -/
def ephWriter (realm : Option (BitVec 12)) : WriterId := { wkind := 3, wcore := 0xFFF, realm }

/-- Sets a field of a record: the word is written at its slice with its poison as it stands (R289, R192; log 35). -/
def nset (s : State) (n k lo len v : Nat) : State :=
  let w := (s.mem.load (nodeKey n k) 8).toNat
  let w' := w - w / 2 ^ lo % 2 ^ len * 2 ^ lo + v % 2 ^ len * 2 ^ lo
  writeGlobal s (0x38000000000 + 128 * n + 8 * k) 8 (BitVec.ofNat 64 w') (s.mem.psn (nodeKey n k)) (ephWriter none)

/-- A record's word. -/
def nword (s : State) (n k : Nat) : Word := s.mem.load (nodeKey n k) 8

/-- The ids of a list of n ids at an offset of scheduler memory. -/
def idList (s : State) (off n : Nat) : List Nat :=
  (List.range n).map fun i => s.mem.read (keyGlobal (0x38000000000 + off + 4 * i)) 4

/-- STATUS of a node, or STATE of a header. -/
def nStatus (s : State) (n : Nat) : Nat := nget s n 0 60 4
/-- KIND. -/
def nKind (s : State) (n : Nat) : Nat := nget s n 0 57 3
/-- TEMPLATE. -/
def nTemplate (s : State) (n : Nat) : Bool := nget s n 0 56 1 = 1
/-- POLICY. -/
def nPolicy (s : State) (n : Nat) : Nat := nget s n 0 54 2
/-- PRIO. -/
def nPrio (s : State) (n : Nat) : Nat := nget s n 0 52 2
/-- GRAPH of a node. -/
def nGraph (s : State) (n : Nat) : Nat := nget s n 0 0 32
/-- JOIN. -/
def nJoin (s : State) (n : Nat) : Nat := nget s n 2 32 32
/-- Successors. -/
def nSuccs (s : State) (n : Nat) : List Nat := idList s (nget s n 3 0 32) (nget s n 3 48 16)
/-- REALM of a header. -/
def hRealm (s : State) (h : Nat) : BitVec 12 := BitVec.ofNat 12 (nget s h 0 36 12)
/-- NODES of a header. -/
def hNodes (s : State) (h : Nat) : Nat := nget s h 0 0 32
/-- HELD. -/
def hHeld (s : State) (h : Nat) : Bool := nget s h 0 56 1 = 1
/-- INSTANCE. -/
def hInstance (s : State) (h : Nat) : Nat := nget s h 3 0 32
/-- The extent of a graph by its header. -/
def headExtent (s : State) (h : Nat) : Extent := ⟨hNodes s h, nget s h 2 32 32, nget s h 2 0 32⟩
/-- The extent of a graph: by its header as the run that is not final found it, else by its header as it stands. A write of the
header during a run moves nothing of another graph into this one (R140). -/
def extent (s : State) (h : Nat) : Extent := (fget s.eph.runs none h).getD (headExtent s h)
/-- The graph's nodes. -/
def hIds (s : State) (h : Nat) : List Nat := (List.range (extent s h).nodes).map (h + 1 + ·)
/-- The graph's pool. -/
def hPool (s : State) (h : Nat) : List Nat := (List.range (extent s h).poolN).map ((extent s h).pool + ·)
/-- The roots list. -/
def hRoots (s : State) (h : Nat) : List Nat := idList s (nget s h 1 0 32) (nget s h 1 48 16)
/-- The node is one of the graph's, not a pool record: the counters take it (R143). -/
def inGraph (s : State) (h n : Nat) : Bool := h < n && n ≤ h + (extent s h).nodes
/-- The record is in the graph's pool. -/
def inPool (s : State) (h n : Nat) : Bool := (extent s h).pool ≤ n && n < (extent s h).pool + (extent s h).poolN

/-- The Ephemeris makes steps: not while the package is stopped (R163). -/
def ephRuns (s : State) : Bool := s.stop.phase = 0

/-- Changes the Ephemeris. -/
def State.modEph (s : State) (f : Eph → Eph) : State := { s with eph := f s.eph }

/-- The binding of trigger register k. -/
def State.binding (s : State) (k : Nat) : Binding := fget s.eph.bindings {} k

/-- Sets a binding. -/
def setBinding (s : State) (k : Nat) (b : Binding) : State :=
  s.modEph fun e => { e with bindings := fset e.bindings {} k b }

/-- Some binding holds the graph bound. -/
def isBound (s : State) (h : Nat) : Bool := s.eph.bindings.any fun p => p.2.bstat = 2 && p.2.graph.toNat = h

/-- The graph that a step for node n acts on: the one that the node's GRAPH names, if it is bound and the node is one of its
nodes or pool records. What an ill-timed write made of the field leads to no other graph (R140). -/
def ownGraph (s : State) (n : Nat) : Option Nat :=
  let h := nGraph s n
  if isBound s h && (inGraph s h n || inPool s h n) then some h else none

/-- Records n and p belong to one graph. -/
def sameGraph (s : State) (n p : Nat) : Bool := (ownGraph s n).isSome && ownGraph s n == ownGraph s p

/-! ### Bindings (R144, R145) -/

/-- A list of ids is aligned and ends within scheduler memory. -/
def listOk (off n : Nat) : Bool := off % 4 = 0 && off + 4 * n ≤ 2 ^ 26

/-- A successor or root is a node of the graph and no template. -/
def linkOk (s : State) (h n : Nat) : Bool := inGraph s h n && !nTemplate s n

/-- PLACE names a usable core or cluster (R145). -/
def placeOk (s : State) (p : Nat) : Bool :=
  if 2 ^ 15 ≤ p then p / 2 ^ 8 % 2 ^ 7 = 0 && s.usableCluster (p % 256)
  else p / 2 ^ 12 = 0 && s.usableCore (p % 4096)

/-- BODY has the form of Table 6-2, with the checks of R145: a set bit that the table gives no field is malformed, as a set
BUDGET or PLACE of a kind that has none is not (log 82). -/
def bodyOk (s : State) (kind b : Nat) : Bool :=
  match kind with
  | 0 => b = 0
  | 1 => b < 2 ^ 48 && b % 64 = 0
  | 2 => b < 2 ^ 46
  | 3 => b < 2 ^ 18 && b / 2 ^ 12 < 62 && s.usableCore (b % 4096)
  | _ => true

/-- The byte offset of the first bad word of a header (R145); a pool of POOLN records needs a POOL other than 0 (log 82). -/
def badHeader (s : State) (h : Nat) (realm : BitVec 12) : Option Nat :=
  let n := hNodes s h
  let pool := nget s h 2 32 32
  let pn := nget s h 2 0 32
  if nKind s h ≠ 7 || nget s h 0 48 7 ≠ 0 || nget s h 0 32 4 ≠ 0 || hRealm s h ≠ realm || n = 0 || 2 ^ 19 ≤ h + n then
    some 0
  else if nget s h 1 32 16 ≠ 0 || nget s h 1 48 16 = 0 || !listOk (nget s h 1 0 32) (nget s h 1 48 16) ||
      (hRoots s h).any (!linkOk s h ·) then some 8
  else if pn ≠ 0 && (pool = 0 || 2 ^ 19 < pool + pn || (pool ≤ h + n && h < pool + pn)) then some 0x10
  else if nget s h 4 52 12 ≠ 0 then some 0x20
  else if nget s h 8 0 32 ≠ 0 then some 0x40
  else ((List.range 7).find? fun i => nword s h (9 + i) ≠ 0).map fun i => 8 * (9 + i)

/-- The byte offset of the first bad word of a graph node (R145). -/
def badNode (s : State) (h : Nat) (roots : List Nat) (n : Nat) : Option Nat :=
  let kind := nKind s n
  let tokens := nget s n 1 0 32
  let tm := nTemplate s n
  let succn := nget s n 3 48 16
  if nget s n 0 48 2 ≠ 0 || kind = 5 || kind = 6 || kind = 7 || nPolicy s n = 3 || nGraph s n ≠ h ||
      (nget s n 0 51 1 = 1 && kind ≠ 2) then some 0
  else if (if tm || roots.contains n then tokens ≠ 0 else tokens = 0) then some 8
  else if nget s n 3 32 16 ≠ 0 || (tm && succn ≠ 0) || !listOk (nget s n 3 0 32) succn ||
      (nSuccs s n).any (!linkOk s h ·) then some 0x18
  else if !bodyOk s kind (nword s n 4).toNat then some 0x20
  else if nget s n 5 16 16 ≠ 0 || (kind = 2 && (nget s n 5 32 32 = 0 || !placeOk s (nget s n 5 0 16))) then some 0x28
  else if nget s n 10 34 6 ≠ 0 then some 0x50
  else if nget s n 12 32 32 ≠ 0 then some 0x60
  else ([13, 14, 15].find? fun i => nword s n i ≠ 0).map (8 * ·)

/-- The check of a graph (R145): the first malformed record and the offset of its first bad word. -/
def checkGraph (s : State) (h : Nat) (realm : BitVec 12) : Option (Nat × Nat) :=
  if h = 0 || 2 ^ 19 ≤ h then some (h, 0)
  else
    match badHeader s h realm with
    | some o => some (h, o)
    | none =>
      let roots := hRoots s h
      (hIds s h).findSome? fun n => (badNode s h roots n).map (n, ·)

/-- The graph is RUNNING or SWEEPING. -/
def isRunning (s : State) (h : Nat) : Bool := nStatus s h = 1 || nStatus s h = 2

/-- The sweeps of a graph. -/
def State.sweep (s : State) (h : Nat) : Sweep := fget s.eph.sweeps {} h

/-- Changes the sweeps of a graph. -/
def modSweep (s : State) (h : Nat) (f : Sweep → Sweep) : State :=
  s.modEph fun e => { e with sweeps := fset e.sweeps {} h (f (fget e.sweeps {} h)) }

/-! ### Completion records (R295, R296) -/

/-- Queues a record; one of KIND 1 or 2 that finds the queue full is dropped and counted, and a dropped note still ends its
node's body. -/
def queueRecord (s : State) (r : CRec) : State :=
  if s.host.queue.length < 256 then { s with host := { s.host with queue := s.host.queue ++ [r] } }
  else
    let s : State := { s with host := { s.host with crlost := satInc s.host.crlost } }
    match r.note with
    | some n => s.modEph fun e => { e with ends := e.ends ++ [(n, false)] }
    | none => s

/-- Word 0x08 of a record (Table 12-4). -/
def recordWord1 (seq kind state err code k : Nat) : Word :=
  BitVec.ofNat 64 (seq * 2 ^ 48 + kind * 2 ^ 46 + state * 2 ^ 43 + err * 2 ^ 42 + code * 2 ^ 39 + k)

/-- A trigger is refused (R160): REFUSED counts in the bound graph's header, and a record carries the status code. -/
def refuseTrigger (s : State) (k seq code : Nat) : State :=
  let h := (s.binding k).graph.toNat
  let s := if code = 1 then s else nset s h 7 0 32 (nget s h 7 0 32 + 1)
  queueRecord s { trigger := k, w1 := recordWord1 seq 1 0 0 code k, w2 := BitVec.ofNat 64 h, w3 := 0 }

/-- The ring has room for a record (R296). -/
def ringRoom (s : State) : Bool :=
  s.host.cren && s.host.linkUp && ((s.host.devseq - s.host.hostseq).toInt < 2 ^ s.host.crlogn.toNat)

/-- Sets one half of a TRIGSEQ word (R297). -/
def setTrigseq (s : State) (k : Nat) (hi : Bool) (v : BitVec 16) : State :=
  let w := fget s.host.trigseq 0 k
  let w' : BitVec 32 := if hi then v ++ w.extractLsb' 0 16 else w.extractLsb' 16 16 ++ v
  { s with host := { s.host with trigseq := fset s.host.trigseq 0 k w' } }

/-- COMPLETION_RECORD_WRITE: the oldest queued record is written into the host's ring, DEVSEQ last (R295, R296). -/
def execCompletionRecordWrite (s : State) : Result :=
  match s.host.queue with
  | [] => .next s
  | r :: rest =>
    if !ringRoom s then .next s
    else
      let n := s.host.devseq + 1
      let a := keyHost ((s.host.crbase.toNat * 32 + 32 * (s.host.devseq.toNat % 2 ^ s.host.crlogn.toNat)) % 2 ^ 64)
      let m := (((s.mem.store (a + 8) 8 r.w1 false).store (a + 16) 8 r.w2 false).store (a + 24) 8 r.w3 false).store a 8 n
        false
      let t : State := { s with
        mem := m
        host := { s.host with queue := rest, devseq := n, msix := if s.host.crint then s.host.msix + 1 else s.host.msix } }
      let t := if (r.w1.extractLsb' 46 2).toNat < 2 then setTrigseq t r.trigger true (r.w1.extractLsb' 48 16) else t
      .next (match r.note with
        | some k => t.modEph fun e => { e with ends := e.ends ++ [(k, false)] }
        | none => t)

/-! ### Status changes (R146) -/

/-- Sets STATUS and counts graph nodes that become DONE, FAILED or CANCELLED (R143). -/
def setStatus (s : State) (n v : Nat) : State :=
  let own := ownGraph s n
  let s := nset s n 0 60 4 v
  match own with
  | none => s
  | some h =>
    if !inGraph s h n then s
    else
      match v with
      | 5 => nset s h 6 32 32 (nget s h 6 32 32 + 1)
      | 6 => nset s h 6 0 32 (nget s h 6 0 32 + 1)
      | 7 => nset s h 7 32 32 (nget s h 7 32 32 + 1)
      | _ => s

/-- A node becomes READY and enters the ready queue. -/
def setReady (s : State) (n : Nat) : State :=
  (setStatus s n 2).modEph fun e => { e with ready := e.ready ++ [(n, 0)] }

/-- Sets OUTST. -/
def setOutst (s : State) (n : Nat) (b : Bool) : State := nset s n 0 50 1 (if b then 1 else 0)

/-- A node becomes DONE: its successors are sent tokens, in list order (R148). -/
def becomeDone (s : State) (n : Nat) : State :=
  (setOutst (setStatus s n 5) n false).modEph fun e => { e with tokens := e.tokens ++ (nSuccs s n).filter (sameGraph s n) }

/-- The node's task, launch or note has not ended. -/
def isLive (s : State) (n : Nat) : Bool := s.eph.live.contains n

/-- What the end of a node's body, or of its last child, does to it (Table 6-5); a child that has ended retires, which its
parent sees (R154). -/
def settle : Nat → State → Nat → State
  | 0, s, _ => s
  | f + 1, s, n =>
    if isLive s n then s
    else
      let retire (s : State) : State :=
        if !s.eph.taken.contains n then s
        else
          let p := nget s n 2 0 32
          let s := s.modEph fun e => { e with taken := ndrop e.taken n }
          if !sameGraph s n p then s
          else
            let s := if nStatus s n = 5 then s
              else nset (nset s p 10 33 1 1) (nGraph s p) 0 55 1 1
            settle f (nset s p 2 32 32 (nJoin s p - 1)) p
      match nStatus s n with
      | 3 => if nJoin s n = 0 then retire (becomeDone s n) else setStatus s n 4
      | 4 => if nJoin s n = 0 then retire (becomeDone s n) else s
      | 8 => if nJoin s n = 0 then setReady (setOutst s n false) n else s
      | 6 | 7 => if nJoin s n = 0 then retire (setOutst s n false) else s
      | _ => s

/-- Ids in the longest chain of parents. -/
def maxDepth : Nat := 524288

/-- The node's body has ended (R151). -/
def bodyEnd (s : State) (n : Nat) : State :=
  settle maxDepth (s.modEph fun e => { e with live := ndrop e.live n }) n

/-- Record d descends from node n by at most f parents. -/
def descends (s : State) : Nat → Nat → Nat → Bool
  | 0, _, _ => false
  | f + 1, n, d =>
    let p := nget s d 2 0 32
    s.eph.taken.contains d && (p = n || descends s f n p)

/-- A node leaves the ready queue. -/
def unready (s : State) (n : Nat) : State := s.modEph fun e => { e with ready := e.ready.filter fun r => r.1 ≠ n }

/-- The live children and descendants of a node become CANCELLED, in ascending id, without a sweep (R154). -/
def cancelChildren (s : State) (n : Nat) : State :=
  let ds := s.eph.taken.filter fun d =>
    descends s s.eph.taken.length n d && !(nStatus s d = 5 || nStatus s d = 6 || nStatus s d = 7)
  let s := ds.foldl (fun s d => cancelNode (unready (setStatus s d 7) d) d) s
  ds.foldl (settle maxDepth) s

/-! ### Faults and sweeps (R155 to R157, R162) -/

/-- Enqueues a node for the sweep unless a sweep of the run has reached it (R156). -/
def sweepEnqueue (h : Nat) (s : State) (n : Nat) : State :=
  if nget s n 11 32 32 = hInstance s h || !inGraph s h n then s
  else
    let s := nset s n 11 32 32 (hInstance s h)
    let s := match (s.sweep h).queue.getLast? with
      | some q => nset s q 11 0 32 n
      | none => s
    modSweep s h fun w => { w with queue := w.queue ++ [n] }

/-- PENDHEAD shows the first failed node whose sweep has not begun. -/
def showPending (s : State) (h : Nat) : State := nset s h 8 32 32 ((s.sweep h).pend.headD 0)

/-- A node becomes FAILED: its sweep is queued (R156). -/
def queueSweep (s : State) (h n : Nat) : State :=
  let s := nset s n 11 32 32 (hInstance s h)
  let s := match (s.sweep h).pend.getLast? with
    | some q => nset s q 12 0 32 n
    | none => s
  let s := modSweep s h fun w =>
    { w with pend := w.pend ++ [n], due := if nStatus s h = 2 then w.due else s.cycle.toNat + 4 }
  showPending (nset s h 0 60 4 2) h

/-- ERR of a graph's header is set (R143). -/
def markErr (s : State) (h : Option Nat) : State :=
  match h with
  | some h => nset s h 0 55 1 1
  | none => s

/-- The node's launch has not ended: a walker slot holds it, or its done message is on its way. -/
def launchRuns (s : State) (n : Nat) : Bool :=
  s.walkers.any (fun p => p.2.state ≠ .free && p.2.node == some n) || s.dones.any (·.node == some n)

/-- A fault reaches a node (R155, Table 6-5); a child's failure starts no sweep (R154). A tile's failure, or a fault of a launch
that still drains, does not end the body: the launch's done message does (R146). -/
def applyFault (s : State) (n reason : Nat) (code : BitVec 32) : State :=
  let own := ownGraph s n
  let child := s.eph.taken.contains n
  let ended := reason ≠ 3 && !launchRuns s n
  let s := nset (nset s n 10 56 8 reason) n 10 0 32 code.toNat
  let s := markErr s own
  let s := if ended then s.modEph fun e => { e with live := ndrop e.live n } else s
  if nStatus s n = 3 then
    if nPolicy s n = 2 then
      let s := nset s n 10 32 1 1
      if ended then settle maxDepth s n else s
    else
      let retry := nget s n 0 32 8
      let again := nPolicy s n = 1 && retry ≠ 0
      let s := cancelNode s n
      let s := if again then setStatus (nset s n 0 32 8 (retry - 1)) n 8 else setStatus s n 6
      let s := cancelChildren s n
      let s :=
        match own with
        | some h => if again || child then s else queueSweep s h n
        | none => s
      settle maxDepth s n
  else if ended then settle maxDepth s n
  else s

/-- NODE_FAULT (R155); the end of a TASK body waits for its release (R153). -/
def execNodeFault (i : Nat) (s : State) : Result :=
  match takeAt s.eph.faults i with
  | none => .next s
  | some ((n, reason, code), rest) =>
    if ephRuns s && !nodeOwes s n then .next (applyFault (s.modEph fun e => { e with faults := rest }) n reason code)
    else .next s

/-- A task, class enable or note has ended; a killed task leaves REASON 4 and ERR (R151). -/
def nodeEnded (s : State) (n : Nat) (killed : Bool) : State :=
  bodyEnd (if killed then markErr (nset (nset s n 10 56 8 4) n 10 32 1 1) (ownGraph s n) else s) n

/-- NODE_BODY_END: the end of a body reaches the Ephemeris when its release is complete (R151, R153). -/
def execNodeBodyEnd (i : Nat) (s : State) : Result :=
  match takeAt s.eph.ends i with
  | none => .next s
  | some ((n, killed), rest) =>
    if ephRuns s && !nodeOwes s n then .next (nodeEnded (s.modEph fun e => { e with ends := rest }) n killed) else .next s

/-- A root's done message sets LSTAT and CODE of its node and ends the node's body (R151). CODE keeps what the NFAIL that failed
the node wrote. -/
def launchEnded (s : State) (n : Nat) (status : Word) : State :=
  let s := nset s n 10 40 8 (status.toNat % 256)
  bodyEnd (if nStatus s n = 6 then s else nset s n 10 0 32 (status.toNat / 2 ^ 32)) n

/-- DONE_MESSAGE_ARRIVAL: a child's status is combined into its parent's (R132); a root's done message ends the body of its node
(R151). A tile's failure reaches the node before the launch's done message (R136). -/
def execDoneMessageArrival (i : Nat) (s : State) : Result :=
  match takeAt s.dones i with
  | none => .next s
  | some (m, rest) =>
    let t : State := { s with dones := rest }
    match m.node with
    | none => .next (if ephRuns s then childDone t m.inst m.status else s)
    | some n =>
      .next (if !ephRuns s || s.eph.faults.any (·.1 == n) then s else launchEnded t n m.status)

/-- A sweep visits a node (Table 6-5), whose VISIT names the instance. -/
def sweepVisit (h : Nat) (s : State) (n : Nat) : State :=
  let v := nStatus s n
  let s := nset s n 11 32 32 (hInstance s h)
  let s :=
    if v = 1 || v = 2 then unready (setStatus s n 7) n
    else if v = 3 || v = 4 || v = 8 then
      settle maxDepth (cancelChildren (cancelNode (setStatus s n 7) n) n) n
    else s
  let s := nset (nset s h 5 32 32 n) h 5 0 32 (nget s h 5 0 32 + 1)
  modSweep s h fun w => { w with seen := w.seen ++ [n] }

/-- Failed nodes are taken from the pending list until one has a successor to visit. -/
def fillQueue (h : Nat) : List Nat → State → State
  | [], s => s
  | f :: rest, s =>
    if (s.sweep h).queue.isEmpty then
      fillQueue h rest
        ((nSuccs s f).foldl (sweepEnqueue h) (modSweep s h fun w => { w with pend := w.pend.filter (· ≠ f) }))
    else s

/-- After a visit: the next one is due 4 cycles on, and after the last one STATE becomes RUNNING. The sweep of a node that
failed while a cancel's visits ran follows them (R157, R158). -/
def sweepEnd (s : State) (h : Nat) : State :=
  let w := s.sweep h
  let cancelling := w.cancelling && (hIds s h).any (!w.seen.contains ·)
  let s := modSweep s h fun w => { w with cancelling }
  if cancelling || !w.queue.isEmpty || !w.pend.isEmpty then modSweep s h fun w => { w with due := s.cycle.toNat + 4 }
  else nset s h 0 60 4 1

/-- SWEEP_VISIT: the next visit of a sweep, or of a cancel, every 4 cycles (R156, R162). -/
def execSweepVisit (graph : Nat) (s : State) : Result :=
  let h := graph
  let w := s.sweep h
  if !ephRuns s || !isBound s h || nStatus s h ≠ 2 || s.cycle.toNat < w.due then .next s
  else if w.cancelling then
    match (hIds s h).find? (!w.seen.contains ·) with
    | some n => .next (sweepEnd (sweepVisit h s n) h)
    | none => .next (sweepEnd s h)
  else
    let s := fillQueue h w.pend s
    match (s.sweep h).queue with
    | [] => .next (sweepEnd (showPending s h) h)
    | n :: rest =>
      let s := sweepVisit h (modSweep s h fun w => { w with queue := rest }) n
      .next (sweepEnd (showPending ((nSuccs s n).foldl (sweepEnqueue h) s) h) h)

/-- The CANCEL of a graph (R162): every node not yet visited is to be visited; a held trigger is refused BUSY. It acts at once
while the package is stopped too, ahead of what is kept, and its visits wait for resume (R163, log 84). -/
def cancelGraph (s : State) (h : Nat) : State :=
  if !(isBound s h && isRunning s h) then s
  else
    let s := match fget s.eph.heldTrigger none h with
      | none => s
      | some k =>
        let seq := nget s h 3 32 16
        refuseTrigger ((nset s h 0 56 1 0).modEph fun e => { e with heldTrigger := fset e.heldTrigger none h none }) k seq 2
    let s := modSweep s h fun w =>
      { w with pend := [], queue := [], cancelling := true, due := if nStatus s h = 2 then w.due else s.cycle.toNat + 4 }
    showPending (nset s h 0 60 4 2) h

/-- A write of a binding word (R144). -/
def bindWrite (s : State) (k : Nat) (v : Word) : State :=
  let b := s.binding k
  let h := b.graph.toNat
  if v.getLsbD 62 then cancelGraph s h
  else if b.bstat = 2 && (isRunning s h || hHeld s h) then s
  else
    setBinding s k { enable := v.getLsbD 63, bstat := if v.getLsbD 63 then 1 else 0, realm := v.extractLsb' 48 12
                     graph := v.setWidth 32 }

/-- A binding word as it reads (Table 6-4). -/
def bindRead (s : State) (k : Nat) : Word :=
  let b := s.binding k
  (if b.bstat = 2 then 0x8000000000000000 else 0) ||| (b.bstat.setWidth 64 <<< 60) ||| (b.realm.setWidth 64 <<< 48) |||
    b.graph.setWidth 64

/-- BIND (R144). -/
def execBind (k : BitVec 15) (v : Word) (s : State) : Result := .next (if hostReaches s then bindWrite s k.toNat v else s)

/-- GRAPH_CANCEL: a binding-word write with CANCEL (R162). -/
def execGraphCancel (k : BitVec 15) (v : Word) (s : State) : Result :=
  .next (if v.getLsbD 62 && hostReaches s then cancelGraph s (s.binding k.toNat).graph.toNat else s)

/-- BIND_CHECK_DONE: the check ends: bound, CHECK as it stood (R139, log 81), or malformed with CHECK written (R145). -/
def execBindCheckDone (k : BitVec 15) (s : State) : Result :=
  let b := s.binding k.toNat
  if b.bstat ≠ 1 then .next s
  else
    match checkGraph s b.graph.toNat b.realm with
    | none => .next (setBinding s k.toNat { b with bstat := 2 })
    | some (n, o) =>
      .next ((setBinding s k.toNat { b with bstat := 3 }).modEph fun e =>
        { e with badnode := BitVec.ofNat 32 n, badoff := BitVec.ofNat 8 o })

/-! ### Triggers and run starts (R147, R159 to R161) -/

/-- The word at a physical address: none if it cannot be read or is poisoned; a word of another package and its tag are
free values (log 10). -/
def physWord (s : State) (pa : Nat) : Option Word :=
  match placeOfPhys s { core := 0, realm := 0, super := true } pa 8 needRead true false with
  | .ok (.other _ a _) => if (s.foreign a).2 then none else some (s.foreign a).1
  | .ok p => if (readHome s p 8).2 then none else some (readHome s p 8).1
  | _ => none

/-- Where a patch writes: a record word, or a place of a launch record. -/
inductive PatchTarget where
  | node (n k : Nat)
  | place (p : Place)
  deriving DecidableEq, Repr

/-- One patch entry: the status code that refuses it, or its target (R161). -/
def patchTarget (s : State) (h : Nat) (w : Word) : Nat ⊕ PatchTarget :=
  let n := (w.extractLsb' 32 32).toNat
  let off := (w.extractLsb' 0 8).toNat
  if !inGraph s h n || w.extractLsb' 9 23 ≠ 0 || off % 8 ≠ 0 then .inl 3
  else if !w.getLsbD 8 then if 0x20 ≤ off && off ≤ 0x48 then .inr (.node n (off / 8)) else .inl 3
  else if nKind s n ≠ 1 then .inl 3
  else
    let va := ((nword s n 4).extractLsb' 0 48).signExtend 64 + BitVec.ofNat 64 off
    match resolve s (walkAgent 0 (hRealm s h)) va 8 needWrite true true with
    | .ok p => if (readHome s p 8).2 then .inl 4 else .inr (.place p)
    | _ => .inl 4

/-- The entries of a patch list, read and checked: a status code, or targets and values. -/
def patchEntries (s : State) (h pa : Nat) : Nat → Nat → Nat ⊕ List (PatchTarget × Word)
  | 0, _ => .inr []
  | n + 1, i =>
    match physWord s (pa + 16 + 16 * i), physWord s (pa + 24 + 16 * i) with
    | some w, some v =>
      match patchTarget s h w with
      | .inl e => .inl e
      | .inr t =>
        match patchEntries s h pa n (i + 1) with
        | .inl e => .inl e
        | .inr l => .inr ((t, v) :: l)
    | _, _ => .inl 4

/-- Reads and checks a whole patch list (R161). -/
def patchList (s : State) (h pa : Nat) : Nat ⊕ List (PatchTarget × Word) :=
  match physWord s pa, physWord s (pa + 8) with
  | some w, some v =>
    if w = 0 || 4096 < w.toNat || v ≠ 0 then .inl 3 else patchEntries s h pa w.toNat 0
  | _, _ => .inl 4

/-- Writes the entries in list order. -/
def applyPatches (s : State) (h : Nat) (l : List (PatchTarget × Word)) : State :=
  l.foldl (fun s e =>
    match e.1 with
    | .node n k => nset s n k 0 64 e.2.toNat
    | .place p => writeHome s p 8 e.2 false (ephWriter (some (hRealm s h)))) s

/-- Step 5 of R147 for one node. -/
def resetNode (s : State) (n : Nat) : State :=
  if nTemplate s n then s
  else
    let s := nset (nset (nset s n 0 60 4 1) n 0 50 1 0) n 0 32 8 (nget s n 0 40 8)
    let s := nset s n 1 32 32 (nget s n 1 0 32)
    [2, 10, 11, 12].foldl (fun s k => nset s n k 0 64 0) s

/-- Step 3 of R147: the header's RO fields but INSTANCE and REFUSED. -/
def resetHeader (s : State) (h seq : Nat) : State :=
  let s := nset (nset (nset s h 0 60 4 0) h 0 55 2 0) h 3 48 16 seq
  let s := nset (nset (nset s h 3 32 16 0) h 4 0 52 0) h 5 0 64 0
  nset (nset (nset s h 6 0 64 0) h 7 32 32 0) h 8 32 32 0

/-- A run starts (R147), its patches checked; its extent is its header's, or that of the run which held its trigger. A token of
the run before that is still in flight is not dropped (R148, log 83). -/
def startRun (s : State) (h k seq : Nat) (patches : List (PatchTarget × Word)) : State :=
  let s := s.modEph fun e => { e with runs := fset e.runs none h (some (extent s h)) }
  let s := applyPatches s h patches
  let s := nset s h 3 0 32 (hInstance s h + 1)
  let s := resetHeader s h seq
  let ids := hIds s h
  let mine (n : Nat) : Bool := ids.contains n || (hPool s h).contains n
  let s := s.modEph fun e =>
    { e with
      taken := e.taken.filter (!mine ·), live := e.live.filter (!mine ·)
      ready := e.ready.filter fun r => !mine r.1
      sweeps := fset e.sweeps {} h {}
      runTrigger := fset e.runTrigger 0 h k, heldTrigger := fset e.heldTrigger none h none }
  let s := ids.foldl resetNode s
  let s := nset s h 0 60 4 1
  let s := (hRoots s h).foldl (fun s n => if nStatus s n = 2 || !inGraph s h n then s else setReady s n) s
  setTrigseq s k false (BitVec.ofNat 16 seq)

/-- What the table walks for the launch records that a patch list names leave behind (R183, R185), up to the entry that refuses
it. -/
def notePatches (h pa : Nat) : Nat → Nat → State → State
  | 0, _, s => s
  | n + 1, i, s =>
    match physWord s (pa + 16 + 16 * i) with
    | none => s
    | some w =>
      let node := (w.extractLsb' 32 32).toNat
      let t :=
        if w.getLsbD 8 && inGraph s h node && nKind s node = 1 then
          noteWalk s (walkAgent 0 (hRealm s h))
            (((nword s node 4).extractLsb' 0 48).signExtend 64 + (w.extractLsb' 0 8).setWidth 64)
        else s
      match patchTarget s h w with
      | .inl _ => t
      | .inr _ => notePatches h pa n (i + 1) t

/-- A trigger starts a run, or is refused where its patch list is (R160). -/
def tryStart (s : State) (h k seq patch : Nat) : State :=
  if patch = 0 then startRun s h k seq []
  else
    let t :=
      match physWord s patch with
      | some w => if w.toNat ≤ 4096 then notePatches h patch w.toNat 0 s else s
      | none => s
    match patchList s h patch with
    | .inl code => refuseTrigger t k seq code
    | .inr l => startRun t h k seq l

/-- A trigger's effect (R160). -/
def triggerAct (s : State) (k : Nat) (v : Word) : State :=
  let seq := (v.extractLsb' 0 16).toNat
  let patch := (v.extractLsb' 16 48).toNat * 16
  let b := s.binding k
  let h := b.graph.toNat
  if b.bstat ≠ 2 then refuseTrigger s k seq 1
  else if !isRunning s h then tryStart s h k seq patch
  else if hHeld s h then refuseTrigger s k seq 2
  else
    let s := nset (nset (nset s h 0 56 1 1) h 3 32 16 seq) h 4 0 52 patch
    setTrigseq (s.modEph fun e => { e with heldTrigger := fset e.heldTrigger none h (some k) }) k false
      (BitVec.ofNat 16 seq)

/-- While the package is stopped, what reaches the Ephemeris is kept in arrival order: an end when its release is complete; of
what arrives in one cycle the faults first (R163). -/
def keepEvents (s : State) : State :=
  let e := s.eph
  let arrived := (e.faults.filter fun f => !nodeOwes s f.1).map (fun f => KeptEvent.failed f.1 f.2.1 f.2.2) ++
    (e.ends.filter fun x => !nodeOwes s x.1).map (fun x => KeptEvent.ended x.1 x.2) ++
    s.dones.filterMap fun d => d.node.map fun n => KeptEvent.launchDone n d.status
  { s with
    dones := s.dones.filter (·.node.isNone)
    eph := { e with faults := e.faults.filter (nodeOwes s ·.1), ends := e.ends.filter (nodeOwes s ·.1)
                    kept := e.kept ++ arrived } }

/-- A tile's failure reaches the node of its launch in the step of the cancel (R437), or is kept while the package is
stopped. -/
def failNode (s : State) (n : Nat) (code : BitVec 32) : State :=
  if ephRuns s then applyFault s n 3 code
  else (keepEvents s).modEph fun e => { e with kept := e.kept ++ [.failed n 3 code] }

/-- The Ephemeris acts on what it kept. -/
def actKept (s : State) : KeptEvent → State
  | .trigger k v => triggerAct s k v
  | .ended n killed => nodeEnded s n killed
  | .failed n reason code => applyFault s n reason code
  | .launchDone n status => launchEnded s n status

/-- At resume the Ephemeris acts on what it kept, in arrival order (R163). -/
def drainKept (s : State) : State := s.eph.kept.foldl actKept (s.modEph fun e => { e with kept := [] })

/-- TRIGGER (R159, R160): the host reaches BAR2 with the link up and the package brought up (R291, R305). While the package is
stopped, triggers are kept (R163). -/
def execTrigger (k : BitVec 15) (v : Word) (s : State) : Result :=
  .next (if !hostReaches s then s
    else if ephRuns s then triggerAct s k.toNat v
    else (keepEvents s).modEph fun e => { e with kept := e.kept ++ [.trigger k.toNat v] })

/-! ### Dispatch (R149, R150, R152) -/

/-- What a READY node meets at a decision: it may be dispatched, or a graph that sweeps or a launch with no free walker slot
holds it back (R149). -/
def dispatchable (s : State) (n : Nat) : Bool :=
  let h := nGraph s n
  nStatus s h ≠ 2 &&
    (if nKind s n ≠ 1 then true
     else
      match checkRecord s (sliceRouterOf (n % 16)) (hRealm s h) (((nword s n 4).extractLsb' 0 48).signExtend 64) (some n) with
      | .good _ w => (placeRoot s w).isSome
      | _ => true)

/-- The node that a shard dispatches: an aged one first, else the lowest PRIO, first in first out (R149). -/
def choosePick (s : State) (l : List (Nat × Nat)) : Option Nat :=
  match l.find? fun r => 64 ≤ r.2 with
  | some r => some r.1
  | none => [0, 1, 2, 3].findSome? fun p => (l.find? fun r => nPrio s r.1 = p).map (·.1)

/-- The core of a TASK node (R150, R152). -/
def taskCore (s : State) (n : Nat) (realm : BitVec 12) : Option Nat :=
  let p := nget s n 5 0 16
  let ok (c : Nat) : Bool := s.usableCore c && ownedBy s c realm
  if p < 2 ^ 15 then if ok (p % 4096) then some (p % 4096) else none
  else
    let l := ((List.range 16).map (16 * (p % 256) + ·)).filter ok
    let last := fget s.eph.lastCore 0 n
    (l.find? fun c => last < c + 1).orElse fun _ => l.head?

/-- The start of a TASK node's task (R150). -/
def nodeStart (s : State) (n : Nat) (realm : BitVec 12) : Start :=
  let prio := BitVec.ofNat 2 (nPrio s n)
  { engine := nget s n 0 51 1 = 1, prio, entry := entryPc ((nword s n 4).setWidth 46)
    args := [6, 7, 8, 9].map fun k => (nword s n k, false)
    budget := BitVec.ofNat 32 (nget s n 5 32 32), realm
    tinfo := taskInfo s.package 0xFFFF false false prio false 0 3, walkid := 0, nodeid := BitVec.ofNat 64 n, launch := 0 }

/-- Starts the body of a node that has become RUNNING (R150). -/
def startBody (s : State) (n : Nat) : State :=
  let h := nGraph s n
  let realm := hRealm s h
  match nKind s n with
  | 1 =>
    let va := ((nword s n 4).extractLsb' 0 48).signExtend 64
    match checkRecord s (sliceRouterOf (n % 16)) realm va (some n) with
    | .good phys w =>
      match placeRoot s w with
      | some k => takeWalker s k realm va phys (some n) none
      | none => s
    | _ => applyFault s n 2 0
  | 2 =>
    match taskCore s n realm with
    | none => applyFault s n 6 0
    | some c =>
      arriveStart (s.modEph fun e => { e with lastCore := fset e.lastCore 0 n (c + 1) }) c (nodeStart s n realm)
  | 3 =>
    let b := (nword s n 4).toNat
    let c := b % 4096
    let cls := b / 4096 % 64
    if handlerRealm ((s.core c).cls cls).handler ≠ realm then applyFault s n 5 0
    else (enableClass s c cls).modEph fun e => { e with ends := e.ends ++ [(n, false)] }
  | 4 =>
    let k := fget s.eph.runTrigger 0 h
    queueRecord s { trigger := k, w1 := recordWord1 (nget s h 3 48 16) 2 0 0 0 k
                    w2 := BitVec.ofNat 64 (hInstance s h * 2 ^ 32 + n), w3 := nword s n 4, note := some n }
  | _ => bodyEnd s n

/-- A node is dispatched: RUNNING, ATTEMPTS + 1, OUTST, its body starts (Table 6-5). -/
def dispatchNode (s : State) (n : Nat) : State :=
  let s := setOutst (setStatus (unready s n) n 3) n true
  let s := nset s n 10 48 8 (min 255 (nget s n 10 48 8 + 1))
  startBody (s.modEph fun e => { e with live := nput e.live n }) n

/-- The table walk for a LAUNCH node that a decision considers (R149, R185). -/
def noteLaunch (s : State) (n : Nat) : State :=
  if nKind s n ≠ 1 || nStatus s (nGraph s n) = 2 then s
  else
    noteWalk s (walkAgent (sliceRouterOf (n % 16)) (hRealm s (nGraph s n)))
      (((nword s n 4).extractLsb' 0 48).signExtend 64)

/-- NODE_DISPATCH: a shard's decision (R149). -/
def execNodeDispatch (shard : BitVec 4) (s : State) : Result :=
  if !ephRuns s then .next s
  else
    let s := ((s.eph.ready.map (·.1)).filter (· % 16 = shard.toNat)).foldl noteLaunch s
    let l := s.eph.ready.filter fun r => r.1 % 16 = shard.toNat && dispatchable s r.1
    match choosePick s l with
    | none => .next s
    | some n =>
      let s := s.modEph fun e => { e with ready := e.ready.map fun r => if l.contains r then (r.1, r.2 + 1) else r }
      .next (dispatchNode s n)

/-! ### Tokens (R148) -/

/-- One token at a node: the tokens left, if it counts. -/
def applyToken (s : State) (n : Nat) : State × Option Nat :=
  let t := nget s n 1 32 32
  if nStatus s n ≠ 1 || t = 0 then (s, none)
  else
    let s := nset s n 1 32 32 (t - 1)
    (if t = 1 then setReady s n else s, some (t - 1))

/-- TOKEN_DELIVERY: a shard applies the oldest token addressed to it (R148). -/
def execTokenDelivery (i : Nat) (s : State) : Result :=
  match takeAt s.eph.tokens i with
  | none => .next s
  | some (n, rest) =>
    if !ephRuns s || (s.eph.tokens.take i).any (fun m => m % 16 = n % 16) then .next s
    else .next (applyToken (s.modEph fun e => { e with tokens := rest }) n).1

/-! ### Final runs (R158) -/

/-- The node has ended: DONE, FAILED or CANCELLED with OUTST clear. -/
def hasEnded (s : State) (n : Nat) : Bool :=
  let v := nStatus s n
  (v = 5 || v = 6 || v = 7) && nget s n 0 50 1 = 0

/-- Writes of the run's ended tasks have yet to be performed at their homes (R296). -/
def runOwes (s : State) (h : Nat) : Bool :=
  s.owed.any fun o => (o.run.any fun n => ownGraph s n == some h) && !owedDone s o

/-- The run of a graph is final (R158). -/
def runEnded (s : State) (h : Nat) : Bool :=
  nStatus s h = 1 && (s.sweep h).pend.isEmpty && (s.sweep h).queue.isEmpty &&
    (hIds s h).all (fun n => nTemplate s n || hasEnded s n) &&
    (hPool s h).all fun n => !s.eph.taken.contains n || hasEnded s n

/-- RUN_FINAL: the run becomes final, its record is queued once its writes have been performed, and a held trigger starts (R158,
R160, R296). -/
def execRunFinal (graph : Nat) (s : State) : Result :=
  let h := graph
  if !ephRuns s || !isBound s h || !runEnded s h || runOwes s h || 256 ≤ s.host.queue.length then .next s
  else
    let done := nget s h 6 32 32
    let fail := nget s h 6 0 32
    let canc := nget s h 7 32 32
    let state := if fail = 0 && canc = 0 then 3 else if done = 0 then 5 else 4
    let k := fget s.eph.runTrigger 0 h
    let s := nset s h 0 60 4 state
    let s := queueRecord s
      { trigger := k, w1 := recordWord1 (nget s h 3 48 16) 0 state (nget s h 0 55 1) 0 k
        w2 := BitVec.ofNat 64 (hInstance s h * 2 ^ 32 + h)
        w3 := BitVec.ofNat 64 (done % 2 ^ 20 * 2 ^ 40 + fail % 2 ^ 20 * 2 ^ 20 + canc % 2 ^ 20) }
    match fget s.eph.heldTrigger none h with
    | none => .next (s.modEph fun e => { e with runs := fset e.runs none h none })
    | some k =>
      let seq := nget s h 3 32 16
      let patch := nget s h 4 0 52
      let s := (nset s h 0 56 1 0).modEph fun e => { e with heldTrigger := fset e.heldTrigger none h none }
      let t := tryStart s h k seq patch
      .next (if isRunning t h then t else t.modEph fun e => { e with runs := fset e.runs none h none })

/-! ### The GRAPH instructions (R164, R165, R394) -/

/-- The bound graph of a record: its header, one of its nodes, or a pool record in use. -/
def graphOf (s : State) (n : Nat) : Option Nat :=
  if n = 0 || 2 ^ 19 ≤ n then none
  else
    s.eph.bindings.findSome? fun p =>
      let h := p.2.graph.toNat
      if p.2.bstat = 2 && (n = h || inGraph s h n || (s.eph.taken.contains n && inPool s h n)) then some h
      else none

/-- Words of a record are poisoned. -/
def anyPoison (s : State) (n : Nat) (ks : List Nat) : Bool := ks.any fun k => s.mem.psn (nodeKey n k)

/-- The outcome of a graph instruction at its shard: an answer, or the GRAPH trap of a poisoned word (R268). -/
inductive GraphAnswer where
  | value (v : Word) (s : State)
  | poison

/-- The issuer is a node task whose node is not RUNNING (R164). -/
def issuerStopped (s : State) (q : WReq) : Bool :=
  match q.issuer with
  | some n => nStatus s n ≠ 3
  | none => false

/-- NSTAT's answer (R165). -/
def nstatWord (s : State) (h n : Nat) : Word :=
  let own := n ≠ h
  BitVec.ofNat 64 ((if own then nStatus s n else 15) + nStatus s h * 2 ^ 4 +
    (if own then min 0xFFFF (nget s n 1 32 32) else 0) * 2 ^ 8 + (if own then min 0xFFFF (nJoin s n) else 0) * 2 ^ 24 +
    hInstance s h % 2 ^ 16 * 2 ^ 40)

/-- The child record that NSPAWN makes from a template (R154). -/
def makeChild (s : State) (tm child parent : Nat) (arg : Word) : State :=
  let w0 := (nword s tm 0).toNat
  let iretry := nget s tm 0 40 8
  let s := (List.range 16).foldl (fun s k => nset s child k 0 64 (nword s tm k).toNat) s
  let s := nset s child 0 0 64 (w0 % 2 ^ 60)
  let s := nset (nset (nset s child 0 56 1 0) child 0 50 1 0) child 0 32 8 iretry
  let s := nset (nset (nset s child 1 32 32 0) child 2 0 64 parent) child 6 0 64 arg.toNat
  let s := [10, 11, 12].foldl (fun s k => nset s child k 0 64 0) s
  let s := s.modEph fun e => { e with taken := nput e.taken child }
  setReady (nset s parent 2 32 32 (nJoin s parent + 1)) child

/-- NSPAWN at the shard (R154, R165, Table 6-7). -/
def nspawnAct (s : State) (q : WReq) (h tm : Nat) : GraphAnswer :=
  match q.issuer with
  | none => .value (refusal 4 0) s
  | some p =>
    if anyPoison s tm (List.range 16) || anyPoison s p [0, 2] then .poison
    else if ownGraph s p ≠ some h || !nTemplate s tm || !inGraph s h tm then .value (refusal 5 0) s
    else
      match (hPool s h).find? fun n => !s.eph.taken.contains n with
      | none => .value (refusal 6 0) s
      | some c => .value (BitVec.ofNat 64 c) (makeChild s tm c p q.opB)

/-- A graph instruction at its shard: the reasons of Table 6-7 in order, then its effect. -/
def graphAct (s : State) (q : WReq) : GraphAnswer :=
  let n := q.opA.toNat
  match graphOf s n with
  | none => .value (refusal 1 0) s
  | some h =>
    if anyPoison s h [0, 3] || anyPoison s n [0] then .poison
    else if hRealm s h ≠ q.realm then .value (refusal 2 0) s
    else if q.fn = 2 then
      if n ≠ h && anyPoison s n [1, 2] then .poison else .value (nstatWord s h n) s
    else if issuerStopped s q then .value (refusal 3 0) s
    else if q.fn = 0 then nspawnAct s q h n
    else if n = h then .value (refusal 3 0) s
    else if anyPoison s n [1] then .poison
    else
      match applyToken s n with
      | (t, some left) => .value (BitVec.ofNat 64 left) t
      | (_, none) => .value (refusal 3 0) s

/-- GRAPH_ANSWER: the Ephemeris answers a graph instruction in one step, and the answer unlocks g[d]; a poisoned word makes
GRAPH pend at the context, g[d] as it was (R268, R394). -/
def execGraphAnswer (i : Nat) (s : State) : Result :=
  match takeAt s.eph.requests i with
  | none => .next s
  | some (q, rest) =>
    if !ephRuns s then .next s
    else
      let s := s.modEph fun e => { e with requests := rest }
      let d := BitVec.ofNat 5 q.d
      let at_ (s : State) (f : Ctx → Ctx) : State :=
        let x := s.ctxAt q.core q.slot
        if x.occupied && x.gen = q.gen then s.modCtxAt q.core q.slot f else s
      match graphAct s q with
      | .value v t => .next (at_ t fun x => (x.setReg d v false).setLock d false)
      | .poison => .next (at_ s fun x => { x.setLock d false with graphTrap := some (q.opA &&& 0xFFFFFFFF) })

/-- Sends a request to the Ephemeris: g[d] is locked until its answer (R164). -/
def sendGraph (fn : Nat) (d : Reg) (a b : Word) (s : State) : Result :=
  let issuer := if tiKind s.ctx.tinfo = 3 then some s.ctx.nodeid.toNat else none
  .next ((s.modEph fun e =>
    { e with requests := e.requests ++
        [{ core := s.cur.1, slot := s.cur.2, gen := s.ctx.gen, d := d.toNat, realm := s.agent.realm, fn, opA := a, opB := b,
           issuer }] }).modCtx fun x => (x.setLock d true).advance)

/-- NSPAWN (R154, R164). -/
def execNspawn (d a b : Reg) : State → Result :=
  unlessLocked [d] [a, b] fun s =>
    withClean [(a, 4), (b, 4)] (fun s => sendGraph 0 d (s.ctx.reg a) (s.ctx.reg b) s) s

/-- NSTAT (R164, R165). -/
def execNstat (d a : Reg) : State → Result :=
  unlessLocked [d] [a] fun s => withClean [(a, 4)] (fun s => sendGraph 2 d (s.ctx.reg a) 0 s) s

/-- NTOKEN (R164, R165): a release at PACKAGE scope (R153). -/
def execNtoken (d a : Reg) : State → Result :=
  unlessLocked [d] [a] fun s =>
    withClean [(a, 4)] (withRelease .package fun s => sendGraph 3 d (s.ctx.reg a) 0 s) s

end Sys2Proof.Machine
end

