-- ==== Sys2Proof/Machine/Device.lean ====
section
/-!
DEFINITION. Device registers: the blocks of BAR0 (Table 12-2), read and written as 64-bit words under their access codes
(R4, R5), and what a write of them sets off: GO (R305), STOP and RESUME (R281).
-/

namespace Sys2Proof.Machine

/-! ### Watchpoint control words (R287) -/

/-- The kinds of a watchpoint (Table 11-11). -/
inductive WatchKind where
  | core | slice | sram
  deriving DecidableEq, Repr

/-- A control word as it reads (Table 11-11). -/
def watchWord (k : WatchKind) (w : Watchpoint) : Word :=
  let core := k == .core
  let slice := k == .slice
  (if w.en then 0x8000000000000000 else 0) ||| (if core && w.rd then 0x4000000000000000 else 0) |||
    (if !core || w.wr then 0x2000000000000000 else 0) ||| (if core && w.x then 0x1000000000000000 else 0) |||
    (w.len.setWidth 64 <<< 54) ||| (if slice then (0 : Word) else w.realm.setWidth 64 <<< 42) |||
    (if !slice && w.rmatch then 0x20000000000 else 0) ||| (if slice then w.target.setWidth 64 else 0)

/-- A write of a control word: bits that the kind does not use are reserved, a LEN out of range leaves LEN. -/
def watchWrite (k : WatchKind) (w : Watchpoint) (v : Word) : Watchpoint :=
  let core := k == .core
  let slice := k == .slice
  let len : BitVec 6 := v.extractLsb' 54 6
  { w with
    en := v.getLsbD 63
    rd := core && v.getLsbD 62
    wr := core && v.getLsbD 61
    x := core && v.getLsbD 60
    len := if 3 ≤ len.toNat && len.toNat ≤ (if k == .sram then 19 else 47) then len else w.len
    realm := if slice then 0 else v.extractLsb' 42 12
    rmatch := !slice && v.getLsbD 41
    target := if slice then v.setWidth 22 else 0 }

/-! ### The floor map (R19, Table 1-5) -/

/-- A word of the floor map, by its index. -/
def floorWord (s : State) (i : Nat) : Word :=
  let bits (p : Nat → Bool) (n : Nat) : Word :=
    BitVec.ofNat 64 ((List.range 64).foldl (fun a j => if p (n + j) then a + 2 ^ j else a) 0)
  if i = 0 then
    BitVec.ofNat 64 (0x464D * 2 ^ 48 + 1 * 2 ^ 40 + ((List.range 4096).filter s.usableCore).length)
  else if i = 1 then
    let quads := (List.range 1024).filter fun q => [0, 1, 2, 3].all fun j => s.usableCore (4 * q + j)
    BitVec.ofNat 64 (quads.length * 2 ^ 16 + ((List.range 256).filter s.usableCluster).length)
  else if 8 ≤ i && i < 72 then bits s.usableCore (64 * (i - 8))
  else if 72 ≤ i && i < 76 then bits s.usableCluster (64 * (i - 72))
  else 0

/-! ### Reading -/

/-- The host interface block (Table 12-3). -/
def hostRead (h : HostIf) (o : Nat) : Word :=
  match o with
  | 0x00 => h.crbase.setWidth 64 <<< 5
  | 0x08 => (if h.cren then 0x8000000000000000 else 0) ||| (if h.crint then 0x4000000000000000 else 0) |||
      h.crlogn.setWidth 64
  | 0x10 => h.devseq
  | 0x18 => h.hostseq
  | 0x20 => h.crlost
  | 0x28 => h.hostbase.setWidth 64 <<< 30
  | 0x30 => h.aperbase.setWidth 64 <<< 30
  | 0x38 => (h.bootstat.setWidth 64 <<< 56) ||| (h.entry.setWidth 64 <<< 2)
  | _ => 0

/-- A router's block (R64); class 62 reads as VALID on VC 4 and class 63 as 0, whatever is written there (R66). -/
def routerRead (x : Router) (o : Nat) : Word :=
  if o = 0x3E0 then 0xC000000000000000
  else if 0x3E0 < o && o < 0x400 then 0
  else if o < 0x400 then
    let e := fget x.entries {} (o / 16)
    if o % 16 = 0 then e.word else e.localmask
  else if o < 0x438 then fget x.counters 0 ((o - 0x400) / 8)
  else if 0x800 ≤ o && o < 0xC00 then
    BitVec.ofNat 64 ((List.range 8).foldl (fun a j => a + (fget x.domainPorts 0 (o - 0x800 + j)).toNat * 2 ^ (8 * j)) 0)
  else 0

/-- A Wiolo port's block (Table 3-11). -/
def wioloRead (x : WioloPort) (o : Nat) : Word :=
  match o with
  | 0x00 => (x.state.setWidth 64 <<< 62) ||| (x.laneup.setWidth 64 <<< 32) ||| x.retries.setWidth 64
  | 0x08 => x.crcerr
  | 0x10 => x.heldcyc
  | _ => 0

/-- STOPCTL (Table 11-8). -/
def stopRead (x : StopCtl) (o : Nat) : Word :=
  match o with
  | 0x00 => (x.phase.setWidth 64 <<< 62) ||| (if x.serr then 0x2000000000000000 else 0)
  | 0x08 => x.stopbase.setWidth 64 <<< 20
  | 0x10 => x.stopcyc
  | _ => 0

/-- The package error ring (Table 11-7). -/
def errRead (x : ErrRing) (o : Nat) : Word :=
  if o = 0 then
    (x.base.setWidth 64 <<< 6) ||| (x.logn.setWidth 64 <<< 2) ||| (if x.cerec then 2 else 0) ||| (if x.en then 1 else 0)
  else if o = 8 then (x.lost.setWidth 64 <<< 32) ||| (x.count &&& 0xFFFFFFFF)
  else if 0x18 ≤ o && o ≤ 0x40 then fget x.ce 0 (o / 8 - 2)
  else 0

/-- HWSTEP of a die: 7 while TRIP is set (R306). -/
def Die.hwstep (x : Die) : Nat := if x.trip then 7 else 0

/-- A die's thermal block (Table 12-7). -/
def dieRead (x : Die) (o : Nat) : Word :=
  match o with
  | 0x00 => x.sense
  | 0x08 => x.tmax.setWidth 64
  | 0x10 => x.fwstep.setWidth 64
  | 0x18 => x.hi.setWidth 64
  | 0x20 => BitVec.ofNat 64 (x.hwstep * 256) ||| (if x.trip then 2 else 0) ||| (if x.alert then 1 else 0)
  | 0x28 => x.trippt.setWidth 64
  | _ => 0

/-- The word at a BAR0 offset (Table 12-2); offsets that no block names read 0. -/
def devRead (s : State) (o : Nat) : Word :=
  if o % 8 ≠ 0 then 0
  else if o < 0x1000 then hostRead s.host o
  else if o < 0x1280 then floorWord s ((o - 0x1000) / 8)
  else if 0x100000 ≤ o && o < 0x140000 then routerRead (s.router ((o - 0x100000) / 0x1000)) (o % 0x1000)
  else if 0x140000 ≤ o && o < 0x140400 then wioloRead (fget s.wioloPorts {} ((o - 0x140000) / 0x40)) (o % 0x40)
  else if 0x150000 ≤ o && o < 0x150800 then tagRead s ((o - 0x150000) / 0x100) (o % 0x100 / 8)
  else if o = 0x160000 then s.phys 0x38000000000
  else if o = 0x160008 then (s.eph.badnode.setWidth 64 <<< 32) ||| s.eph.badoff.setWidth 64
  else if 0x170000 ≤ o && o < 0x171000 then stopRead s.stop (o - 0x170000)
  else if 0x171000 ≤ o && o < 0x172000 then errRead s.errs (o - 0x171000)
  else if 0x180000 ≤ o && o < 0x188000 then
    let c := (o - 0x180000) / 8
    if isCore c then fget s.mem.ownCore 0 c else 0
  else if 0x188000 ≤ o && o < 0x188800 then
    let n := (o - 0x188000) / 8
    if isCluster n then fget s.mem.ownCluster 0 n else 0
  else if o = 0x189000 then s.mem.realmtab.setWidth 64 <<< 16
  else if 0x18B000 ≤ o && o < 0x18B400 then dieRead (s.die ((o - 0x18B000) / 0x40)) (o % 0x40)
  else if 0x190000 ≤ o && o < 0x190800 then
    let w := fget s.sliceWatch {} (2 * ((o - 0x190000) / 0x40) + o % 0x40 / 0x10)
    if o % 0x40 < 0x20 then (if o % 0x10 = 0 then w.addr else watchWord .slice w) else 0
  else if 0x200000 ≤ o && o < 0x240000 then bindRead s ((o - 0x200000) / 8)
  else if 0x300000 ≤ o && o < 0x320000 then
    let k := (o - 0x300000) / 4
    ((fget s.host.trigseq 0 (k + 1)).setWidth 64 <<< 32) ||| (fget s.host.trigseq 0 k).setWidth 64
  else 0

/-! ### Commands -/

/-- GO (R305): at stage 8 root firmware starts slot 7 of every usable core at ENTRY, with the floor map's address and the
core's number; at any other stage it is ignored. -/
def goWrite (s : State) (v : Word) : State :=
  let entry : BitVec 46 := v.extractLsb' 2 46
  let s : State := { s with host := { s.host with entry } }
  if !v.getLsbD 63 || s.host.bootstat ≠ 8 then s
  else
    let s := ((List.range 4096).filter s.usableCore).foldl (fun s c =>
      s.modCtxAt c 7 fun x =>
        let y : Ctx := { occupied := true, gen := x.gen, pc := entryPc entry }
        (y.setReg 4 (s.phys 0x30000001000) false).setReg 5 (BitVec.ofNat 64 c) false) s
    { s with host := { s.host with bootstat := 9 } }

/-- The 768 MiB save area lies in this package's LPDDR6 (R281). -/
def stopbaseValid (s : State) : Bool :=
  let a := s.stop.stopbase.toNat * 2 ^ 20
  a / 2 ^ 42 == s.package.toNat && a % 2 ^ 42 + 0x30000000 ≤ 2 ^ 40

/-- A write of STOPCTL's first word (R281): SERR is cleared by a 1; STOP starts a stop while RUNNING with a valid STOPBASE,
and else sets SERR; RESUME starts the resume while STOPPED; all else is ignored. -/
def stopctlWrite (s : State) (v : Word) : State :=
  let s : State := if v.getLsbD 61 then { s with stop := { s.stop with serr := false } } else s
  let cmd : BitVec 2 := v.setWidth 2
  if cmd = 1 then
    if s.stop.phase = 0 && stopbaseValid s then { s with stop := { s.stop with phase := 1, since := s.cycle.toNat } }
    else { s with stop := { s.stop with serr := true } }
  else if cmd = 2 && s.stop.phase = 2 then { s with stop := { s.stop with phase := 3 } }
  else s

/-! ### Writing -/

/-- Writes the host interface block (Table 12-3). -/
def hostWrite (s : State) (o : Nat) (v : Word) : State :=
  let h := s.host
  match o with
  | 0x00 => { s with host := { h with crbase := v.extractLsb' 5 59 } }
  | 0x08 =>
    { s with host := { h with cren := v.getLsbD 63, crint := v.getLsbD 62,
                              crlogn := if 4 ≤ (v.setWidth 4 : BitVec 4).toNat then v.setWidth 4 else h.crlogn } }
  | 0x18 => { s with host := { h with hostseq := v } }
  | 0x20 => { s with host := { h with crlost := v } }
  | 0x28 => { s with host := { h with hostbase := v.extractLsb' 30 34 } }
  | 0x30 => { s with host := { h with aperbase := v.extractLsb' 30 12 } }
  | 0x38 => goWrite s v
  | _ => s

/-- Writes a router's block (R64, R65, R77, R79). -/
def routerWrite (s : State) (n o : Nat) (v : Word) : State :=
  if o < 0x400 then routeClassWrite s n (o / 16) (o % 16 = 8) v
  else if o < 0x438 then s.modRouter n fun x => { x with counters := fset x.counters 0 ((o - 0x400) / 8) v }
  else if 0x800 ≤ o && o < 0xC00 then
    s.modRouter n fun x =>
      let ports := (List.range 8).foldl (fun m j => fset m 0 (o - 0x800 + j) (v.extractLsb' (8 * j) 8 &&& 0x8F))
        x.domainPorts
      { x with domainPorts := ports }
  else s

/-- Writes a Wiolo port's block (Table 3-11). Wiolo training is service firmware's: root firmware writes none of it (R302). -/
def wioloWrite (s : State) (who : Writer) (n o : Nat) (v : Word) : State :=
  if who = .rootFirmware then s else
  match o with
  | 0x00 => s.modPort n fun x => { x with retries := v.setWidth 32 }
  | 0x08 => s.modPort n fun x => { x with crcerr := v }
  | _ => s

/-- Writes the package error ring (Table 11-7, R442). Its draining, LOST and PHEAD, is service firmware's: root firmware
does not write them (R302). -/
def errWrite (s : State) (who : Writer) (o : Nat) (v : Word) : State :=
  let e := s.errs
  if o = 0 then
    let logn : BitVec 4 := v.extractLsb' 2 4
    { s with errs := { e with base := v.extractLsb' 6 46, logn := if logn.toNat ≤ 12 then logn else e.logn,
                              cerec := v.getLsbD 1, en := v.getLsbD 0 } }
  else if o = 8 then
    if who = .rootFirmware then s
    else
      { s with errs := { e with lost := v.extractLsb' 32 32, count := e.count.extractLsb' 32 32 ++ v.setWidth 32 } }
  else if 0x18 ≤ o && o ≤ 0x40 then { s with errs := { e with ce := fset e.ce 0 (o / 8 - 2) v } }
  else s

/-- The trip point that root firmware stores: at most 105.0 degrees (R306). -/
def tripPoint (v : BitVec 16) : BitVec 16 := if (0x0690#16).slt v then 0x0690 else v

/-- A new trip point: TRIP holds while TMAX is at or above it (R306). -/
def Die.setTrip (x : Die) (t : BitVec 16) : Die := { x with trippt := t, trip := t.sle x.tmax }

/-- Writes a die's thermal block (Table 12-7); only root firmware writes TRIPPT (R306), and it does not write FWSTEP and HI,
which are service firmware's (R302). -/
def dieWrite (s : State) (who : Writer) (d o : Nat) (v : Word) : State :=
  s.modDie d fun x =>
    match o with
    | 0x10 => if who = .rootFirmware then x else { x with fwstep := v.setWidth 3 }
    | 0x18 => if who = .rootFirmware then x else { x with hi := v.setWidth 16 }
    | 0x20 => if v.getLsbD 0 then { x with alert := false } else x
    | 0x28 => if who = .rootFirmware then x.setTrip (tripPoint (v.setWidth 16)) else x
    | _ => x

/-- Writes an ownership word; the bits that Table 7-4 reserves stay 0, and a number that names no unit ignores the
write (R170). -/
def ownerWrite (s : State) (cluster : Bool) (n : Nat) (v : Word) : State :=
  let v := v &&& 0xEFFFEFFFEFFFEFFF
  if cluster then
    if isCluster n then s.modMem fun m => { m with ownCluster := fset m.ownCluster 0 n v } else s
  else if isCore n then s.modMem fun m => { m with ownCore := fset m.ownCore 0 n v } else s

/-- Writes the word at a BAR0 offset. A register that a user context may not reach keeps its value under service
firmware (R4); STOPCTL is written by the host and by root firmware only (R281, R302). -/
def devWrite (s : State) (who : Writer) (o : Nat) (v : Word) : State :=
  if o % 8 ≠ 0 || (who == .serviceFirmware && devSuper o) then s
  else if o < 0x1000 then hostWrite s o v
  else if 0x100000 ≤ o && o < 0x140000 then routerWrite s ((o - 0x100000) / 0x1000) (o % 0x1000) v
  else if 0x140000 ≤ o && o < 0x140400 then wioloWrite s who ((o - 0x140000) / 0x40) (o % 0x40) v
  else if 0x150000 ≤ o && o < 0x150800 then tagWrite s ((o - 0x150000) / 0x100) (o % 0x100 / 8) v
  else if 0x170000 ≤ o && o < 0x171000 then
    if who = .supervisor || who = .serviceFirmware then s
    else if o = 0x170000 then stopctlWrite s v
    else if o = 0x170008 then { s with stop := { s.stop with stopbase := v.extractLsb' 20 32 } }
    else s
  else if 0x171000 ≤ o && o < 0x172000 then errWrite s who (o - 0x171000) v
  else if 0x180000 ≤ o && o < 0x188000 then ownerWrite s false ((o - 0x180000) / 8) v
  else if 0x188000 ≤ o && o < 0x188800 then ownerWrite s true ((o - 0x188000) / 8) v
  else if o = 0x189000 then s.modMem fun m => { m with realmtab := v.extractLsb' 16 36 }
  else if 0x18B000 ≤ o && o < 0x18B400 then dieWrite s who ((o - 0x18B000) / 0x40) (o % 0x40) v
  else if 0x190000 ≤ o && o < 0x190800 && o % 0x40 < 0x20 then
    let i := 2 * ((o - 0x190000) / 0x40) + o % 0x40 / 0x10
    let w := fget s.sliceWatch {} i
    let w' := if o % 0x10 = 0 then { w with addr := v } else watchWrite .slice w v
    { s with sliceWatch := fset s.sliceWatch {} i w' }
  else if 0x200000 ≤ o && o < 0x240000 then bindWrite s ((o - 0x200000) / 8) v
  else s

/-! ### The events -/

/-- REGISTER_WRITE: a BAR0 write by the host, a supervisor or firmware (R4, R292). -/
def execRegisterWrite (who : Writer) (off : BitVec 22) (v : Word) (s : State) : Result :=
  .next (if who = .host && !hostReaches s then s else devWrite s who off.toNat v)

/-- OWNERSHIP_WRITE (R170). -/
def execOwnershipWrite (cluster : Bool) (n : BitVec 12) (v : Word) (s : State) : Result :=
  .next (ownerWrite s cluster n.toNat v)

/-- HOSTSEQ_WRITE (R296). -/
def execHostseqWrite (v : Word) (s : State) : Result := .next (if hostReaches s then hostWrite s 0x18 v else s)

/-- GO: a write of the word that holds GO and ENTRY (R305). -/
def execGo (v : Word) (s : State) : Result := .next (if hostReaches s then goWrite s v else s)

/-- STOP: a write of STOPCTL with the STOP command (R281). -/
def execStop (v : Word) (s : State) : Result := .next (if (v.setWidth 2 : BitVec 2) = 1 then stopctlWrite s v else s)

/-- RESUME: a write of STOPCTL with the RESUME command (R281, R285). -/
def execResume (v : Word) (s : State) : Result := .next (if (v.setWidth 2 : BitVec 2) = 2 then stopctlWrite s v else s)

end Sys2Proof.Machine
end

