-- ==== Sys2Proof/Machine/Flags.lean ====
section
/-!
DEFINITION. Floating-point values, the one rounding of every operation with its flags (R216 to R232), conversions,
comparisons, and the activation functions (R238, R239). Bits are natural numbers below 2^width; a value is exact.
-/

namespace Sys2Proof.Machine

/-! ### Formats (R216, R217) -/

/-- Which special encodings a format has (Table 9-2). -/
inductive Special where
  /-- infinities and NaNs at E all ones -/
  | ieee
  /-- E4M3: no infinity, one NaN -/
  | nanOnly
  /-- none -/
  | none
  deriving DecidableEq, Repr

/-- A floating-point format: bits of E and of M, and its special encodings (Tables 9-1, 9-2). -/
structure FpFmt where
  eb : Nat
  mb : Nat
  special : Special
  deriving DecidableEq, Repr

def fp64 : FpFmt := ⟨11, 52, .ieee⟩
def fp32 : FpFmt := ⟨8, 23, .ieee⟩
def bf16 : FpFmt := ⟨8, 7, .ieee⟩
def fp16 : FpFmt := ⟨5, 10, .ieee⟩
def e4m3 : FpFmt := ⟨4, 3, .nanOnly⟩
def e5m2 : FpFmt := ⟨5, 2, .ieee⟩
def e3m2 : FpFmt := ⟨3, 2, .none⟩
def e2m3 : FpFmt := ⟨2, 3, .none⟩
def e2m1 : FpFmt := ⟨2, 1, .none⟩

/-- The bias: 2^(eb − 1) − 1 in every format of Table 9-1. -/
def FpFmt.bias (f : FpFmt) : Int := 2 ^ (f.eb - 1) - 1
/-- Sign, exponent and mantissa bits. -/
def FpFmt.width (f : FpFmt) : Nat := 1 + f.eb + f.mb
/-- The sign bit. -/
def FpFmt.signBit (f : FpFmt) : Nat := 2 ^ (f.eb + f.mb)
/-- The bits of the largest finite magnitude. -/
def FpFmt.maxFinite (f : FpFmt) : Nat :=
  match f.special with
  | .ieee => (2 ^ f.eb - 1) * 2 ^ f.mb - 1
  | .nanOnly => 2 ^ (f.eb + f.mb) - 2
  | .none => 2 ^ (f.eb + f.mb) - 1
/-- The bits of +infinity, in a format that has one. -/
def FpFmt.inf (f : FpFmt) : Nat := (2 ^ f.eb - 1) * 2 ^ f.mb
/-- The canonical NaN; +0 in a format without one (R217). -/
def FpFmt.nan (f : FpFmt) : Nat :=
  match f.special with
  | .ieee => (2 ^ f.eb - 1) * 2 ^ f.mb + 2 ^ (f.mb - 1)
  | .nanOnly => 2 ^ (f.eb + f.mb) - 1
  | .none => 0

/-! ### Flags (R228): NX, UF, OF, DZ, NV at bits 4 to 0 -/

/-- FFLAGS bits (Table 9-5). -/
abbrev Flags := BitVec 5
def flagNV : Flags := 1
def flagDZ : Flags := 2
def flagOF : Flags := 4
def flagUF : Flags := 8
def flagNX : Flags := 16

/-! ### Values -/

/-- An exact value: a NaN, an infinity, or (−1)^neg × m × 2^e. -/
inductive Fp where
  | nan (signalling : Bool)
  | inf (neg : Bool)
  | fin (neg : Bool) (m : Nat) (e : Int)
  deriving DecidableEq, Repr

/-- The value of the bits of a format (R216, R217). -/
def unpack (f : FpFmt) (x : Nat) : Fp :=
  let neg := x / f.signBit % 2 == 1
  let ex := x / 2 ^ f.mb % 2 ^ f.eb
  let man := x % 2 ^ f.mb
  if f.special == .ieee && ex == 2 ^ f.eb - 1 then
    if man == 0 then .inf neg else .nan (man < 2 ^ (f.mb - 1))
  else if f.special == .nanOnly && x % f.signBit == f.signBit - 1 then .nan false
  else if ex == 0 then .fin neg man (1 - f.bias - f.mb)
  else .fin neg (man + 2 ^ f.mb) (ex - f.bias - f.mb)

/-- Rounding modes with DYN resolved (Table 9-4). -/
inductive RMode where
  | rne | rna | rtz | rtp | rtn
  deriving DecidableEq, Repr

/-- The mode that FRM names; FRM never holds 5 to 7 (R223). -/
def RMode.ofFrm (x : BitVec 3) : RMode :=
  match x.toNat with
  | 1 => .rna | 2 => .rtz | 3 => .rtp | 4 => .rtn | _ => .rne

/-- The mode of an instruction's field, DYN from FRM (R224). -/
def rmMode (r : Rm) (frm : BitVec 3) : RMode :=
  match r with
  | .rne => .rne | .rna => .rna | .rtz => .rtz | .rtp => .rtp | .rtn => .rtn | .dyn => .ofFrm frm

/-- The magnitude hi + (a part strictly between 0 and 1 described by half, below, above) rounds up: `cmp` is the lost
part against one half (0 exact, 1 below, 2 tie, 3 above). -/
def roundsUp (r : RMode) (neg odd : Bool) (cmp : Nat) : Bool :=
  match r with
  | .rne => cmp == 3 || (cmp == 2 && odd)
  | .rna => 2 ≤ cmp
  | .rtz => false
  | .rtp => !neg && cmp != 0
  | .rtn => neg && cmp != 0

/-- The magnitude m × 2^e, or slightly more when sticky, as a multiple of 2^q: rounded quotient, and whether it is
inexact. -/
def quantise (r : RMode) (neg : Bool) (m : Nat) (e q : Int) (sticky : Bool) : Nat × Bool :=
  if q ≤ e then
    let hi := m * 2 ^ (e - q).toNat
    (hi + (if roundsUp r neg (hi % 2 == 1) (if sticky then 1 else 0) then 1 else 0), sticky)
  else
    let k := (q - e).toNat
    let hi := m / 2 ^ k
    let lo := m % 2 ^ k
    let half := 2 ^ (k - 1)
    let cmp := if lo == 0 then (if sticky then 1 else 0) else if lo < half then 1
      else if lo == half then (if sticky then 3 else 2) else 3
    (hi + (if roundsUp r neg (hi % 2 == 1) cmp then 1 else 0), cmp != 0)

/-- The bits of the magnitude h × 2^q in a format, with q at least the subnormal quantum and h at most 2^(mb+1). -/
def packMag (f : FpFmt) (h : Nat) (q : Int) : Nat :=
  if h < 2 ^ f.mb then h
  else h - 2 ^ f.mb + (q + f.mb + f.bias).toNat * 2 ^ f.mb

/-- Overflow delivers an infinity rather than the largest finite value (Table 9-4). -/
def overflowsToInf (r : RMode) (neg : Bool) : Bool :=
  match r with
  | .rne | .rna => true
  | .rtz => false
  | .rtp => !neg
  | .rtn => neg

/-- Rounds the exact value (−1)^neg × m × 2^e (slightly more in magnitude when sticky) to a format once, with the flags
of R228; overflow follows Table 9-4, or R232 in a format without infinity. -/
def roundTo (f : FpFmt) (r : RMode) (neg : Bool) (m : Nat) (e : Int) (sticky : Bool) : Nat × Flags :=
  let sgn := if neg then f.signBit else 0
  if m == 0 && !sticky then (sgn, 0)
  else
    let top : Int := e + Nat.log2 m
    let qu := top - f.mb
    let qmin := 1 - f.bias - f.mb
    let (hu, _) := quantise r neg m e qu sticky
    let tiny := hu != 0 && (hu : Int) * 2 ^ (qu - qmin).toNat < 2 ^ f.mb * 2 ^ (qmin - qu).toNat
    let q := max qu qmin
    let (h, inexact) := quantise r neg m e q sticky
    let bits := if h == 2 ^ (f.mb + 1) then packMag f (2 ^ f.mb) (q + 1) else packMag f h q
    if f.maxFinite < bits then
      let big := if f.special == .ieee && overflowsToInf r neg then f.inf else f.maxFinite
      (sgn + big, flagOF ||| flagNX)
    else
      (sgn + bits, (if inexact then flagNX else 0) ||| (if tiny && inexact then flagUF else 0))

/-- NaN as a result, with NV where a rule says so; a format without NaN delivers +0 and NV (R217). -/
def nanResult (f : FpFmt) (nv : Bool) : Nat × Flags :=
  (f.nan, if nv || f.special == .none then flagNV else 0)

/-- A result of no rounding: a signed infinity (or the largest finite value with NV, R232, in a format without). -/
def infResult (f : FpFmt) (neg : Bool) : Nat × Flags :=
  let sgn := if neg then f.signBit else 0
  if f.special == .ieee then (sgn + f.inf, 0) else (sgn + f.maxFinite, flagNV)

/-- The value is a signalling NaN. -/
def Fp.isSnan : Fp → Bool
  | .nan s => s
  | _ => false

/-- The value is a NaN. -/
def Fp.isNan : Fp → Bool
  | .nan _ => true
  | _ => false

/-- The value with its sign changed. -/
def Fp.negate : Fp → Fp
  | .nan s => .nan s
  | .inf n => .inf !n
  | .fin n m e => .fin (!n) m e

/-- The sign. -/
def Fp.neg : Fp → Bool
  | .nan _ => false
  | .inf n => n
  | .fin n _ _ => n

/-- The sum of two finite values as an exact value; an exact zero of unlike signs is +0, or −0 under RTN (R225). -/
def addExact (r : RMode) (n1 : Bool) (m1 : Nat) (e1 : Int) (n2 : Bool) (m2 : Nat) (e2 : Int) : Bool × Nat × Int :=
  let e := min e1 e2
  let a : Int := m1 * 2 ^ (e1 - e).toNat
  let b : Int := m2 * 2 ^ (e2 - e).toNat
  let x := (if n1 then -a else a) + (if n2 then -b else b)
  if x = 0 then (if n1 == n2 then n1 else r == .rtn, 0, e)
  else (decide (x < 0), x.natAbs, e)

/-- Addition of two values, rounded once (R225, R226). -/
def fpAdd (f : FpFmt) (r : RMode) (x y : Fp) : Nat × Flags :=
  match x, y with
  | .nan s, .nan t => nanResult f (s || t)
  | .nan s, _ => nanResult f s
  | _, .nan t => nanResult f t
  | .inf a, .inf b => if a == b then infResult f a else nanResult f true
  | .inf a, .fin _ _ _ => infResult f a
  | .fin _ _ _, .inf b => infResult f b
  | .fin n1 m1 e1, .fin n2 m2 e2 =>
    let (n, m, e) := addExact r n1 m1 e1 n2 m2 e2
    roundTo f r n m e false

/-- Subtraction. -/
def fpSub (f : FpFmt) (r : RMode) (x y : Fp) : Nat × Flags := fpAdd f r x y.negate

/-- Multiplication. -/
def fpMul (f : FpFmt) (r : RMode) (x y : Fp) : Nat × Flags :=
  match x, y with
  | .nan s, .nan t => nanResult f (s || t)
  | .nan s, _ => nanResult f s
  | _, .nan t => nanResult f t
  | .inf a, .inf b => infResult f (a != b)
  | .inf a, .fin b m _ => if m == 0 then nanResult f true else infResult f (a != b)
  | .fin a m _, .inf b => if m == 0 then nanResult f true else infResult f (a != b)
  | .fin a m1 e1, .fin b m2 e2 => roundTo f r (a != b) (m1 * m2) (e1 + e2) false

/-- Division: a finite nonzero value by zero raises DZ (R228). -/
def fpDiv (f : FpFmt) (r : RMode) (x y : Fp) : Nat × Flags :=
  match x, y with
  | .nan s, .nan t => nanResult f (s || t)
  | .nan s, _ => nanResult f s
  | _, .nan t => nanResult f t
  | .inf _, .inf _ => nanResult f true
  | .inf a, .fin b _ _ => infResult f (a != b)
  | .fin a _ _, .inf b => ((if a != b then f.signBit else 0), 0)
  | .fin a m1 e1, .fin b m2 e2 =>
    if m2 == 0 then
      if m1 == 0 then nanResult f true
      else let (v, _) := infResult f (a != b); (v, flagDZ)
    else
      let k := 130 + Nat.log2 m2
      let n := m1 * 2 ^ k
      roundTo f r (a != b) (n / m2) (e1 - e2 - k) (n % m2 != 0)

/-- The integer square root, found from bit i down: r is the root so far. -/
def isqrtFrom (n : Nat) : Nat → Nat → Nat
  | 0, r => r
  | i + 1, r => isqrtFrom n i (if (r + 2 ^ i) * (r + 2 ^ i) ≤ n then r + 2 ^ i else r)

/-- The integer square root of n. -/
def isqrt (n : Nat) : Nat := isqrtFrom n (Nat.log2 n / 2 + 1) 0

/-- Square root; below −0 it is NaN with NV (R226). -/
def fpSqrt (f : FpFmt) (r : RMode) (x : Fp) : Nat × Flags :=
  match x with
  | .nan s => nanResult f s
  | .inf n => if n then nanResult f true else infResult f false
  | .fin n m e =>
    if m == 0 then ((if n then f.signBit else 0), 0)
    else if n then nanResult f true
    else
      let odd := e % 2
      let v := m * 2 ^ (260 + odd.toNat)
      let q := isqrt v
      roundTo f r false q ((e - odd - 260) / 2) (q * q != v)

/-- x × y + z, rounded once; a zero times an infinity is NV even with a quiet NaN addend (R226). -/
def fpFma (f : FpFmt) (r : RMode) (x y z : Fp) : Nat × Flags :=
  let snan := x.isSnan || y.isSnan || z.isSnan
  let zeroInf := match x, y with
    | .inf _, .fin _ m _ => m == 0
    | .fin _ m _, .inf _ => m == 0
    | _, _ => false
  if snan || zeroInf then nanResult f true
  else if x.isNan || y.isNan || z.isNan then nanResult f false
  else
    let pn := x.neg != y.neg
    match x, y, z with
    | .fin _ m1 e1, .fin _ m2 e2, .fin n3 m3 e3 =>
      let (n, m, e) := addExact r pn (m1 * m2) (e1 + e2) n3 m3 e3
      roundTo f r n m e false
    | .fin _ _ _, .fin _ _ _, .inf n3 => infResult f n3
    | _, _, .inf n3 => if pn == n3 then infResult f pn else nanResult f true
    | _, _, _ => infResult f pn

/-! ### Comparisons (R227) -/

/-- The order of two values that are no NaN; −0 equals +0. -/
def fpCmp (x y : Fp) : Ordering :=
  match x, y with
  | .inf a, .inf b => if a == b then .eq else if a then .lt else .gt
  | .inf a, _ => if a then .lt else .gt
  | _, .inf b => if b then .gt else .lt
  | .fin n1 m1 e1, .fin n2 m2 e2 =>
    let e := min e1 e2
    let a : Int := m1 * 2 ^ (e1 - e).toNat
    let b : Int := m2 * 2 ^ (e2 - e).toNat
    compare (if n1 then -a else a) (if n2 then -b else b)
  | _, _ => .eq

/-- FEQ, FLT and FLE as a condition and flags: `quiet` for FEQ, whose NV needs a signalling NaN. -/
def fpCompare (quiet : Bool) (ok : Ordering → Bool) (x y : Fp) : Bool × Flags :=
  if x.isNan || y.isNan then (false, if !quiet || x.isSnan || y.isSnan then flagNV else 0) else (ok (fpCmp x y), 0)

/-- FMIN and FMAX on bits: −0 is below +0; one NaN gives the other operand; two give the canonical NaN (R227). -/
def fpMinMax (f : FpFmt) (isMax : Bool) (a b : Nat) : Nat × Flags :=
  let x := unpack f a
  let y := unpack f b
  let fl := if x.isSnan || y.isSnan then flagNV else 0
  if x.isNan && y.isNan then (f.nan, fl)
  else if x.isNan then (b, fl)
  else if y.isNan then (a, fl)
  else
    match fpCmp x y with
    | .lt => (if isMax then b else a, fl)
    | .gt => (if isMax then a else b, fl)
    | .eq => (if isMax then (if x.neg then b else a) else (if x.neg then a else b), fl)

/-- FCLASS is in Machine/ScalarFp.lean; this tells a subnormal from a normal value. -/
def isSubnormal (f : FpFmt) (x : Nat) : Bool := x / 2 ^ f.mb % 2 ^ f.eb == 0 && x % 2 ^ f.mb != 0

/-! ### Conversions (R231, R232) -/

/-- A conversion between floating-point formats. -/
def fpConvert (dst : FpFmt) (r : RMode) (x : Fp) : Nat × Flags :=
  match x with
  | .nan s => nanResult dst s
  | .inf n => infResult dst n
  | .fin n m e => roundTo dst r n m e false

/-- A conversion to an integer of w bits: rounded value clamped to the range (R231). -/
def fpToInt (signed : Bool) (w : Nat) (r : RMode) (x : Fp) : Int × Flags :=
  let lo : Int := if signed then -(2 ^ (w - 1)) else 0
  let hi : Int := if signed then 2 ^ (w - 1) - 1 else 2 ^ w - 1
  match x with
  | .nan _ => (0, flagNV)
  | .inf n => (if n then lo else hi, flagNV)
  | .fin n m e =>
    let (h, inexact) := quantise r n m e 0 false
    let v : Int := if n then -(h : Int) else h
    if v < lo then (lo, flagNV) else if hi < v then (hi, flagNV) else (v, if inexact then flagNX else 0)

/-- A conversion from an integer. -/
def intToFp (dst : FpFmt) (r : RMode) (v : Int) : Nat × Flags := roundTo dst r (decide (v < 0)) v.natAbs 0 false

/-! ### Activation functions (R238, R239) -/

/-- 2^f for the fraction of which `bits` bits remain to be read, most significant first: root is 2^(2^−i) × 2^128, acc the
product so far × 2^128. -/
def exp2Frac (frac : Nat) : Nat → Nat → Nat → Nat
  | 0, _, acc => acc
  | n + 1, root, acc =>
    let root' := isqrt (root * 2 ^ 128)
    exp2Frac frac n root' (if frac / 2 ^ n % 2 == 1 then acc * root' / 2 ^ 128 else acc)

/-- 2^x for a finite x, correctly rounded to FP32 under RNE (R238). A fraction beyond 2^−60 does not alter the rounding:
the value is never so near a tie, which is at least 2^−25 from 1. -/
def exp2c (x : Fp) : Nat × Flags :=
  match x with
  | .nan s => nanResult fp32 s
  | .inf n => if n then (0, 0) else (fp32.inf, 0)
  | .fin neg m e =>
    if m == 0 then (0x3F800000, 0)
    else if 2 ^ 12 ≤ m * 2 ^ e.toNat / 2 ^ (-e).toNat then
      if neg then roundTo fp32 .rne false 1 (-2000) true else roundTo fp32 .rne false 1 2000 true
    else
      let scaled : Int := (m * 2 ^ (e + 60).toNat / 2 ^ (-(e + 60)).toNat : Nat)
      let lost := m * 2 ^ (e + 60).toNat % 2 ^ (-(e + 60)).toNat != 0
      let v : Int := if neg then -scaled - (if lost then 1 else 0) else scaled
      let n := v / 2 ^ 60
      let frac := (v % 2 ^ 60).toNat
      let exact := frac == 0 && !lost
      roundTo fp32 .rne false (exp2Frac frac 60 (2 * 2 ^ 128) (2 ^ 128)) (n - 128) (!exact)

/-- 1 ÷ x correctly rounded to FP32, with DZ on a zero (R238, R239). -/
def rcpc (x : Fp) : Nat × Flags := fpDiv fp32 .rne (.fin false 1 0) x

/-- 1 ÷ √x correctly rounded to FP32 (R238, R239). -/
def rsqc (x : Fp) : Nat × Flags :=
  match x with
  | .nan s => nanResult fp32 s
  | .inf n => if n then nanResult fp32 true else (0, 0)
  | .fin n m e =>
    if m == 0 then ((if n then fp32.signBit else 0) + fp32.inf, flagDZ)
    else if n then nanResult fp32 true
    else
      -- 1/√(m·2^e): with e even, the root of 2^(2k)/m scaled
      let odd := e % 2
      let d := m * 2 ^ odd.toNat
      let k := 200 + Nat.log2 d
      let v := 2 ^ (2 * k) / d
      let q := isqrt v
      roundTo fp32 .rne false q (-k - (e - odd) / 2) (q * q * d != 2 ^ (2 * k))

/-- FP32 steps of R238, flags left out. -/
def f32 (x : Nat) : Fp := unpack fp32 x
def mul32 (x y : Nat) : Nat := (fpMul fp32 .rne (f32 x) (f32 y)).1
def add32 (x y : Nat) : Nat := (fpAdd fp32 .rne (f32 x) (f32 y)).1
def neg32 (x : Nat) : Nat := if x < 2 ^ 31 then x + 2 ^ 31 else x - 2 ^ 31
def abs32 (x : Nat) : Nat := x % 2 ^ 31

/-- The logistic, code 6 (R238). -/
def actLogistic (x : Nat) : Nat :=
  let e := (exp2c (f32 (mul32 (neg32 (abs32 x)) 0x3FB8AA3B))).1
  let q := (rcpc (f32 (add32 0x3F800000 e))).1
  if x < 2 ^ 31 || x == 2 ^ 31 then q else mul32 e q

/-- The hyperbolic tangent, code 7 (R238). -/
def actTanh (x : Nat) : Nat :=
  if abs32 x < 0x39800000 then x
  else
    let e := (exp2c (f32 (mul32 (neg32 (abs32 x)) 0x4038AA3B))).1
    let r := mul32 (add32 0x3F800000 (neg32 e)) (rcpc (f32 (add32 0x3F800000 e))).1
    abs32 r + (if x < 2 ^ 31 then 0 else 2 ^ 31)

/-- The flags of codes 1, 2, 6 and 7 for a finite nonzero input (R239). -/
def actFlags (exact : Bool) (r : Nat) : Flags :=
  (if exact then 0 else flagNX) ||| (if abs32 r < 2 ^ 23 then flagUF else 0)

/-- act(code, x) with its flags (R238, Table 9-6). -/
def act (c : ActCode) (x : Nat) : Nat × Flags :=
  let v := f32 x
  match v with
  | .nan s => nanResult fp32 s
  | .inf n =>
    match c with
    | .relu => (if n then 0 else fp32.inf, 0)
    | .gelu | .silu => (if n then 2 ^ 31 else fp32.inf, 0)
    | .exp2 => (if n then 0 else fp32.inf, 0)
    | .rcp => (if n then 2 ^ 31 else 0, 0)
    | .rsq => if n then nanResult fp32 true else (0, 0)
    | .logi => (if n then 0 else 0x3F800000, 0)
    | .tanh => (if n then 0xBF800000 else 0x3F800000, 0)
  | .fin n m _ =>
    match c with
    | .relu => (if n || m == 0 then 0 else x, 0)
    | .exp2 => exp2c v
    | .rcp => rcpc v
    | .rsq => rsqc v
    | .logi => if m == 0 then (0x3F000000, 0) else let r := actLogistic x; (r, actFlags false r)
    | .tanh => if m == 0 then (x, 0) else let r := actTanh x; (r, actFlags (abs32 x < 0x39800000) r)
    | .silu => if m == 0 then (x, 0) else let r := mul32 x (actLogistic x); (r, actFlags false r)
    | .gelu =>
      if m == 0 then (x, 0)
      else let r := mul32 x (actLogistic (mul32 0x3FD9DB23 x)); (r, actFlags false r)

end Sys2Proof.Machine
end

