-- ==== Sys2Proof/Machine/Integer.lean ====
section
/-!
DEFINITION. The integer families: OPR, immediates, bit fields, branches and jumps (R343 to R345, R349 to R351, R355,
R357, R358, R365, R382, R388, R390, R393, R395, R397, R398, R402 to R404, R411, R436).
-/

namespace Sys2Proof.Machine

/-! ### Shared operations -/

/-- A result written to g[d]: a full overwrite whose tag is the OR of the tags of the registers read (R342). -/
def Ctx.result (x : Ctx) (d : Reg) (srcs : List Reg) (v : Word) : Ctx := (x.setReg d v (srcs.any x.psn)).advance

/-- An instruction whose whole effect is one result in g[d], computed from the registers it reads (R342); it stalls
while one of them is locked (R244, R384). -/
def regResult (d : Reg) (srcs : List Reg) (v : Ctx → Word) : State → Result :=
  unlessLocked [d] srcs fun s => .next (s.modCtx fun x => x.result d srcs (v x))

/-- The low 32 bits, sign-extended (R220). -/
def sext32 (x : Word) : Word := (x.setWidth 32).signExtend 64

/-- The .W form of an operation, or the 64-bit one (R220). -/
def wide (w : Bool) (f32 : BitVec 32 → BitVec 32) (f64 : Word → Word) (x : Word) : Word :=
  if w then (f32 (x.setWidth 32)).signExtend 64 else f64 x

/-- The .W form of an operation of two operands, or the 64-bit one (R220). -/
def wide2 (w : Bool) (f32 : BitVec 32 → BitVec 32 → BitVec 32) (f64 : Word → Word → Word) (x y : Word) : Word :=
  if w then (f32 (x.setWidth 32) (y.setWidth 32)).signExtend 64 else f64 x y

/-- The signed quotient of Table 9-3. -/
def quotS {n : Nat} (x y : BitVec n) : BitVec n := if y = 0 then BitVec.allOnes n else BitVec.ofInt n (x.toInt.tdiv y.toInt)

/-- The unsigned quotient of Table 9-3. -/
def quotU {n : Nat} (x y : BitVec n) : BitVec n :=
  if y = 0 then BitVec.allOnes n else BitVec.ofNat n (x.toNat / y.toNat)

/-- The signed remainder of Table 9-3. -/
def remS {n : Nat} (x y : BitVec n) : BitVec n := if y = 0 then x else BitVec.ofInt n (x.toInt.tmod y.toInt)

/-- The unsigned remainder of Table 9-3. -/
def remU {n : Nat} (x y : BitVec n) : BitVec n := if y = 0 then x else BitVec.ofNat n (x.toNat % y.toNat)

/-- Shift amounts: 5 bits in the .W form, 6 bits else (R402). -/
def shlW {n : Nat} (k : Nat) (x y : BitVec n) : BitVec n := x <<< (y.toNat % 2 ^ k)
/-- Logical right shift by the low k bits of y (R402). -/
def shrW {n : Nat} (k : Nat) (x y : BitVec n) : BitVec n := x >>> (y.toNat % 2 ^ k)
/-- Arithmetic right shift by the low k bits of y (R402). -/
def sarW {n : Nat} (k : Nat) (x y : BitVec n) : BitVec n := x.sshiftRight (y.toNat % 2 ^ k)

/-- 1 when the condition holds, else 0 (R404). -/
def flag (b : Bool) : Word := if b then 1 else 0

/-- Zero bits below the lowest 1 bit, counted over the first n bits from bit i; n for none (R357). -/
def zerosUp (x : Nat) : Nat → Nat
  | 0 => 0
  | n + 1 => if x % 2 = 1 then 0 else 1 + zerosUp (x / 2) n

/-- Zero bits above the highest 1 bit of the first n bits (R357). -/
def zerosDown (x : Nat) : Nat → Nat
  | 0 => 0
  | n + 1 => if x.testBit n then 0 else 1 + zerosDown x n

/-- 1 bits among the first n bits (R397). -/
def onesIn (x : Nat) : Nat → Nat
  | 0 => 0
  | n + 1 => x % 2 + onesIn (x / 2) n

/-- A count over 32 or 64 bits (R357, R397). -/
def countBits (f : Nat → Nat → Nat) (w : Bool) (x : Word) : Word :=
  if w then BitVec.ofNat 64 (f (x.toNat % 2 ^ 32) 32) else BitVec.ofNat 64 (f x.toNat 64)

/-! ### OPR -/

/-- ADD (R343). -/
def execAdd (d a b : Reg) (w : Bool) : State → Result :=
  regResult d [a, b] fun x => wide2 w (· + ·) (· + ·) (x.reg a) (x.reg b)

/-- SUB (R411). -/
def execSub (d a b : Reg) (w : Bool) : State → Result :=
  regResult d [a, b] fun x => wide2 w (· - ·) (· - ·) (x.reg a) (x.reg b)

/-- AND (R349). -/
def execAnd (d a b : Reg) : State → Result := regResult d [a, b] fun x => x.reg a &&& x.reg b

/-- OR (R395). -/
def execOr (d a b : Reg) : State → Result := regResult d [a, b] fun x => x.reg a ||| x.reg b

/-- XOR (R436). -/
def execXor (d a b : Reg) : State → Result := regResult d [a, b] fun x => x.reg a ^^^ x.reg b

/-- SLL (R402). -/
def execSll (d a b : Reg) (w : Bool) : State → Result :=
  regResult d [a, b] fun x => wide2 w (shlW 5) (shlW 6) (x.reg a) (x.reg b)

/-- SRL (R402). -/
def execSrl (d a b : Reg) (w : Bool) : State → Result :=
  regResult d [a, b] fun x => wide2 w (shrW 5) (shrW 6) (x.reg a) (x.reg b)

/-- SRA (R402). -/
def execSra (d a b : Reg) (w : Bool) : State → Result :=
  regResult d [a, b] fun x => wide2 w (sarW 5) (sarW 6) (x.reg a) (x.reg b)

/-- SLT (R404). -/
def execSlt (d a b : Reg) : State → Result := regResult d [a, b] fun x => flag ((x.reg a).slt (x.reg b))

/-- SLTU (R404). -/
def execSltu (d a b : Reg) : State → Result := regResult d [a, b] fun x => flag ((x.reg a).ult (x.reg b))

/-- MIN (R390). -/
def execMin (d a b : Reg) : State → Result :=
  regResult d [a, b] fun x => if (x.reg b).slt (x.reg a) then x.reg b else x.reg a

/-- MAX (R390). -/
def execMax (d a b : Reg) : State → Result :=
  regResult d [a, b] fun x => if (x.reg a).slt (x.reg b) then x.reg b else x.reg a

/-- MINU (R390). -/
def execMinu (d a b : Reg) : State → Result :=
  regResult d [a, b] fun x => if (x.reg b).ult (x.reg a) then x.reg b else x.reg a

/-- MAXU (R390). -/
def execMaxu (d a b : Reg) : State → Result :=
  regResult d [a, b] fun x => if (x.reg a).ult (x.reg b) then x.reg b else x.reg a

/-- MUL (R393). -/
def execMul (d a b : Reg) (w : Bool) : State → Result :=
  regResult d [a, b] fun x => wide2 w (· * ·) (· * ·) (x.reg a) (x.reg b)

/-- MULH (R393). -/
def execMulh (d a b : Reg) : State → Result :=
  regResult d [a, b] fun x => BitVec.ofInt 64 ((x.reg a).toInt * (x.reg b).toInt / 2 ^ 64)

/-- MULHU (R393). -/
def execMulhu (d a b : Reg) : State → Result :=
  regResult d [a, b] fun x => BitVec.ofNat 64 ((x.reg a).toNat * (x.reg b).toNat / 2 ^ 64)

/-- DIV (R365). -/
def execDiv (d a b : Reg) (w : Bool) : State → Result :=
  regResult d [a, b] fun x => wide2 w quotS quotS (x.reg a) (x.reg b)

/-- DIVU (R365). -/
def execDivu (d a b : Reg) (w : Bool) : State → Result :=
  regResult d [a, b] fun x => wide2 w quotU quotU (x.reg a) (x.reg b)

/-- REM (R398). -/
def execRem (d a b : Reg) (w : Bool) : State → Result :=
  regResult d [a, b] fun x => wide2 w remS remS (x.reg a) (x.reg b)

/-- REMU (R398). -/
def execRemu (d a b : Reg) (w : Bool) : State → Result :=
  regResult d [a, b] fun x => wide2 w remU remU (x.reg a) (x.reg b)

/-- CMOVNZ (R358): not taken, g[d] keeps its value and its tag gathers the inputs'. -/
def execCmovnz (d a b : Reg) : State → Result :=
  unlessLocked [d] [a, b] fun s => .next (s.modCtx fun x =>
    if x.reg b ≠ 0 then x.result d [a, b] (x.reg a) else x.result d [d, a, b] (x.reg d))

/-- CMOVZ (R358). -/
def execCmovz (d a b : Reg) : State → Result :=
  unlessLocked [d] [a, b] fun s => .next (s.modCtx fun x =>
    if x.reg b = 0 then x.result d [a, b] (x.reg a) else x.result d [d, a, b] (x.reg d))

/-- CLZ (R357). -/
def execClz (d a : Reg) (w : Bool) : State → Result := regResult d [a] fun x => countBits zerosDown w (x.reg a)

/-- CTZ (R357). -/
def execCtz (d a : Reg) (w : Bool) : State → Result := regResult d [a] fun x => countBits zerosUp w (x.reg a)

/-- POPC (R397). -/
def execPopc (d a : Reg) (w : Bool) : State → Result := regResult d [a] fun x => countBits onesIn w (x.reg a)

/-! ### Immediates -/

/-- ADDI (R344). -/
def execAddi (d a : Reg) (i : BitVec 16) : State → Result := regResult d [a] fun x => x.reg a + i.signExtend 64

/-- ANDI (R349, R312). -/
def execAndi (d a : Reg) (i : BitVec 16) : State → Result := regResult d [a] fun x => x.reg a &&& i.setWidth 64

/-- ORI (R395). -/
def execOri (d a : Reg) (i : BitVec 16) : State → Result := regResult d [a] fun x => x.reg a ||| i.setWidth 64

/-- XORI (R436). -/
def execXori (d a : Reg) (i : BitVec 16) : State → Result := regResult d [a] fun x => x.reg a ^^^ i.setWidth 64

/-- SLTI (R404). -/
def execSlti (d a : Reg) (i : BitVec 16) : State → Result :=
  regResult d [a] fun x => flag ((x.reg a).slt (i.signExtend 64))

/-- SLTIU (R404). -/
def execSltiu (d a : Reg) (i : BitVec 16) : State → Result :=
  regResult d [a] fun x => flag ((x.reg a).ult (i.signExtend 64))

/-- SLLI (R403). -/
def execSlli (d a : Reg) (w : Bool) (k : BitVec 6) : State → Result :=
  regResult d [a] fun x => wide w (· <<< k.toNat) (· <<< k.toNat) (x.reg a)

/-- SRLI (R403). -/
def execSrli (d a : Reg) (w : Bool) (k : BitVec 6) : State → Result :=
  regResult d [a] fun x => wide w (· >>> k.toNat) (· >>> k.toNat) (x.reg a)

/-- SRAI (R403). -/
def execSrai (d a : Reg) (w : Bool) (k : BitVec 6) : State → Result :=
  regResult d [a] fun x => wide w (·.sshiftRight k.toNat) (·.sshiftRight k.toNat) (x.reg a)

/-- LUI (R388). -/
def execLui (d : Reg) (i : BitVec 16) : State → Result := regResult d [] fun _ => i.signExtend 64 <<< 16

/-- ADDPC (R345). -/
def execAddpc (d : Reg) (i : BitVec 16) : State → Result := regResult d [] fun x => x.pc + (i.signExtend 64) * 4

/-! ### Bit fields (R351), CELLKEY (R355) -/

/-- 2^n - 1. -/
def lowMask (n : Nat) : Word := BitVec.ofNat 64 (2 ^ n - 1)

/-- The field of n bits of x from bit p. -/
def bitField (x : Word) (p n : Nat) : Word := (x >>> p) &&& lowMask n

/-- x sign-extended from bit n - 1. -/
def sextFrom (x : Word) (n : Nat) : Word := (x <<< (64 - n)).sshiftRight (64 - n)

/-- BEXT (R351); l is the length less one. -/
def execBext (d a : Reg) (p l : BitVec 6) : State → Result :=
  regResult d [a] fun x => sextFrom (bitField (x.reg a) p.toNat (l.toNat + 1)) (l.toNat + 1)

/-- BEXTU (R351). -/
def execBextu (d a : Reg) (p l : BitVec 6) : State → Result :=
  regResult d [a] fun x => bitField (x.reg a) p.toNat (l.toNat + 1)

/-- BINS (R351); it reads g[d]. -/
def execBins (d a : Reg) (p l : BitVec 6) : State → Result :=
  regResult d [d, a] fun x =>
    (x.reg d &&& ~~~(lowMask (l.toNat + 1) <<< p.toNat)) ||| ((x.reg a &&& lowMask (l.toNat + 1)) <<< p.toNat)

/-- The Morton key of three 21-bit coordinates (R355). -/
def mortonKey (x : Word) : Word :=
  (List.range 21).foldl (fun k i =>
    k ||| (flag (x.getLsbD i) <<< (3 * i)) ||| (flag (x.getLsbD (21 + i)) <<< (3 * i + 1)) |||
      (flag (x.getLsbD (42 + i)) <<< (3 * i + 2))) 0

/-- CELLKEY (R355). -/
def execCellkey (d a : Reg) : State → Result := regResult d [a] fun x => mortonKey (x.reg a)

/-! ### Branches and jumps -/

/-- A branch (R350): a poisoned operand raises POISON with kind 3, g[a] first. -/
def branch (a b : Reg) (i : BitVec 16) (taken : Word → Word → Bool) : State → Result :=
  unlessLocked [] [a, b] fun s =>
    let x := s.ctx
    if x.psn a then trapPoison a 3 (x.reg a) 0 s
    else if x.psn b then trapPoison b 3 (x.reg b) 0 s
    else .next (s.modCtx fun x => x.jump (x.pc + if taken (x.reg a) (x.reg b) then i.signExtend 64 * 4 else 4))

/-- BEQ (Table 14-2). -/
def execBeq (a b : Reg) (i : BitVec 16) : State → Result := branch a b i fun x y => x == y
/-- BNE (Table 14-2). -/
def execBne (a b : Reg) (i : BitVec 16) : State → Result := branch a b i fun x y => x != y
/-- BLT (Table 14-2). -/
def execBlt (a b : Reg) (i : BitVec 16) : State → Result := branch a b i fun x y => x.slt y
/-- BGE (Table 14-2). -/
def execBge (a b : Reg) (i : BitVec 16) : State → Result := branch a b i fun x y => !x.slt y
/-- BLTU (Table 14-2). -/
def execBltu (a b : Reg) (i : BitVec 16) : State → Result := branch a b i fun x y => x.ult y
/-- BGEU (Table 14-2). -/
def execBgeu (a b : Reg) (i : BitVec 16) : State → Result := branch a b i fun x y => !x.ult y

/-- JAL (R382). -/
def execJal (d : Reg) (i : BitVec 21) : State → Result :=
  unlessLocked [d] [] fun s =>
    .next (s.modCtx fun x => (x.setReg d (x.pc + 4) false).jump (x.pc + i.signExtend 64 * 4))

/-- JALR (R382). -/
def execJalr (d a : Reg) (i : BitVec 16) : State → Result :=
  unlessLocked [d] [a] fun s =>
    let x := s.ctx
    let t := x.reg a + i.signExtend 64
    if x.psn a then trapPoison a 3 (x.reg a) 0 s
    else if t.extractLsb' 0 2 ≠ 0 then trap .align t 0 s
    else .next (s.modCtx fun x => (x.setReg d (x.pc + 4) false).jump t)

end Sys2Proof.Machine
end

