-- ==== Sys2Proof/Machine/ScalarFp.lean ====
section
/-!
DEFINITION. The scalar floating-point families: OPF and FMAC (R372 to R374, R377 to R380).
-/

namespace Sys2Proof.Machine

/-- The format of an fmt field (R316). -/
def fmtOf : FFmt → FpFmt
  | .f32 => fp32 | .f64 => fp64 | .bf16 => bf16 | .f16 => fp16

/-- operand(g, f) of R372: the format's low bits; the upper bits are ignored. -/
def operandBits (f : FpFmt) (g : Word) : Nat := g.toNat % 2 ^ f.width

/-- The operand's value. -/
def operand (f : FpFmt) (g : Word) : Fp := unpack f (operandBits f g)

/-- An instruction whose effect is a result in g[d], zero-extended from the computed bits, and flags in FFLAGS (R372,
R228). -/
def fpResult (d : Reg) (srcs : List Reg) (v : Ctx → Nat × Flags) : State → Result :=
  unlessLocked [d] srcs fun s =>
    let r := v s.ctx
    .next ((s.modCtx fun x => x.result d srcs (BitVec.ofNat 64 r.1)).raise s.cur.1 s.cur.2 r.2)

/-- A two-operand form of Table 15-1. -/
def fpArith (op : FpFmt → RMode → Fp → Fp → Nat × Flags) (d a b : Reg) (f : FFmt) (r : Rm) : State → Result :=
  fpResult d [a, b] fun x =>
    op (fmtOf f) (rmMode r x.frm) (operand (fmtOf f) (x.reg a)) (operand (fmtOf f) (x.reg b))

/-- FADD (R372). -/
def execFadd (d a b : Reg) (f : FFmt) (r : Rm) : State → Result := fpArith fpAdd d a b f r
/-- FSUB (R372). -/
def execFsub (d a b : Reg) (f : FFmt) (r : Rm) : State → Result := fpArith fpSub d a b f r
/-- FMUL (R372). -/
def execFmul (d a b : Reg) (f : FFmt) (r : Rm) : State → Result := fpArith fpMul d a b f r
/-- FDIV (R372). -/
def execFdiv (d a b : Reg) (f : FFmt) (r : Rm) : State → Result := fpArith fpDiv d a b f r

/-- FSQRT (R372). -/
def execFsqrt (d a : Reg) (f : FFmt) (r : Rm) : State → Result :=
  fpResult d [a] fun x => fpSqrt (fmtOf f) (rmMode r x.frm) (operand (fmtOf f) (x.reg a))

/-- FMIN (R379). -/
def execFmin (d a b : Reg) (f : FFmt) : State → Result :=
  fpResult d [a, b] fun x => fpMinMax (fmtOf f) false (operandBits (fmtOf f) (x.reg a)) (operandBits (fmtOf f) (x.reg b))

/-- FMAX (R379). -/
def execFmax (d a b : Reg) (f : FFmt) : State → Result :=
  fpResult d [a, b] fun x => fpMinMax (fmtOf f) true (operandBits (fmtOf f) (x.reg a)) (operandBits (fmtOf f) (x.reg b))

/-- A compare (R377): FEQ is quiet, FLT and FLE are not (R227). -/
def fpTest (quiet : Bool) (ok : Ordering → Bool) (d a b : Reg) (f : FFmt) : State → Result :=
  fpResult d [a, b] fun x =>
    let t := fpCompare quiet ok (operand (fmtOf f) (x.reg a)) (operand (fmtOf f) (x.reg b))
    (if t.1 then 1 else 0, t.2)

/-- FEQ (R377). -/
def execFeq (d a b : Reg) (f : FFmt) : State → Result := fpTest true (· == .eq) d a b f
/-- FLT (R377). -/
def execFlt (d a b : Reg) (f : FFmt) : State → Result := fpTest false (· == .lt) d a b f
/-- FLE (R377). -/
def execFle (d a b : Reg) (f : FFmt) : State → Result := fpTest false (· != .gt) d a b f

/-- The bit of FCLASS (Table 15-2). -/
def classBit (f : FpFmt) (x : Nat) : Nat :=
  match unpack f x with
  | .nan s => if s then 1 else 0
  | .inf n => if n then 9 else 2
  | .fin n m _ =>
    if m == 0 then (if n then 6 else 5)
    else if isSubnormal f x then (if n then 7 else 4)
    else (if n then 8 else 3)

/-- FCLASS (R373). -/
def execFclass (d a : Reg) (f : FFmt) : State → Result :=
  regResult d [a] fun x => BitVec.ofNat 64 (2 ^ classBit (fmtOf f) (operandBits (fmtOf f) (x.reg a)))

/-- Signed, and the width, of an itype (R316). -/
def itypeRange : IType → Bool × Nat
  | .i64 => (true, 64) | .n64 => (false, 64) | .i32 => (true, 32) | .n32 => (false, 32)

/-- FCVT.I (R374): an I32 result is sign-extended, the others are zero-extended. -/
def execFcvtI (d a : Reg) (t : IType) (f : FFmt) (r : Rm) : State → Result :=
  fpResult d [a] fun x =>
    let n := fpToInt (itypeRange t).1 (itypeRange t).2 (rmMode r x.frm) (operand (fmtOf f) (x.reg a))
    ((BitVec.ofInt 64 n.1).toNat, n.2)

/-- The integer FCVT.F converts (R374). -/
def itypeValue (t : IType) (g : Word) : Int :=
  match t with
  | .i64 => g.toInt
  | .n64 => g.toNat
  | .i32 => (g.setWidth 32).toInt
  | .n32 => (g.setWidth 32).toNat

/-- FCVT.F (R374). -/
def execFcvtF (d a : Reg) (t : IType) (f : FFmt) (r : Rm) : State → Result :=
  fpResult d [a] fun x => intToFp (fmtOf f) (rmMode r x.frm) (itypeValue t (x.reg a))

/-- FCVT.FF (R374). -/
def execFcvtFF (d a : Reg) (src f : FFmt) (r : Rm) : State → Result :=
  fpResult d [a] fun x => fpConvert (fmtOf f) (rmMode r x.frm) (operand (fmtOf src) (x.reg a))

/-- The result of FSGN (R380). -/
def signInject (f : FpFmt) (m : SgnMode) (x y : Nat) : Nat × Flags :=
  let sx := x / f.signBit % 2 == 1
  let sy := y / f.signBit % 2 == 1
  let s := match m with
    | .cpy => sy
    | .neg => !sy
    | .xor => sx != sy
  match unpack f x with
  | .nan sn => (f.nan, if sn then flagNV else 0)
  | .inf _ | .fin _ _ _ => (x % f.signBit + (if s then f.signBit else 0), 0)

/-- FSGN (R380). -/
def execFsgn (d a b : Reg) (f : FFmt) (m : SgnMode) : State → Result :=
  fpResult d [a, b] fun x => signInject (fmtOf f) m (operandBits (fmtOf f) (x.reg a)) (operandBits (fmtOf f) (x.reg b))

/-- A fused form of Table 15-3: the product and the addend, each negated or not. -/
def fused (negProd negAdd : Bool) (d a b c : Reg) (f64 : Bool) (r : Rm) : State → Result :=
  fpResult d [a, b, c] fun x =>
    let f := if f64 then fp64 else fp32
    let p := operand f (x.reg a)
    let z := operand f (x.reg c)
    fpFma f (rmMode r x.frm) (if negProd then p.negate else p) (operand f (x.reg b)) (if negAdd then z.negate else z)

/-- FMA (R378). -/
def execFma (d a b c : Reg) (f64 : Bool) (r : Rm) : State → Result := fused false false d a b c f64 r
/-- FMS (R378). -/
def execFms (d a b c : Reg) (f64 : Bool) (r : Rm) : State → Result := fused false true d a b c f64 r
/-- FNMA (R378). -/
def execFnma (d a b c : Reg) (f64 : Bool) (r : Rm) : State → Result := fused true false d a b c f64 r
/-- FNMS (R378). -/
def execFnms (d a b c : Reg) (f64 : Bool) (r : Rm) : State → Result := fused true true d a b c f64 r

end Sys2Proof.Machine
end

