-- ==== Sys2Proof/Machine/Memory.lean ====
section
/-!
DEFINITION. Scalar memory instructions: loads and stores (R383 to R387, R405, R406, R409, R410), FIFO ports (R180),
atomics (R346 to R348), fences (R204), full-empty words (R213, R214, R375, R376, R407, R408), QREAD and QSTORE (R189 to
R192), the CACHE family (R188), and the steps that perform posted accesses (R181, R384).
-/

namespace Sys2Proof.Machine

/-! ### FIFO ports (R180) -/

/-- The bank at a FIFO port. -/
def modBank (s : State) (n b : Nat) (f : Bank → Bank) : State :=
  s.modCluster n fun c => { c with banks := fset c.banks {} b (f (fget c.banks {} b)) }

/-- A sleeper at the port may be served: an entry for a pop, space for a push. -/
def Bank.served (b : Bank) : Bool :=
  match b.sleepers with
  | [] => false
  | (_, _, none, _) :: _ => !b.fifo.isEmpty
  | (_, _, some _, _) :: _ => b.fifo.length < 65536

/-- A load of a FIFO port: the count, or a pop, which is an acquire at CLUSTER scope and sleeps while the FIFO is empty. -/
def fifoLoad (d : Reg) (va : Word) (n b port : Nat) (s : State) : Result :=
  let k := s.bank n b
  if !settled s (.fifo n b port) 8 || k.served then stall s
  else if port = 8 then .next (s.modCtx fun x => (x.setReg d (BitVec.ofNat 64 k.fifo.length) false).advance)
  else
    match k.fifo with
    | (v, p) :: rest =>
      let s := modBank s n b fun k => { k with fifo := rest }
      .next ((acquire s .cluster).modCtx fun x => (x.setReg d v p).advance)
    | [] =>
      sleep .fifo va (modBank s n b fun k => { k with sleepers := k.sleepers ++ [(s.cur.1, s.cur.2, none, d.toNat)] })

/-- A store to a FIFO port: empties it, or pushes, which is a release at CLUSTER scope and sleeps while the FIFO is
full. -/
def fifoStore (va : Word) (n b port : Nat) (v : Word) (p : Bool) (s : State) : Result :=
  if port = 8 then
    if (s.bank n b).served || !settled s (.fifo n b port) 8 then stall s
    else .next ((modBank s n b fun k => { k with fifo := [] }).modCtx Ctx.advance)
  else
    withRelease .cluster (fun s =>
      let k := s.bank n b
      if k.served then stall s
      else if k.fifo.length < 65536 then
        .next ((modBank s n b fun k => { k with fifo := k.fifo ++ [(v, p)] }).modCtx Ctx.advance)
      else
        sleep .fifo va
          (modBank s n b fun k => { k with sleepers := k.sleepers ++ [(s.cur.1, s.cur.2, some (v, p), 0)] })) s

/-- FIFO_PORT_WAKE: the port serves its oldest sleeper when it can; the waiting instruction completes (R180). -/
def execFifoPortWake (cluster : BitVec 8) (bank : BitVec 4) (s : State) : Result :=
  let n := cluster.toNat
  let b := bank.toNat
  let k := s.bank n b
  if !k.served then .next s
  else
    match k.sleepers, k.fifo with
    | (c, z, some e, _) :: rest, _ =>
      .next ((modBank s n b fun k => { k with fifo := k.fifo ++ [e], sleepers := rest }).modCtxAt c z Ctx.advance)
    | (c, z, none, d) :: rest, (v, p) :: q =>
      let s := modBank s n b fun k => { k with fifo := q, sleepers := rest }
      .next ((acquireAt s c z .cluster).modCtxAt c z fun x => (x.setReg (BitVec.ofNat 5 d) v p).advance)
    | _, _ => .next s

/-! ### Loads -/

/-- The load of R383 from a place: posted, with g[d] locked (R384). -/
def loadFrom (d : Reg) (va : Word) (n : Nat) (signed : Bool) (p : Place) (s : State) : Result :=
  match p with
  | .fifo c b port => fifoLoad d va c b port s
  | .other _ _ _ =>
    remote va p n false 0 false (fun v q s => .next (s.modCtx fun x => (x.setReg d (extendBytes v n signed) q).advance)) s
  | .sram _ _ _ | .scratch _ _ _ | .global _ _ _ | .host _ _ _ | .device _ =>
    .next ((post s va p n false 0 false d signed).modCtx fun x => (x.setLock d true).advance)

/-- LD (R383, R384). -/
def execLd (d a : Reg) (i : BitVec 12) (z : LdSize) : State → Result :=
  unlessLocked [d] [a] fun s =>
    let va := miAddr s.ctx a i (ldBytes z)
    withAddr a va (ldBytes z) needLoad true (loadFrom d va (ldBytes z) (ldSigned z)) s

/-- LDX (R387). -/
def execLdx (d a b : Reg) (k : BitVec 2) (z : LdSize) : State → Result :=
  unlessLocked [d] [a, b] fun s =>
    let va := xAddr s.ctx a b k
    if !s.ctx.psn a && s.ctx.psn b then trapPoison b 1 (s.ctx.reg b) va s
    else withAddr a va (ldBytes z) needLoad true (loadFrom d va (ldBytes z) (ldSigned z)) s

/-- LDPC (R386). -/
def execLdpc (d : Reg) (i : BitVec 16) : State → Result :=
  unlessLocked [d] [] fun s =>
    let va := s.ctx.pc + i.signExtend 64 * 8
    withPlace va 8 needLoad true (loadFrom d va 8 false) s

/-- A read by an instruction that waits for its answer, at the copy the context reads (R200, R202). -/
def readNow (p : Place) (n : Nat) (s : State) : (Word × Bool) × State :=
  match p with
  | .device o => ((devRead s o, false), s)
  | .global o _ _ | .host o _ _ =>
    if usesCache s s.cur.1 p then
      let r := cachedRead s (clusterOf s.cur.1) p o n none
      ((r.1, r.2.1), r.2.2.2.modCtx fun x => { x with obs := x.obs ||| r.2.2.1 })
    else readAtHome s p n none
  | .sram _ _ _ | .scratch _ _ _ | .fifo _ _ _ | .other _ _ _ => (readHome s p n, s)

/-- The cluster's cache is switching and the access goes through it (R178). -/
def cacheWaits (s : State) (c : Nat) (p : Place) : Bool :=
  c ≠ mgmtCore && p.cacheable && (s.cluster (clusterOf c)).cacheBusy

/-- LDO (R385): relaxed, it is a load; as an acquire it completes when its data and its acquire are there. A FIFO port takes
LD.D alone (R180, R383). -/
def execLdo (d a : Reg) (c : Scope) (o : MemOrder) (z : MSize) : State → Result :=
  unlessLocked [d] [a] fun s =>
    let va := s.ctx.reg a
    withAddr a va (mBytes z) needLdo true (fun p s =>
      match o, p with
      | .plain, _ | .rel, _ => loadFrom d va (mBytes z) true p s
      | _, .other _ _ _ =>
        remote va p (mBytes z) false 0 false (fun v q s =>
          .next ((acquire s c).modCtx fun x => (x.setReg d (extendBytes v (mBytes z) true) q).advance)) s
      | _, _ =>
        if !settled s p (mBytes z) || cacheWaits s s.cur.1 p then stall s
        else
          let r := readNow p (mBytes z) s
          .next ((acquire r.2 c).modCtx fun x => (x.setReg d (extendBytes r.1.1 (mBytes z) true) r.1.2).advance)) s

/-! ### Stores -/

/-- The place lies in another package or in the host aperture: poisoned data may not go there (R278). -/
def Place.export : Place → Bool
  | .host _ _ _ | .other _ _ _ => true
  | _ => false

/-- The store of R405 to a place: posted (R406). -/
def storeTo (b : Reg) (va : Word) (n : Nat) (p : Place) (s : State) : Result :=
  let v := s.ctx.reg b
  let q := s.ctx.psn b
  if p.export && q then trapPoison b 5 v 0 s
  else
    match p with
    | .fifo c k port => fifoStore va c k port v q s
    | .other _ _ _ => remote va p n true v q (fun _ _ s => .next (s.modCtx Ctx.advance)) s
    | .sram _ _ _ | .scratch _ _ _ | .global _ _ _ | .host _ _ _ | .device _ =>
      .next ((post s va p n true v q 0 false).modCtx Ctx.advance)

/-- ST (R405, R406). -/
def execSt (b a : Reg) (i : BitVec 12) (z : StSize) : State → Result :=
  unlessLocked [] [b, a] fun s =>
    let va := miAddr s.ctx a i (stBytes z)
    withAddr a va (stBytes z) needStore true (storeTo b va (stBytes z)) s

/-- STX (R410). -/
def execStx (v a b : Reg) (k : BitVec 2) (z : StSize) : State → Result :=
  unlessLocked [] [v, a, b] fun s =>
    let va := xAddr s.ctx a b k
    if !s.ctx.psn a && s.ctx.psn b then trapPoison b 1 (s.ctx.reg b) va s
    else withAddr a va (stBytes z) needStore true (storeTo v va (stBytes z)) s

/-- The register writer of a context (R302): the management core's contexts are firmware, the others supervisors. -/
def State.writer (s : State) : Writer :=
  if s.cur.1 = mgmtCore then (if s.cur.2 = 7 then .rootFirmware else .serviceFirmware) else .supervisor

/-- The issuing cluster's copy of a cacheable line is written back and dropped (R206, R409). -/
def giveUp (s : State) (p : Place) : State :=
  match p with
  | .global o _ _ | .host o _ _ =>
    if p.cacheable && s.cur.1 ≠ mgmtCore then
      dropLine (writeBackLine s (clusterOf s.cur.1) o) (clusterOf s.cur.1) o
    else s
  | _ => s

/-- As `giveUp`, and the slice of a host-aperture line that is not NC holds it (R181, R206). -/
def toHome (s : State) (p : Place) : State :=
  match p with
  | .host o false _ => hostFetch (giveUp s p) (o / 128)
  | _ => giveUp s p

/-- A release's write, performed in the step at the home; the cluster gives up its copy of the line (R409). -/
def writeNow (p : Place) (n : Nat) (v : Word) (psn : Bool) (s : State) : State :=
  let s := giveUp s p
  match p with
  | .device o => devWrite s s.writer o v
  | _ => writeHome s p n v psn (syncWriter s.cur.1 s.agent.realm)

/-- STO (R409): relaxed, it is a store; as a release it writes at the home once the release is complete. A FIFO port takes ST.D
alone (R180, R405). -/
def execSto (a b : Reg) (c : Scope) (o : MemOrder) (z : MSize) : State → Result :=
  unlessLocked [] [a, b] fun s =>
    let va := s.ctx.reg a
    withAddr a va (mBytes z) needSto true (fun p s =>
      match o with
      | .plain | .acq => storeTo b va (mBytes z) p s
      | .rel | .acqRel =>
        let v := s.ctx.reg b
        let q := s.ctx.psn b
        if p.export && q then trapPoison b 5 v 0 s
        else if s.ctx.answer.isSome then storeTo b va (mBytes z) p s
        else
          withRelease c (afterOwn p (mBytes z) fun s =>
            match p with
            | .other _ _ _ => storeTo b va (mBytes z) p s
            | _ =>
              if cacheWaits s s.cur.1 p then stall s
              else .next ((writeNow p (mBytes z) v q s).modCtx Ctx.advance)) s) s

/-! ### Atomics (R346 to R348) -/

/-- The value an AMO writes for the old value o, the operand v and the comparand e, if it writes, and its flags
(Table 14-1). -/
abbrev AmoOp := (w : Nat) → (o v e : Word) → Option Word × Flags

/-- An operation on w-bit values as an AMO. -/
def amoPlain (f : {n : Nat} → BitVec n → BitVec n → BitVec n) : AmoOp := fun w o v _ =>
  (some (if w = 32 then (f (o.setWidth 32) (v.setWidth 32)).setWidth 64 else f o v), 0)

/-- The lesser or greater of two w-bit integers. -/
def pick (lt : {n : Nat} → BitVec n → BitVec n → Bool) {n : Nat} (x y : BitVec n) : BitVec n := if lt y x then y else x

/-- AMO.CAS: the operand when the old value equals the comparand. -/
def amoCasOp : AmoOp := fun w o v e =>
  if o.toNat % 2 ^ w = e.toNat % 2 ^ w then (some v, 0) else (none, 0)

/-- AMO.FADD: the sum in FP32 or FP64, rounded RNE, with its flags. -/
def amoFaddOp : AmoOp := fun w o v _ =>
  let f := if w = 32 then fp32 else fp64
  let r := fpAdd f .rne (operand f o) (operand f v)
  (some (BitVec.ofNat 64 r.1), r.2)

/-- Writes what an AMO answers: old value, extended, flags, acquire. -/
def amoFinish (d : Reg) (zeroExt : Bool) (c : Scope) (o : MemOrder) (n : Nat) (old : Word) (fl : Flags) (s : State) :
    Result :=
  let s := acquireIf o c (s.raise s.cur.1 s.cur.2 fl)
  .next (s.modCtx fun x => (x.setReg d (extendBytes old n (!zeroExt)) false).advance)

/-- The step of an AMO at the home of its place: a poisoned word raises POISON and nothing is written. -/
def amoStep (op : AmoOp) (d : Reg) (b : Reg) (zeroExt : Bool) (c : Scope) (o : MemOrder) (n : Nat) (p : Place)
    (s : State) : Result :=
  if cacheWaits s s.cur.1 p then stall s
  else
    let s' := toHome s p
    let old := readHome s' p n
    if old.2 then trapPoisonWord p 2 old.1 0 s'
    else
      let r := op (8 * n) old.1 (s'.ctx.reg b) (s'.ctx.reg d)
      let s' := match r.1 with
        | some v => writeHome s' p n v false (coreWriter s'.cur.1 s'.agent.realm 1)
        | none => s'
      amoFinish d zeroExt c o n old.1 r.2 s'

/-- An AMO form (R347). `cas` and `zeroExt` hold what CAS and FADD do otherwise. -/
def amo (op : AmoOp) (cas zeroExt : Bool) (d a b : Reg) (c : Scope) (o : MemOrder) (z : MSize) : State → Result :=
  unlessLocked [d] [a, b] fun s =>
    let va := s.ctx.reg a
    let n := mBytes z
    withAddr a va n needBoth true (fun p s =>
      if s.ctx.psn b then trapPoison b 2 (s.ctx.reg b) 0 s
      else if cas && s.ctx.psn d then trapPoison d 2 (s.ctx.reg d) 0 s
      else if s.ctx.answer.isSome then
        remote va p n true (s.ctx.reg b) false (fun v q s =>
          if q then trapPoisonWord p 2 v 0 s
          else amoFinish d zeroExt c o n v (op (8 * n) v (s.ctx.reg b) (s.ctx.reg d)).2 s) s
      else
        ordered o c p n (fun s =>
          match p with
          | .other _ _ _ => remote va p n true (s.ctx.reg b) false (fun _ _ s => .next s) s
          | _ => amoStep op d b zeroExt c o n p s) s) s

/-- AMO.ADD. -/
def execAmoAdd (d a b : Reg) (c : Scope) (o : MemOrder) (z : MSize) : State → Result :=
  amo (amoPlain (· + ·)) false false d a b c o z
/-- AMO.AND. -/
def execAmoAnd (d a b : Reg) (c : Scope) (o : MemOrder) (z : MSize) : State → Result :=
  amo (amoPlain (· &&& ·)) false false d a b c o z
/-- AMO.OR. -/
def execAmoOr (d a b : Reg) (c : Scope) (o : MemOrder) (z : MSize) : State → Result :=
  amo (amoPlain (· ||| ·)) false false d a b c o z
/-- AMO.XOR. -/
def execAmoXor (d a b : Reg) (c : Scope) (o : MemOrder) (z : MSize) : State → Result :=
  amo (amoPlain (· ^^^ ·)) false false d a b c o z
/-- AMO.MIN. -/
def execAmoMin (d a b : Reg) (c : Scope) (o : MemOrder) (z : MSize) : State → Result :=
  amo (amoPlain (pick BitVec.slt)) false false d a b c o z
/-- AMO.MAX. -/
def execAmoMax (d a b : Reg) (c : Scope) (o : MemOrder) (z : MSize) : State → Result :=
  amo (amoPlain (pick fun x y => y.slt x)) false false d a b c o z
/-- AMO.MINU. -/
def execAmoMinu (d a b : Reg) (c : Scope) (o : MemOrder) (z : MSize) : State → Result :=
  amo (amoPlain (pick BitVec.ult)) false false d a b c o z
/-- AMO.MAXU. -/
def execAmoMaxu (d a b : Reg) (c : Scope) (o : MemOrder) (z : MSize) : State → Result :=
  amo (amoPlain (pick fun x y => y.ult x)) false false d a b c o z
/-- AMO.SWAP. -/
def execAmoSwap (d a b : Reg) (c : Scope) (o : MemOrder) (z : MSize) : State → Result :=
  amo (amoPlain fun _ y => y) false false d a b c o z
/-- AMO.CAS. -/
def execAmoCas (d a b : Reg) (c : Scope) (o : MemOrder) (z : MSize) : State → Result :=
  amo amoCasOp true false d a b c o z
/-- AMO.FADD. -/
def execAmoFadd (d a b : Reg) (c : Scope) (o : MemOrder) (z : MSize) : State → Result :=
  amo amoFaddOp false true d a b c o z

/-! ### FENCE (R204) -/

/-- The place can be reached by both paths, a private alias and the window (R168, R207). -/
def Place.onChip : Place → Bool
  | .sram _ _ _ | .scratch _ _ _ | .other _ _ true => true
  | .fifo _ _ _ | .global _ _ _ | .host _ _ _ | .device _ | .other _ _ false => false

/-- What FENCE.ACQ waits for (R204): every load before it, at CORE scope those through the window only until the interface has
them; from CLUSTER scope on, which orders the two paths, also that every store to on-chip memory has been performed (R207). -/
def acquireReady (s : State) (c : Scope) : Bool :=
  ((myReqs s).all fun r =>
    if c == .core then r.store || r.place.isWindow else r.store && (r.done || !r.place.onChip)) && engineIdle s

/-- FENCE: an acquire waits for the loads before it, a release for everything; it stalls until its effects are done. -/
def execFence (c : Scope) (o : MemOrder) (_sc : Bool) (s : State) : Result :=
  match o with
  | .plain | .acq =>
    if acquireReady s c then
      .next ((acquire s c).modCtx Ctx.advance)
    else stall s
  | .rel => withRelease c (fun s => .next (s.modCtx Ctx.advance)) s
  | .acqRel => withRelease c (fun s => .next ((acquire s c).modCtx Ctx.advance)) s

/-! ### Full-empty words (R213, R214) -/

/-- The sleepers of the word at a key. -/
def Mem.sleepers (m : Mem) (k : Nat) : List FeSleeper := fget m.feq [] k

/-- The condition of a sleeper (Table 8-5). -/
def FeKind.holds (f : FeKind) (full : Bool) : Bool :=
  match f with
  | .ldfe _ | .take _ => full
  | .stfe _ _ => !full

/-- The head of the word's queue can be served (R214). -/
def Mem.feServed (m : Mem) (k : Nat) : Bool :=
  match m.sleepers k with
  | [] => false
  | z :: _ => z.kind.holds (m.isFull k)

/-- The checks of a full-empty form (R375, R407): a translated address raises BOUNDS, as does any on the management core,
which reaches no SRAM. -/
def withFe (a : Reg) (need : Need) (f : Place → State → Result) (s : State) : Result :=
  let va := s.ctx.reg a
  if s.ctx.psn a then trapPoison a 1 va va s
  else if s.cur.1 = mgmtCore then
    if va.extractLsb' 52 12 = 0 && va.toNat % 8 ≠ 0 then trap .align va 0 s else trap .bounds va 0 s
  else if inGlobal va then
    if va.toNat % 8 ≠ 0 then trap .align va 0 s else trap .bounds va 0 s
  else withPlace va 8 need true f s

/-- Waits until the context's own earlier accesses to the word are performed and no sleeper's service is due. -/
def feReady (p : Place) (f : Nat → State → Result) (s : State) : Result :=
  match p.key? s with
  | none => .next s
  | some k => if !settled s p 8 || s.mem.feServed k then stall s else f k s

/-- A sleeper joins a word's queue: by the cycle of its request, then by core and slot (R214). -/
def feInsert (z : FeSleeper) : List FeSleeper → List FeSleeper
  | [] => [z]
  | x :: rest =>
    if x.since < z.since || (x.since = z.since && 8 * x.core + x.slot ≤ 8 * z.core + z.slot) then x :: feInsert z rest
    else z :: x :: rest

/-- Queues a sleeper at the word (R214). -/
def feQueue (s : State) (k : Nat) (z : FeSleeper) : State :=
  s.modMem fun m => { m with feq := fset m.feq [] k (feInsert { z with since := s.cycle.toNat } (m.sleepers k)) }

/-- Queues the issuing context at the word and lets it sleep (R214). -/
def feSleep (k : Nat) (va : Word) (kind : FeKind) (scope : Scope) (s : State) : Result :=
  sleep .fullEmpty va (feQueue s k { core := s.cur.1, slot := s.cur.2, kind, scope })

/-- Writes the word and sets it full; `p` is its place. On an armed arrival word the write counts as any other does (R408). -/
def feFill (p : Place) (k : Nat) (v : Word) (psn : Bool) (w : WriterId) (s : State) : State :=
  (writeHome s p 8 v psn w).modMem fun m => m.setFull k true

/-- LDFE, LDFE.TAKE (R375). -/
def feLoad (take : Bool) (d a : Reg) (c : Scope) : State → Result :=
  unlessLocked [d] [a] fun s =>
    let va := s.ctx.reg a
    withFe a (if take then needTake else needRead) (fun p s =>
      match p with
      | .other _ _ _ =>
        match s.ctx.answer with
        | some (v, q) => .next ((acquire s c).modCtx fun x => (x.setReg d v q).advance)
        | none =>
          .next ((post s va p 8 false 0 false 0 false).modCtx fun x =>
            (x.startWait .fullEmpty va).asks s.mem.nextReq [(va, p)])
      | _ =>
        feReady p (fun k s =>
          if s.mem.isFull k then
            let v := s.mem.load k 8
            let q := s.mem.psn k
            let s := if take then s.modMem fun m => m.setFull k false else s
            .next ((acquire s c).modCtx fun x => (x.setReg d v q).advance)
          else feSleep k va (if take then .take d.toNat else .ldfe d.toNat) c s) s) s

/-- LDFE (R375). -/
def execLdfe (d a : Reg) (c : Scope) : State → Result := feLoad false d a c
/-- LDFE.TAKE (R375). -/
def execLdfeTake (d a : Reg) (c : Scope) : State → Result := feLoad true d a c

/-- STFE, STFE.FILL (R407, R408). -/
def feStore (fill : Bool) (a b : Reg) (c : Scope) : State → Result :=
  unlessLocked [] [a, b] fun s =>
    let va := s.ctx.reg a
    let v := s.ctx.reg b
    let q := s.ctx.psn b
    withFe a needWrite (fun p s =>
      if p.export && q then trapPoison b 5 v 0 s
      else if s.ctx.answer.isSome then .next (s.modCtx Ctx.advance)
      else
        withRelease c (fun s =>
          match p with
          | .other _ _ _ =>
            .next ((post s va p 8 true v q 0 false).modCtx fun x =>
              (if fill then x else x.startWait .fullEmpty va).asks s.mem.nextReq [(va, p)])
          | _ =>
            feReady p (fun k s =>
              if fill || !s.mem.isFull k then
                .next ((feFill p k v q (coreWriter s.cur.1 s.agent.realm 0) s).modCtx Ctx.advance)
              else feSleep k va (.stfe v q) c s) s) s) s

/-- STFE (R407). -/
def execStfe (a b : Reg) (c : Scope) : State → Result := feStore false a b c
/-- STFE.FILL (R407). -/
def execStfeFill (a b : Reg) (c : Scope) : State → Result := feStore true a b c

/-- FEEMPTY (R375). -/
def execFeempty (a : Reg) : State → Result :=
  unlessLocked [] [a] fun s =>
    withFe a { needWrite with quiet := true } (fun p s =>
      match p with
      | .other _ _ _ => remote (s.ctx.reg a) p 8 true 0 false (fun _ _ s => .next (s.modCtx Ctx.advance)) s
      | _ => feReady p (fun k s => .next ((s.modMem fun m => m.setFull k false).modCtx Ctx.advance)) s) s

/-- FEPROBE (R375). -/
def execFeprobe (d a : Reg) : State → Result :=
  unlessLocked [d] [a] fun s =>
    withFe a { needRead with quiet := true } (fun p s =>
      match p with
      | .other _ _ _ =>
        remote (s.ctx.reg a) p 8 false 0 false (fun v _ s =>
          .next (s.modCtx fun x => (x.setReg d (v &&& 1) false).advance)) s
      | _ => feReady p (fun k s =>
          .next (s.modCtx fun x => (x.setReg d (flag (s.mem.isFull k)) false).advance)) s) s

/-- The place of a word by its key: a core's SRAM or a scratch (R176). -/
def placeOfKey (k : Nat) : Place :=
  let o := k - 2 ^ 48
  if o < 2 ^ 31 then .sram (o / 0x80000) (o % 0x80000) false
  else .scratch ((o - 2 ^ 31) / 0x800000) ((o - 2 ^ 31) % 0x800000) false

/-- A context of another package as a sleeper or the holder of a reservation (R175, R192): a number above every core's. -/
def foreignCore (pkg : BitVec 10) (core : BitVec 12) : Nat := 8192 + pkg.toNat * 4096 + core.toNat

/-- The number names a context of another package. -/
def isForeign (c : Nat) : Bool := 8192 ≤ c

/-- The identity of another package as a writer (Table 11-12). -/
def foreignWriter (c : Nat) (realm : Option (BitVec 12)) : WriterId :=
  { wkind := 6, wcore := (c - 8192) % 4096, realm, pkg := some (BitVec.ofNat 10 ((c - 8192) / 4096)) }

/-- An answer leaves for a context of another package. -/
def exitTo (s : State) (c k : Nat) (a : ExtAnswer) : State := { s with exits := (8 * c + k, a) :: s.exits }

/-- A sleeper that is served goes on: with the word in g[d], as an acquire, or after its store. A sleeper of another package
gets its answer. -/
def FeSleeper.wake (z : FeSleeper) (got : Option (Nat × Word × Bool)) (s : State) : State :=
  match got with
  | some (d, v, q) =>
    if isForeign z.core then exitTo s z.core z.slot (.data v q)
    else (acquireAt s z.core z.slot z.scope).modCtxAt z.core z.slot fun x => (x.setReg (BitVec.ofNat 5 d) v q).advance
  | none =>
    if isForeign z.core then exitTo s z.core z.slot (.data 0 false) else s.modCtxAt z.core z.slot Ctx.advance

/-- The writer of a sleeper's store. -/
def FeSleeper.writer (s : State) (z : FeSleeper) : WriterId :=
  if isForeign z.core then foreignWriter z.core z.realm
  else coreWriter z.core (s.ctxAt z.core z.slot).realm 0

/-- A round of service has ended before these sleepers by a change of the bit: the next one is made in a later cycle (R214). -/
def feLater (s : State) (l : List FeSleeper) : List FeSleeper := l.map fun z => { z with turn := some s.cycle.toNat }

/-- One round of service at a word (R214): LDFEs at the head complete while it is full; a TAKE or an STFE completes,
changes the bit and ends the round. -/
def feRound (k : Nat) : List FeSleeper → State → State
  | [], s => s.modMem fun m => { m with feq := fset m.feq [] k [] }
  | z :: rest, s =>
    if !z.kind.holds (s.mem.isFull k) then s.modMem fun m => { m with feq := fset m.feq [] k (z :: rest) }
    else
      match z.kind with
      | .ldfe d => feRound k rest (z.wake (some (d, s.mem.load k 8, s.mem.psn k)) s)
      | .take d =>
        (z.wake (some (d, s.mem.load k 8, s.mem.psn k)) s).modMem fun m =>
          { (m.setFull k false) with feq := fset m.feq [] k (feLater s rest) }
      | .stfe v q =>
        (z.wake none (feFill (placeOfKey k) k v q (z.writer s) s)).modMem fun m =>
          { m with feq := fset m.feq [] k (feLater s rest) }

/-- A round of service is due at a word: its head can be served, and no round has ended before it in this cycle (R214). -/
def State.feDue (s : State) (key : Nat) : Bool :=
  s.mem.feServed key && (s.mem.sleepers key).all fun z => z.turn != some s.cycle.toNat

/-- FE_QUEUE_SERVICE: a round of service at the word whose key is given (R214). -/
def execFeQueueService (key : Nat) (s : State) : Result :=
  .next (if s.feDue key then feRound key (s.mem.sleepers key) s else s)

/-! ### The CACHE family (R188) -/

/-- The line that contains an address. -/
def lineBase (va : Word) : Word := va &&& ~~~127

/-- Runs f on the place of the line after the checks of R188; ALIGN is never raised. -/
def withLine (a : Reg) (need : Need) (f : Place → State → Result) (s : State) : Result :=
  let va := s.ctx.reg a
  if s.ctx.psn a then trapPoison a 1 va va s
  else withPlaceAt va 1 need false (lineBase va) 128 f s

/-- The line's first byte in the place of an address in it. -/
def Place.lineStart : Place → Place
  | .sram c o w => .sram c (o / 128 * 128) w
  | .scratch c o w => .scratch c (o / 128 * 128) w
  | .global o n c => .global (o / 128 * 128) n c
  | .host o n c => .host (o / 128 * 128) n c
  | .fifo n b p => .fifo n b p
  | .device o => .device o
  | .other p a w => .other p (a / 128 * 128) w

/-- PREF (R188): never traps; a line that translates to a cacheable line of this package is fetched, after the context's own
earlier accesses to it. While the cluster's cache is switching it waits (R178). -/
def execPref (a : Reg) : State → Result :=
  unlessLocked [] [a] fun s =>
    let va := s.ctx.reg a
    if s.ctx.psn a || !inGlobal va || s.cur.1 = mgmtCore then .next (s.modCtx Ctx.advance)
    else
      let t := noteWalk s s.agent va
      match resolve s s.agent va 1 {} false true with
      | .ok p =>
        if !usesCache s s.cur.1 p && !cacheWaits s s.cur.1 p then .next (t.modCtx Ctx.advance)
        else if cacheWaits s s.cur.1 p || !settled s p.lineStart 128 then stall s
        else
          .next ((cachedRead t (clusterOf s.cur.1) p (((p.lineStart).offset?).getD 0) 128 none).2.2.2.modCtx Ctx.advance)
      | _ => .next (t.modCtx Ctx.advance)

/-- CLEAN (R188). -/
def execClean (a : Reg) : State → Result :=
  unlessLocked [] [a] fun s =>
    withLine a { rd := true, noOwner := true } (fun p s =>
      let l := p.lineStart
      match p with
      | .other _ _ _ => remote (s.ctx.reg a) p 128 false 0 false (fun _ _ s => .next (s.modCtx Ctx.advance)) s
      | .global o _ _ | .host o _ _ =>
        if !settled s l 128 || cacheWaits s s.cur.1 p then stall s
        else .next (((if s.cur.1 = mgmtCore then s else writeBackLine s (clusterOf s.cur.1) o)).modCtx Ctx.advance)
      | _ => .next (s.modCtx Ctx.advance)) s

/-- INVAL (R188). -/
def execInval (a : Reg) : State → Result :=
  unlessLocked [] [a] fun s =>
    withLine a needWrite (fun p s =>
      let l := p.lineStart
      match p with
      | .global o _ _ | .host o _ _ =>
        if !settled s l 128 || cacheWaits s s.cur.1 p then stall s
        else .next (((if s.cur.1 = mgmtCore then s else dropLine s (clusterOf s.cur.1) o)).modCtx Ctx.advance)
      | _ => .next (s.modCtx Ctx.advance)) s

/-- The place i words after the start of a line. -/
def Place.wordAt (i : Nat) : Place → Place
  | .sram c o w => .sram c (o + 8 * i) w
  | .scratch c o w => .scratch c (o + 8 * i) w
  | .global o n c => .global (o + 8 * i) n c
  | .host o n c => .host (o + 8 * i) n c
  | .fifo n b p => .fifo n b p
  | .device o => .device o
  | .other p a w => .other p (a + 8 * i) w

/-- The 16 stores as which ZEROL acts are posted as any store of its package is, each to be performed after the one before it
(R188, R406). -/
def postZeros (s : State) (va : Word) (l : Place) : State :=
  s.modMem fun m =>
    { m with
      reqs := m.reqs ++ (List.range 16).map fun i =>
        { id := m.nextReq + i, core := s.cur.1, slot := s.cur.2, gen := s.ctx.gen, realm := s.agent.realm,
          va := va + BitVec.ofNat 64 (8 * i), place := l.wordAt i, size := 8, store := true, chained := i ≠ 0 }
      nextReq := m.nextReq + 16 }

/-- ZEROL (R188). -/
def execZerol (a : Reg) : State → Result :=
  unlessLocked [] [a] fun s =>
    withLine a needWrite (fun p s =>
      let l := p.lineStart
      match p with
      | .other _ _ _ => remote (s.ctx.reg a) l 128 true 0 false (fun _ _ s => .next (s.modCtx Ctx.advance)) s
      | _ =>
        if !settled s l 128 || cacheWaits s s.cur.1 p then stall s
        else .next ((postZeros s (lineBase (s.ctx.reg a)) l).modCtx Ctx.advance)) s

/-! ### QREAD and QSTORE (R189 to R192) -/

/-- The lines of QREAD's list, checked one after another: the places, or how the check ends (R190). -/
def qreadLines (s : State) (list : Word) : Nat → List (Word × Place) → Result ⊕ List (Word × Place)
  | 0, acc => .inr acc
  | n + 1, acc =>
    let at_ := list + BitVec.ofNat 64 (8 * acc.length)
    let key := keySram s.cur.1 at_.toNat
    let va := s.mem.load key 8
    if !ownsCore s s.agent s.cur.1 needRead then .inl (trap .prot at_ 0 s)
    else if s.mem.psn key then .inl (trapPoisonWord (.sram s.cur.1 at_.toNat false) 1 va va s)
    else if !inGlobal va then .inl (trap .bounds va 0 s)
    else
      match resolve s s.agent va 1 needBoth false false with
      | .bad c => .inl (trap c va 0 s)
      | .miss => .inl (stall (postWalk s s.cur.1 s.cur.2 va))
      | .busy => .inl (stall s)
      | .ok p => qreadLines s list n (acc ++ [(va, p)])

/-- The home of a place: package and slice (R173, R174, R175). -/
def homeOf (s : State) (p : Place) : Nat × Nat :=
  match p with
  | .global o _ _ | .host o _ _ => (s.package.toNat, sliceOf o)
  | .other pkg a _ => (pkg, sliceOf (a % 2 ^ 42))
  | .sram _ _ _ | .scratch _ _ _ | .fifo _ _ _ | .device _ => (s.package.toNat, 0)

/-- Writes a line of data into a core's SRAM, word by word (R190). -/
def fillBuffer (s : State) (c off : Nat) (data : BitVec 1024) (psn : BitVec 16) (w : WriterId) : State :=
  (List.range 16).foldl (fun s i =>
    writeSram s c (off + 8 * i) 8 (data.extractLsb' (64 * i) 64) (psn.getLsbD i) w) s

/-- A slice holds 64 reservations: a 65th drops the oldest (R192). -/
def addResv (l : List Reservation) (r : Reservation) : List Reservation :=
  let slice (x : Reservation) : Nat := sliceOf (128 * x.lines.headD 0)
  if r.other = none && 64 ≤ (l.filter fun x => x.other = none && slice x = slice r).length then
    (l.eraseP fun x => x.other = none && slice x = slice r) ++ [r]
  else l ++ [r]

/-- QREAD's effect once its checks are made and its earlier accesses performed (R190): the lines go to the buffer, the
reservation is recorded. Lines of another package come with that package's answer, as free values (log 10). -/
def qreadAct (d : Reg) (buf : Word) (lines : List (Word × Place)) (s : State) : Result :=
  let c := s.cur.1
  let k := s.cur.2
  let w := coreWriter c s.agent.realm 0
  let offs := lines.map fun l =>
    match l.2 with
    | .other _ a _ => a % 2 ^ 42
    | p => (p.offset?).getD 0
  let rec_ (pkg : Option Nat) : Reservation :=
    { core := c, slot := k, lines := offs.map (· / 128), k := lines.length, other := pkg,
      vas := lines.map (·.1)
      nc := lines.filterMap fun l => match l.2 with
        | .host o true _ => some (o / 128)
        | _ => none }
  let finish (scope : Scope) (pkg : Option Nat) (s : State) : Result :=
    let s := s.modMem fun m => { m with resv := addResv m.resv (rec_ pkg) }
    .next ((acquire s scope).modCtx fun x => (x.setReg d 0 false).advance)
  match lines with
  | (va, .other pkg pa x) :: _ =>
    remoteAll lines va (.other pkg pa x) 128 false 0 false (fun _ _ s =>
      let s := (offs.zipIdx).foldl (fun s o =>
        (List.range 16).foldl (fun s i =>
          let h := s.foreign (pkg * 2 ^ 42 + o.1 + 8 * i)
          writeSram s.drawn c (buf.toNat + 128 * o.2 + 8 * i) 8 h.1 h.2 w) s) (dropResv s c k)
      finish .domain (some pkg) s) s
  | _ =>
    let s := dropResv s c k
    let s := offs.foldl (fun s o => writeBackLine s (clusterOf c) o) s
    let s := (lines.zipIdx).foldl (fun s l =>
      match l.1.2 with
      | .global o nc _ | .host o nc _ =>
        let h := homeLine s o nc
        fillBuffer s c (buf.toNat + 128 * l.2) h.1 h.2 w
      | _ => s) s
    finish .package none s

/-- The first line of a list that a core watchpoint matches: TVAL and TCTX of the trap (R288). -/
def linesWatched (s : State) (need : Need) (l : List Word) : Option (Word × Word) :=
  l.findSome? fun va => (watchOf s need (lineBase va) 128).map fun x => (va, BitVec.ofNat 64 (x.1 + 4 * x.2))

/-- QREAD (R189, R190). With the answer of another package it goes on with the lines it asked for (R175). -/
def execQread (d a b : Reg) (k : BitVec 2) : State → Result :=
  unlessLocked [d] [a, b] fun s =>
    let n := k.toNat + 1
    let list := s.ctx.reg a
    let buf := s.ctx.reg b
    if s.answered.isSome then qreadAct d buf s.ctx.asked s
    else if s.ctx.psn a then trapPoison a 1 list list s
    else if s.ctx.psn b then trapPoison b 1 buf buf s
    else if list.toNat % 8 ≠ 0 then trap .align list 0 s
    else if buf.toNat % 128 ≠ 0 then trap .align buf 0 s
    else if 0x80000 < list.toNat + 8 * n then trap .bounds list 0 s
    else if 0x80000 < buf.toNat + 128 * n then trap .bounds buf 0 s
    else if s.cur.1 = mgmtCore then trap .bounds list 0 s
    else if !settled s (.sram s.cur.1 list.toNat false) (8 * n) then stall s
    else
      match qreadLines s list n [] with
      | .inl r => r
      | .inr lines =>
        match lines.tail.find? fun l => homeOf s l.2 ≠ homeOf s ((lines.headD (0, .device 0)).2) with
        | some l => trap .qspan l.1 0 s
        | none =>
          if !ownsCore s s.agent s.cur.1 needWrite then trap .prot buf 0 s
          else
            match linesWatched s needRead (lines.map (·.1)) with
            | some (va, ctx) => trap .watch va ctx s
            | none =>
              if !step1Done s .package || !engineIdle s || lines.any (fun l => cacheWaits s s.cur.1 l.2) then stall s
              else qreadAct d buf lines s

/-- QSTORE completes with a result and without its reservation (R191). -/
def qstoreDone (d : Reg) (q : Word) (s : State) : Result :=
  .next ((dropResv s s.cur.1 s.cur.2).modCtx fun x => (x.setReg d q false).advance)

/-- QSTORE's step at the home with a live reservation (R191): a broken one answers 1; else the lines change together and
the cluster's copies are dropped. The source buffer is read where the lines are to be written. -/
def qstoreAct (d : Reg) (src : Word) (r : Reservation) (s : State) : Result :=
  let c := s.cur.1
  let w := coreWriter c s.agent.realm 0
  let done := qstoreDone d
  match s.mem.resvOf c s.cur.2 with
  | none => done 2 s
  | some r' =>
    match r.other with
    | some pkg =>
      if !ownsCore s s.agent c needRead then trap .prot src 0 s
      else remote src (.other pkg (128 * r.lines.headD 0) false) 128 true 0 false (fun _ _ s => .next s) s
    | none =>
      if r'.broken then done 1 s
      else if !ownsCore s s.agent c needRead then trap .prot src 0 s
      else if (s.cluster (clusterOf c)).cacheBusy then stall s
      else
        let s := (r.lines.zipIdx).foldl (fun s l =>
          let k := keySram c (src.toNat + 128 * l.2)
          let data := BitVec.ofNat 1024 (s.mem.read k 128)
          let psn := BitVec.ofNat 16 ((List.range 16).foldl (fun a i => if s.mem.psn (k + 8 * i) then a + 2 ^ i else a) 0)
          let s := homeWriteLine s (128 * l.1) (r.nc.contains l.1) data (BitVec.allOnes 128) psn w
          dropLine s (clusterOf c) (128 * l.1)) s
        done 0 s

/-- QSTORE (R189, R191). The home of another package answers 0, 1, or 2 where it has dropped the reservation (R192). -/
def execQstore (d a : Reg) : State → Result :=
  unlessLocked [d] [a] fun s =>
    let src := s.ctx.reg a
    let r := s.mem.resvOf s.cur.1 s.cur.2
    let k := match r with
      | some r => r.k
      | none => 1
    match s.ctx.answer with
    | some (v, _) => qstoreDone d (if v = 2 then 2 else v &&& 1) s
    | none =>
      if s.ctx.psn a then trapPoison a 1 src src s
      else if src.toNat % 128 ≠ 0 then trap .align src 0 s
      else if 0x80000 < src.toNat + 128 * k then trap .bounds src 0 s
      else if s.cur.1 = mgmtCore then trap .bounds src 0 s
      else
        match r with
        | none =>
          if step1Done s .package then .next (s.modCtx fun x => (x.setReg d 2 false).advance) else stall s
        | some r =>
          match linesWatched s needWrite r.vas with
          | some (va, ctx) => trap .watch va ctx s
          | none => withRelease (if r.other.isSome then .domain else .package) (qstoreAct d src r) s

/-! ### The steps that perform posted accesses -/

/-- No earlier access of the same task to the same bytes by the same path is still to be performed, nor one of another
context of the core that a CORE-scope release has passed, nor the word of a ZEROL before it (R188, R198, R199, R205). -/
def mayPerform (s : State) (r : Req) : Bool :=
  !r.done && (s.mem.reqs.all fun q =>
    q.id ≥ r.id || q.done || (!(r.chained && q.id + 1 == r.id) && (!q.place.meets q.size r.place r.size ||
      !((q.by r.core r.slot r.gen && q.place.isWindow == r.place.isWindow) || q.before r.core r.slot r.gen)))) &&
    !cacheWaits s r.core r.place &&
    (match r.place with
     | .scratch n o _ => !(s.bank n (o / 0x80000)).busy
     | .other _ _ _ | .fifo _ _ _ => false
     | _ => true)

/-- Changes the posted access of a number. -/
def modReq (s : State) (id : Nat) (f : Req → Req) : State :=
  s.modMem fun m => { m with reqs := m.reqs.map fun r => if r.id = id then f r else r }

/-- Removes the posted access of a number. -/
def dropReq (s : State) (id : Nat) : State := s.modMem fun m => { m with reqs := m.reqs.filter fun r => r.id ≠ id }

/-- The writer of a context's access to a device register (R302). -/
def reqWriter (r : Req) : Writer :=
  if r.core = mgmtCore then (if r.slot = 7 then .rootFirmware else .serviceFirmware) else .supervisor

/-- Performs a posted load: its data is read at the copy the context reads. -/
def performLoad (s : State) (r : Req) : State :=
  let fill (v : Word) (p : Bool) (s : State) : State := modReq s r.id fun q => { q with data := v, psn := p, done := true }
  match r.place with
  | .device o => fill (devRead s o) false s
  | .global o _ _ | .host o _ _ =>
    if usesCache s r.core r.place then
      let x := cachedRead s (clusterOf r.core) r.place o r.size (some r.id)
      let s := x.2.2.2
      let s := if (s.ctxAt r.core r.slot).gen = r.gen then
          s.modCtxAt r.core r.slot fun y => { y with obs := y.obs ||| x.2.2.1 }
        else s
      fill x.1 x.2.1 s
    else
      let v := readAtHome s r.place r.size (some r.id)
      fill v.1.1 v.1.2 v.2
  | .sram _ _ _ | .scratch _ _ _ | .fifo _ _ _ | .other _ _ _ =>
    let v := readHome s r.place r.size
    fill v.1 v.2 s

/-- Performs a posted store: into the cluster's cache, where no acknowledgement follows, or at the home or the SRAM. -/
def performStore (s : State) (r : Req) : State :=
  match r.place with
  | .device o => devWrite (modReq s r.id fun q => { q with done := true }) (reqWriter r) o r.data
  | p =>
    if usesCache s r.core p then
      cachedWrite (dropReq s r.id) (clusterOf r.core) ((p.offset?).getD 0) r.size r.data r.psn (r.core % 16)
    else
      writeHome (modReq s r.id fun q => { q with done := true }) p r.size r.data r.psn (coreWriter r.core r.realm 0)

/-- The access needs the host, and the link to it is down (R294): the slice holds not all its bytes. -/
def hostGone (s : State) (r : Req) : Bool :=
  match r.place with
  | .host o nc _ =>
    !s.host.linkUp && (nc || (!r.store && (rangeMask (o % 128) r.size &&& ~~~(s.mem.aperPresent o)) != 0)) &&
      !(usesCache s r.core r.place && (r.store || match (s.cluster (clusterOf r.core)).line o with
        | some l => !l.needsFill o r.size
        | none => false))
  | _ => false

/-- A posted access is performed. One that needs the host while the link is down waits for the link: its checks have passed, and
every fault of a posted access is precise (R384, R406, log 61). -/
def performAccess (s : State) (r : Req) : State :=
  if !mayPerform s r || hostGone s r then s
  else if r.store then performStore s r
  else performLoad s r

/-! ### Requests of other packages (R171, R175, R192, R289) -/

/-- The atomics by their fn (Table 8-2). -/
def amoOf (fn : Nat) : AmoOp :=
  match fn with
  | 2 => amoPlain (· + ·)
  | 3 => amoPlain (· &&& ·)
  | 4 => amoPlain (· ||| ·)
  | 5 => amoPlain (· ^^^ ·)
  | 6 => amoPlain (pick BitVec.slt)
  | 7 => amoPlain (pick fun x y => y.slt x)
  | 8 => amoPlain (pick BitVec.ult)
  | 9 => amoPlain (pick fun x y => y.ult x)
  | 10 => amoPlain fun _ y => y
  | 11 => amoCasOp
  | _ => amoFaddOp

/-- What a request of another package needs of the unit it reaches (Table 7-10), and how many bytes it takes. -/
def foreignNeeds : ForeignOp → Need × Nat
  | .load n => (needLoad, n)
  | .store n _ _ => (needStore, n)
  | .atomic _ n _ _ => (needBoth, n)
  | .zeroLine => (needWrite, 128)
  | .qread _ | .qstore _ | .withdraw => ({}, 128)
  | .ldfe take => (if take then needTake else needRead, 8)
  | .stfe _ _ _ | .empty => (needWrite, 8)
  | .probe => (needRead, 8)

/-- A full-empty form of another package at the word of a key (R213, R214). -/
def foreignFe (c k : Nat) (realm : BitVec 12) (p : Place) (key : Nat) (op : ForeignOp) (s : State) : State :=
  let queue (kind : FeKind) : State := feQueue s key { core := c, slot := k, kind, scope := .domain, realm := some realm }
  if s.mem.feServed key then s
  else
    match op with
    | .ldfe take =>
      if s.mem.isFull key then
        exitTo (if take then s.modMem (·.setFull key false) else s) c k (.data (s.mem.load key 8) (s.mem.psn key))
      else queue (if take then .take 0 else .ldfe 0)
    | .stfe fill v q =>
      if fill || !s.mem.isFull key then
        exitTo (feFill p key v q (foreignWriter c (some realm)) s) c k (.data 0 false)
      else queue (.stfe v q)
    | .empty => exitTo (s.modMem (·.setFull key false)) c k (.data 0 false)
    | _ => exitTo s c k (.data (flag (s.mem.isFull key)) false)

/-- Some line of a list is not backed here, or reading it ends in the host's error (R175, R294): the request is answered with an
error. -/
def linesUnbacked (s : State) (lines : List Nat) (need : Need) : Bool :=
  lines.any fun l =>
    match s.backed (s.package.toNat * 2 ^ 42 + 128 * l) with
    | some off => isAper off && s.hostFails off 128 need false
    | none => true

/-- QREAD of another package: its reservation of these lines, and their words in order (R190, R192). -/
def foreignQread (c k : Nat) (lines : List Nat) (s : State) : State :=
  if linesUnbacked s lines needRead then exitTo s c k .error else
  let s := dropResv s c k
  let s := s.modMem fun m => { m with resv := addResv m.resv { core := c, slot := k, lines, k := lines.length, other := none } }
  lines.foldl (fun s l =>
    let h := homeLine s (128 * l) false
    (List.range 16).foldl (fun s i => exitTo s c k (.data (h.1.extractLsb' (64 * i) 64) (h.2.getLsbD i))) s) s

/-- QSTORE of another package (R191). -/
def foreignQstore (c k : Nat) (data : List (BitVec 1024 × BitVec 16)) (w : WriterId) (s : State) : State :=
  match s.mem.resvOf c k with
  | none => exitTo s c k (.data 2 false)
  | some r =>
    if r.broken then exitTo (dropResv s c k) c k (.data 1 false)
    else if linesUnbacked s r.lines needWrite then exitTo (dropResv s c k) c k .error
    else
      let s := (r.lines.zip data).foldl (fun s l =>
        homeWriteLine s (128 * l.1) false l.2.1 (BitVec.allOnes 128) l.2.2 w) s
      exitTo (dropResv s c k) c k (.data 0 false)

/-- A request of another package is performed at its home here, under this package's ownership words (R171, R175). -/
def foreignRequest (q : ForeignReq) (s : State) : State :=
  let c := foreignCore q.pkg q.core
  let k := q.slot.toNat
  let w := foreignWriter c (some q.realm)
  let need := foreignNeeds q.op
  let g : Agent := { core := 0, realm := q.realm, super := q.super }
  let done (s : State) : State := exitTo s c k (.data 0 false)
  match q.op with
  | .withdraw => withdraw s c k
  | .qread lines => foreignQread c k lines s
  | .qstore data => foreignQstore c k data w s
  | op =>
    match if q.win then windowPlace s g (BitVec.ofNat 64 q.addr) need.1
        else placeOfPhys s g q.addr need.2 need.1 q.nc q.const with
    | .bad .prot => exitTo s c k .prot
    | .bad _ => exitTo s c k .error
    | .miss | .busy => s
    | .ok p =>
      match op, p with
      | .load _, .device o => exitTo s c k (.data (devRead s o) false)
      | .store _ v _, .device o => done (devWrite s .supervisor o v)
      | .load n, _ =>
        let v := readAtHome s p n none
        exitTo v.2 c k (.data v.1.1 v.1.2)
      | .store n v psn, _ => done (writeHome s p n v psn w)
      | .zeroLine, _ => done ((List.range 16).foldl (fun s i => writeHome s (p.lineStart.wordAt i) 8 0 false w) s)
      | .atomic fn n v e, _ =>
        let s := match p with
          | .host o false _ => hostFetch s (o / 128)
          | _ => s
        let old := readHome s p n
        let s := match old.2, (amoOf fn (8 * n) old.1 v e).1 with
          | false, some x => writeHome s p n x false { w with wkind := 6, plain := false }
          | _, _ => s
        exitTo s c k (.data old.1 old.2)
      | _, _ =>
        match p.key? s with
        | some key => foreignFe c k q.realm p key op s
        | none => exitTo s c k .error

/-- SLICE_REQUEST (R181): a posted access is performed; a dirty line is written back, or leaves a cache; a slice writes a
host-aperture line to the host, fetches it, or drops it; a request of another package is performed. -/
def execSliceRequest (op : SliceOp) (s : State) : Result :=
  match op with
  | .access id =>
    match s.mem.reqs.find? fun r => r.id == id with
    | none => .next s
    | some r => .next (performAccess s r)
  | .writeBack n l => .next (writeBackLine s n (128 * l))
  | .evict n l => .next (dropLine (writeBackLine s n (128 * l)) n (128 * l))
  | .hostWriteBack l => .next (hostWriteBack s l)
  | .hostFetch l => .next (hostFetch s l)
  | .hostEvict l => .next (hostDrop (hostWriteBack s l) l)
  | .foreign q => .next (foreignRequest q s)

/-- The offset in this package of the image of slot k of core c in the save area (R284). -/
def imageBase (s : State) (c k : Nat) : Nat :=
  s.stop.stopbase.toNat * 2 ^ 20 % 2 ^ 42 + c * 0x20000 + if k = 0 then 0 else 0x14000 + (k - 1) * 0x200

/-- The network interface writes the answer of another package into the image of a stopped context: AWAIT stays, RESPV is
set (R283). -/
def imageAnswer (s : State) (c k : Nat) (v : Word) (p : Bool) : State :=
  let o := imageBase s c k
  let w : WriterId := { wkind := 7, wcore := c }
  let s := writeGlobal s (o + 0x150) 8 v false w
  writeGlobal s (o + 0x148) 8 (if p then 0xE000000000000000 else 0xC000000000000000) false w

/-- Another package's fault as the answer to an access at an address (R79, R171, R175): it is raised precisely; while the
context is stopped it stands as an answer in its image and is raised once it runs again (R283). Where another trap stands at
the boundary, that comes first, and the access is made again after it (R273). -/
def faultAnswer (s : State) (c k : Nat) (cause : Cause) (va : Word) : State :=
  if (s.core c).stopped then
    let s := if s.stop.phase = 2 then imageAnswer s c k 0 false else s
    s.modCtxAt c k fun x =>
      { x with answer := some (0, false), answerErr := some (cause, va),
               wait := if (x.wait.map (·.kind)) = some .fullEmpty then none else x.wait }
  else if othersPend s c k then s.modCtxAt c k Ctx.askAgain
  else
    raiseAt s c k
      { cause, pc := (s.ctxAt c k).pc, val := va, ctx := 0, seq := 0, slot := some k, imprec := false }

/-- LOAD_RESPONSE (R384): the data of a performed load is written to its register, which is unlocked; the answer of a task
that has ended is discarded. An answer of another package, which comes by the port that the request left by (R80, R81), lets
its instruction complete, a refusal raises PROT and an error BOUNDS (R79, R171, R175). Whether the host ends a read with an
error is settled when the access is checked (R294, R384). -/
def execLoadResponse (id : Nat) (ext : ExtAnswer) (s : State) : Result :=
  match s.mem.reqs.find? fun r => r.id == id with
  | none => .next s
  | some r =>
    let live := (s.ctxAt r.core r.slot).gen = r.gen && ((s.ctxAt r.core r.slot).occupied || r.slot = 7)
    match r.place with
    | .other _ _ _ =>
      let up := s.portIsUp r.port
      let s := if up then dropReq s id else s
      if !up || !live || (s.ctxAt r.core r.slot).await ≠ some id then .next s
      else
        match ext with
        | .data v p =>
          let s := if (s.core r.core).stopped && s.stop.phase = 2 then imageAnswer s r.core r.slot v p else s
          .next (s.modCtxAt r.core r.slot fun x =>
            { x with answer := some (v, p), wait := if (x.wait.map (·.kind)) = some .fullEmpty then none else x.wait })
        | .prot => .next (faultAnswer s r.core r.slot .prot r.va)
        | .error => .next (faultAnswer s r.core r.slot .bounds r.va)
    | .global o _ _ | .host o _ _ =>
      if !r.done || r.store then .next s
      else
        let s := (dropReq s id).modRouter (sliceRouter (sliceOf o)) fun x =>
          { x with constReads := x.constReads.filter fun e => e.id ≠ id }
        .next (if live then s.modCtxAt r.core r.slot fun x =>
            (x.setReg (BitVec.ofNat 5 r.d) (extendBytes r.data r.size r.signed) r.psn).setLock (BitVec.ofNat 5 r.d) false
          else s)
    | .sram _ _ _ | .scratch _ _ _ | .fifo _ _ _ | .device _ =>
      if !r.done || r.store then .next s
      else
        let s := dropReq s id
        .next (if live then s.modCtxAt r.core r.slot fun x =>
            (x.setReg (BitVec.ofNat 5 r.d) (extendBytes r.data r.size r.signed) r.psn).setLock (BitVec.ofNat 5 r.d) false
          else s)

/-- WRITE_ACKNOWLEDGEMENT: a performed store is acknowledged (R202). -/
def execWriteAcknowledgement (id : Nat) (s : State) : Result :=
  match s.mem.reqs.find? fun r => r.id == id with
  | none => .next s
  | some r => .next (if r.store && r.done then dropReq s id else s)

end Sys2Proof.Machine
end

