-- ==== Sys2Proof/Machine/Vector.lean ====
section
/-!
DEFINITION. What the vector and merge pipes compute when an instruction retires (R233, R257, R389, R392, R415 to R426,
R429 to R432): lanes, masks, tags, flags. Lane values are natural numbers below 2^width.
-/

namespace Sys2Proof.Machine

/-! ### The registers of slot 0 (R309) -/

/-- A vector register. -/
def Engine.vec (e : Engine) (r : VReg) : Nat := (fget e.v 0 r.toNat).toNat
/-- The tags of a vector register, a bit per byte. -/
def Engine.tags (e : Engine) (r : VReg) : Nat := (fget e.vpsn 0 r.toNat).toNat
/-- A mask; m0 reads all ones. -/
def Engine.mask (e : Engine) (r : MReg) : BitVec 128 := if r = 0 then BitVec.allOnes 128 else fget e.m 0 r.toNat
/-- The tag of a mask; m0's is clear. -/
def Engine.mtag (e : Engine) (r : MReg) : Bool := if r = 0 then false else fget e.mpsn false r.toNat

/-- Writes a vector register and its tags. -/
def Engine.setVec (e : Engine) (r : VReg) (v tags : Nat) : Engine :=
  { e with v := fset e.v 0 r.toNat (BitVec.ofNat 1024 v), vpsn := fset e.vpsn 0 r.toNat (BitVec.ofNat 128 tags)
           vvalid := e.vvalid ||| BitVec.ofNat 16 (2 ^ r.toNat) }

/-- Writes a mask and its tag; a write to m0 is discarded. -/
def Engine.setMask (e : Engine) (r : MReg) (v : BitVec 128) (p : Bool) : Engine :=
  if r = 0 then e
  else { e with m := fset e.m 0 r.toNat v, mpsn := fset e.mpsn false r.toNat p
                mvalid := e.mvalid ||| BitVec.ofNat 7 (2 ^ (r.toNat - 1)) }

/-! ### Lanes (R309, R322) -/

/-- Bits of a lane. -/
def VType.width : VType → Nat
  | .fp32 | .int32 | .n32 => 32
  | .bf16 | .fp16 | .int16 => 16
  | .int8 | .n8 => 8

/-- Lanes of a vector register. -/
def lanesOf (t : VType) : Nat := 1024 / VType.width t

/-- The floating-point format of a lane type. -/
def VType.fp : VType → Option FpFmt
  | .fp32 => some Machine.fp32
  | .bf16 => some Machine.bf16
  | .fp16 => some Machine.fp16
  | .int32 | .n32 | .int16 | .int8 | .n8 => none

/-- The lane type is signed. -/
def VType.isSigned : VType → Bool
  | .int32 | .int16 | .int8 => true
  | .fp32 | .bf16 | .fp16 | .n32 | .n8 => false

/-- n bits of x from bit lo. -/
def slice (x lo n : Nat) : Nat := x / 2 ^ lo % 2 ^ n

/-- Lane i of w bits. -/
def lane (x w i : Nat) : Nat := slice x (w * i) w

/-- Some byte of the bits lo to lo + n - 1 of a register is tagged. -/
def tagOf (tags lo n : Nat) : Bool := slice tags (lo / 8) ((lo + n - 1) / 8 + 1 - lo / 8) ≠ 0

/-- The tag of lane i. -/
def laneTag (tags w i : Nat) : Bool := tagOf tags (w * i) w

/-- The number whose fields of w bits are the list, lowest first. -/
def packed (w : Nat) : List Nat → Nat
  | [] => 0
  | x :: r => x % 2 ^ w + 2 ^ w * packed w r

/-- The tag bits of the bytes of a lane of w bits. -/
def tagBits (w : Nat) (p : Bool) : Nat := if p then 2 ^ (w / 8) - 1 else 0

/-- An integer of w bits read with its signedness. -/
def intOf (signed : Bool) (w x : Nat) : Int := if signed && 2 ^ (w - 1) ≤ x then (x : Int) - 2 ^ w else x

/-- The low w bits of an integer. -/
def lowBits (w : Nat) (v : Int) : Nat := (v % 2 ^ w).toNat

/-- An integer clamped to the range of w bits (R221). -/
def clampInt (signed : Bool) (w : Nat) (v : Int) : Int :=
  let lo : Int := if signed then -(2 ^ (w - 1)) else 0
  let hi : Int := if signed then 2 ^ (w - 1) - 1 else 2 ^ w - 1
  if v < lo then lo else if hi < v then hi else v

/-- What an engine instruction leaves: the engine, its flags, the value and tag for g[d]. -/
structure VOut where
  eng : Engine
  fl  : Flags := 0
  res : Option (Word × Bool) := none

/-- A lane's result: value, flags, the tag of what it consumed, and tags of single bytes that a moved lane keeps. -/
structure LaneRes where
  v  : Nat
  fl : Flags := 0
  p  : Bool := false
  kept : Nat := 0

/-- The OR of the flags of a list. -/
def orFlags (l : List Flags) : Flags := l.foldl (· ||| ·) 0

/-- The tag bits of the bytes of lane i. -/
def laneTags (tags w i : Nat) : Nat := slice tags (w / 8 * i) (w / 8)

/-- Writes the lanes that act picks with their results, their tags ORed with mt; into the others zero with the tag mt, or
nothing. -/
def writeLanes (e : Engine) (d : VReg) (act : Nat → Bool) (mt : Bool) (w : Nat) (z : Bool) (f : Nat → LaneRes) : VOut :=
  let old := e.vec d
  let oldT := e.tags d
  let l := (List.range (1024 / w)).map fun i =>
    if act i then
      let r := f i
      (r.v, tagBits w (r.p || mt) ||| r.kept, r.fl)
    else if z then (0, tagBits w mt, 0)
    else (lane old w i, laneTags oldT w i, (0 : Flags))
  { eng := e.setVec d (packed w (l.map (·.1))) (packed (w / 8) (l.map (·.2.1))), fl := orFlags (l.map (·.2.2)) }

/-- Writes the active lanes of vd (R415). -/
def laneWrite (e : Engine) (d : VReg) (m : MReg) (w : Nat) (z : Bool) (f : Nat → LaneRes) : VOut :=
  writeLanes e d (e.mask m).getLsbD (e.mtag m) w z f

/-- Writes every lane of vd: values and the tag bits of their bytes (R421, R430, R431). -/
def fullWrite (e : Engine) (d : VReg) (w : Nat) (f : Nat → Nat × Nat) : Engine :=
  let l := (List.range (1024 / w)).map f
  e.setVec d (packed w (l.map (·.1))) (packed (w / 8) (l.map (·.2)))

/-! ### Lane operations -/

/-- A lane operation of two operands: type, rounding mode, the lanes. -/
abbrev LaneOp := VType → RMode → Nat → Nat → Nat × Flags

/-- The form of two vector sources (R415). -/
def twoSource (op : LaneOp) (d a b : VReg) (m : MReg) (t : VType) (z : Bool) (r : RMode) (e : Engine) : VOut :=
  let w := VType.width t
  laneWrite e d m w z fun i =>
    let x := op t r (lane (e.vec a) w i) (lane (e.vec b) w i)
    { v := x.1, fl := x.2, p := laneTag (e.tags a) w i || laneTag (e.tags b) w i }

/-- The form of one vector source (R415). -/
def oneSource (op : VType → Nat → Nat × Flags) (d a : VReg) (m : MReg) (t : VType) (z : Bool) (e : Engine) : VOut :=
  let w := VType.width t
  laneWrite e d m w z fun i =>
    let x := op t (lane (e.vec a) w i)
    { v := x.1, fl := x.2, p := laneTag (e.tags a) w i }

/-- Addition, subtraction and multiplication (R418, R220, R221). -/
def laneArith (fop : FpFmt → RMode → Fp → Fp → Nat × Flags) (iop : Int → Int → Int) (sat : Bool) : LaneOp :=
  fun t r x y =>
    let w := VType.width t
    match VType.fp t with
    | some f => fop f r (unpack f x) (unpack f y)
    | none =>
      let v := iop (intOf (VType.isSigned t) w x) (intOf (VType.isSigned t) w y)
      (lowBits w (if sat then clampInt (VType.isSigned t) w v else v), 0)

/-- VMIN and VMAX (R429). -/
def laneMinMax (isMax : Bool) : LaneOp := fun t _ x y =>
  match VType.fp t with
  | some f => fpMinMax f isMax x y
  | none =>
    let s := VType.isSigned t
    let w := VType.width t
    let less := decide (intOf s w x < intOf s w y)
    (if less == isMax then y else x, 0)

/-- VABS and VNEG (R416). -/
def laneSign (isAbs : Bool) (t : VType) (x : Nat) : Nat × Flags :=
  let w := VType.width t
  match VType.fp t with
  | some f =>
    match unpack f x with
    | .nan sn => (f.nan, if sn then flagNV else 0)
    | .inf _ | .fin _ _ _ =>
      (x % f.signBit + (if !isAbs && x < f.signBit then f.signBit else 0), 0)
  | none => (if isAbs && 0 ≤ intOf true w x then x else lowBits w (-(x : Int)), 0)

/-- VAND, VOR, VXOR (R419). -/
def laneBits (op : Nat → Nat → Nat) : LaneOp := fun _ _ x y => (op x y, 0)

/-- VSHL (R432). -/
def laneShl : LaneOp := fun t _ x y => (x * 2 ^ (y % VType.width t) % 2 ^ VType.width t, 0)

/-- VSHR (R432). -/
def laneShr : LaneOp := fun t _ x y =>
  let w := VType.width t
  (lowBits w (intOf (VType.isSigned t) w x / 2 ^ (y % w)), 0)

/-- A compare (R420): the whole mask is written. -/
def laneCompare (quiet : Bool) (ok : Ordering → Bool) (d : MReg) (a b : VReg) (m : MReg) (t : VType) (e : Engine) :
    VOut :=
  let w := VType.width t
  let mk := e.mask m
  let act := (List.range (lanesOf t)).filter mk.getLsbD
  let l := act.map fun i =>
    let x := lane (e.vec a) w i
    let y := lane (e.vec b) w i
    match VType.fp t with
    | some f => (i, fpCompare quiet ok (unpack f x) (unpack f y))
    | none => (i, (ok (compare (intOf (VType.isSigned t) w x) (intOf (VType.isSigned t) w y)), 0))
  let bits := (l.filter fun r => r.2.1).foldl (fun s r => s + 2 ^ r.1) 0
  let tag := e.mtag m || act.any fun i => laneTag (e.tags a) w i || laneTag (e.tags b) w i
  { eng := e.setMask d (BitVec.ofNat 128 bits) tag, fl := orFlags (l.map (·.2.2)) }

/-- VFMA, VFMS, VFNMA (R426). -/
def laneFma (negProd negAdd : Bool) (d a b : VReg) (m : MReg) (t : VType) (z : Bool) (r : RMode) (e : Engine) : VOut :=
  let w := VType.width t
  let f := (VType.fp t).getD fp32
  laneWrite e d m w z fun i =>
    let x := unpack f (lane (e.vec a) w i)
    let c := unpack f (lane (e.vec d) w i)
    let v := fpFma f r (if negProd then x.negate else x) (unpack f (lane (e.vec b) w i)) (if negAdd then c.negate else c)
    { v := v.1, fl := v.2, p := laneTag (e.tags a) w i || laneTag (e.tags b) w i || laneTag (e.tags d) w i }

/-! ### Reductions (R233, R431) -/

/-- The identity of a reduction: 0 add, 1 maximum, 2 minimum (R233). -/
def redIdentity (kind : Nat) (t : VType) : Nat :=
  let w := VType.width t
  match VType.fp t with
  | some f => if kind = 1 then f.signBit + f.inf else if kind = 2 then f.inf else f.signBit
  | none =>
    if kind = 0 then 0
    else if VType.isSigned t then (if kind = 1 then 2 ^ (w - 1) else 2 ^ (w - 1) - 1)
    else if kind = 1 then 0 else 2 ^ w - 1

/-- One level of the tree: element i of the first half with element i of the second. -/
def combineHalves (op : Nat → Nat → Nat × Flags) (l : List Nat) : List Nat × Flags :=
  let h := l.length / 2
  let r := (List.zip (l.take h) (l.drop h)).map fun p => op p.1 p.2
  (r.map (·.1), orFlags (r.map (·.2)))

/-- The tree, k levels (R233). -/
def combineTree (op : Nat → Nat → Nat × Flags) : Nat → List Nat → List Nat × Flags
  | 0, l => (l, 0)
  | k + 1, l =>
    let r := combineHalves op l
    let q := combineTree op k r.1
    (q.1, r.2 ||| q.2)

/-- A reduction (R431). -/
def reduce (kind : Nat) (op : LaneOp) (d a : VReg) (m : MReg) (t : VType) (r : RMode) (e : Engine) : VOut :=
  let w := VType.width t
  let mk := e.mask m
  let n := lanesOf t
  let q := combineTree (op t r) (Nat.log2 n)
    ((List.range n).map fun i => if mk.getLsbD i then lane (e.vec a) w i else redIdentity kind t)
  let tag := e.mtag m || ((List.range n).filter mk.getLsbD).any (laneTag (e.tags a) w)
  { eng := fullWrite e d w fun i => if i = 0 then (q.1.headD 0, tagBits w tag) else (0, 0), fl := q.2 }

/-! ### Moves between lanes (R421, R425, R430) -/

/-- VPERM (R421). -/
def permute (d a b : VReg) (m : MReg) (t : VType) (z : Bool) (e : Engine) : VOut :=
  let w := VType.width t
  laneWrite e d m w z fun i =>
    let j := lane (e.vec b) w i % lanesOf t
    { v := lane (e.vec a) w j, p := laneTag (e.tags b) w i, kept := laneTags (e.tags a) w j }

/-- VROT (R421). -/
def rotate (d a b : VReg) (m : MReg) (t : VType) (z : Bool) (e : Engine) : VOut :=
  let w := VType.width t
  laneWrite e d m w z fun i =>
    let j := (i + lane (e.vec b) w 0) % lanesOf t
    { v := lane (e.vec a) w j, p := laneTag (e.tags a) w j || laneTag (e.tags b) w 0 }

/-- VCOMPRESS (R421). -/
def compress (d a : VReg) (m : MReg) (t : VType) (e : Engine) : VOut :=
  let w := VType.width t
  let l := ((List.range (lanesOf t)).filter (e.mask m).getLsbD).map fun i => (lane (e.vec a) w i, laneTags (e.tags a) w i)
  { eng := fullWrite e d w fun i => let r := l.getD i (0, 0); (r.1, r.2 ||| tagBits w (e.mtag m)) }

/-- VSEL (R430). -/
def select (d a b : VReg) (m : MReg) (t : VType) (e : Engine) : VOut :=
  let w := VType.width t
  { eng := fullWrite e d w fun i =>
      let s := if (e.mask m).getLsbD i then a else b
      (lane (e.vec s) w i, laneTags (e.tags s) w i ||| tagBits w (e.mtag m)) }

/-- VSPLAT (R425). -/
def splat (v : VReg) (t : VType) (x : Word) (p : Bool) (e : Engine) : VOut :=
  { eng := fullWrite e v (VType.width t) fun _ => (x.toNat % 2 ^ VType.width t, tagBits (VType.width t) p) }

/-- VINS (R425). -/
def insertLane (v : VReg) (t : VType) (x : Word) (px : Bool) (i : Word) (pi : Bool) (e : Engine) : VOut :=
  let w := VType.width t
  let j := i.toNat % lanesOf t
  writeLanes e v (· == j) false w false fun _ => { v := x.toNat % 2 ^ w, p := px || pi }

/-- VEXT (R425): the value and tag for the general register. -/
def extractLane (v : VReg) (t : VType) (i : Word) (pi : Bool) (e : Engine) : VOut :=
  let w := VType.width t
  let j := i.toNat % lanesOf t
  { eng := e
    res := some (BitVec.ofInt 64 (intOf (VType.isSigned t) w (lane (e.vec v) w j)), laneTag (e.tags v) w j || pi) }

/-! ### Masks (R389, R392) -/

/-- MAND, MOR, MXOR, MNOT (R389). -/
def maskLogic (op : BitVec 128 → BitVec 128 → BitVec 128) (d a b : MReg) (e : Engine) : VOut :=
  { eng := e.setMask d (op (e.mask a) (e.mask b)) (e.mtag a || e.mtag b) }

/-- MPOPC (R392). -/
def maskCount (v : MReg) (t : VType) (e : Engine) : VOut :=
  { eng := e
    res := some (BitVec.ofNat 64 ((List.range (lanesOf t)).filter (e.mask v).getLsbD).length, e.mtag v) }

/-- MSETN (R392). -/
def maskSet (v : MReg) (t : VType) (x : Word) (p : Bool) (e : Engine) : VOut :=
  { eng := e.setMask v (BitVec.ofNat 128 (2 ^ min x.toNat (lanesOf t) - 1)) p }

/-! ### Conversions (R422 to R424) -/

/-- Bits of an element of a format code (R422). -/
def CvtFmt.width : CvtFmt → Nat
  | .fp32 | .int32 | .n32 => 32
  | .bf16 | .fp16 | .int16 => 16
  | .int8 | .n8 | .e4m3 | .e5m2 => 8
  | .e3m2 | .e2m3 => 6
  | .e2m1 => 4

/-- The floating-point format of a code. -/
def CvtFmt.fp : CvtFmt → Option FpFmt
  | .fp32 => some Machine.fp32
  | .bf16 => some Machine.bf16
  | .fp16 => some Machine.fp16
  | .e4m3 => some Machine.e4m3
  | .e5m2 => some Machine.e5m2
  | .e3m2 => some Machine.e3m2
  | .e2m3 => some Machine.e2m3
  | .e2m1 => some Machine.e2m1
  | .int32 | .n32 | .int16 | .int8 | .n8 => none

/-- The integer code is signed. -/
def CvtFmt.isSigned : CvtFmt → Bool
  | .int32 | .int16 | .int8 => true
  | _ => false

/-- One conversion of Table 17-1. -/
def convertElem (src dst : CvtFmt) (r : RMode) (x : Nat) : Nat × Flags :=
  let ws := CvtFmt.width src
  let wd := CvtFmt.width dst
  match CvtFmt.fp src, CvtFmt.fp dst with
  | some f, some g => fpConvert g r (unpack f x)
  | some f, none =>
    let v := fpToInt (CvtFmt.isSigned dst) wd r (unpack f x)
    (lowBits wd v.1, v.2)
  | none, some g => intToFp g r (intOf (CvtFmt.isSigned src) ws x)
  | none, none => (lowBits wd (clampInt (CvtFmt.isSigned dst) wd (intOf (CvtFmt.isSigned src) ws x)), 0)

/-- Writes k packed elements of wd bits: f gives the active ones their value, flags and tag; bits above are zero and
clean (R423). -/
def packElems (e : Engine) (d : VReg) (m : MReg) (wd k : Nat) (f : Nat → LaneRes) : VOut :=
  let mk := e.mask m
  let mt := e.mtag m
  let old := e.vec d
  let oldT := e.tags d
  let l := (List.range k).map fun i => if mk.getLsbD i then some (f i) else none
  let vals := (l.zipIdx).map fun p =>
    match p.1 with
    | some r => r.v
    | none => slice old (wd * p.2) wd
  let tagByte (b : Nat) : Bool :=
    let es := (List.range k).filter fun i => wd * i < 8 * b + 8 && 8 * b < wd * i + wd
    let act := es.filter mk.getLsbD
    let p := act.any fun i => ((l.getD i none).map fun (r : LaneRes) => r.p || mt).getD false
    if act.length = es.length then p else p || oldT.testBit b
  let tags := (List.range (wd * k / 8)).map fun b => if tagByte b then 1 else 0
  { eng := e.setVec d (packed wd vals) (packed 1 tags)
    fl := orFlags (l.map fun o => (o.map fun (r : LaneRes) => r.fl).getD 0) }

/-- VCVT (R423). -/
def convertVec (d a : VReg) (src dst : CvtFmt) (m : MReg) (r : RMode) (e : Engine) : VOut :=
  let ws := CvtFmt.width src
  let wd := CvtFmt.width dst
  packElems e d m wd (1024 / max ws wd) fun i =>
    let x := convertElem src dst r (slice (e.vec a) (ws * i) ws)
    { v := x.1, fl := x.2, p := tagOf (e.tags a) (ws * i) ws }

/-- VQUANT (R424). -/
def quantVec (d a b : VReg) (dst : CvtFmt) (m : MReg) (r : RMode) (e : Engine) : VOut :=
  let s := slice (e.vec b) 0 8
  let wd := CvtFmt.width dst
  packElems e d m wd 32 fun i =>
    let v := match unpack fp32 (lane (e.vec a) 32 i) with
      | .fin n k x => .fin n k (x + 127 - s)
      | .inf n => .inf n
      | .nan q => .nan q
    let v := if s = 255 then .nan false else v
    let x := match CvtFmt.fp dst with
      | some g => fpConvert g r v
      | none => let y := fpToInt true 8 r v; (lowBits 8 y.1, y.2)
    { v := x.1, fl := x.2, p := laneTag (e.tags a) 32 i || (e.tags b).testBit 0 }

/-- VACT (R417). -/
def activate (c : ActCode) (d a : VReg) (m : MReg) (z : Bool) (e : Engine) : VOut :=
  oneSource (fun _ x => act c x) d a m .fp32 z e

/-! ### EVPOPV and the merge pipe (R371, R257) -/

/-- The 16 words that EVPOPV popped, in a vector register (R371). -/
def popVec (v : VReg) (ws : List (Word × Bool)) (e : Engine) : VOut :=
  { eng := fullWrite e v 64 fun j => let r := ws.getD j (BitVec.allOnes 64, false); (r.1.toNat, tagBits 64 r.2) }

/-- The values of a window before its first padding (R257). -/
def window (n32 : Bool) (x : Nat) : List Int :=
  (((List.range 16).map (lane x 32)).takeWhile fun v => v ≠ (if n32 then 0xFFFFFFFF else 0x7FFFFFFF)).map
    (intOf (!n32) 32)

/-- The values of a window that are at most the limit: the last values of the full windows bound them (R257). -/
def bounded (a b : List Int) : List Int × List Int :=
  let ok (v : Int) : Bool :=
    (a.length ≠ 16 || decide (v ≤ a.getD 15 0)) && (b.length ≠ 16 || decide (v ≤ b.getD 15 0))
  (a.filter ok, b.filter ok)

/-- Puts a value into an ascending list after its equals. -/
def insertAfter (l : List Int) (v : Int) : List Int :=
  match l with
  | [] => [v]
  | x :: r => if x ≤ v then x :: insertAfter r v else v :: x :: r

/-- A stable ascending sort. -/
def sortInts (l : List Int) : List Int := l.foldl insertAfter []

/-- Each value of an ascending list once. -/
def once : List Int → List Int
  | [] => []
  | [x] => [x]
  | x :: y :: r => if x = y then once (y :: r) else x :: once (y :: r)

/-- ISECT: elements of the first window that occur in the second. -/
def isectOf (a b : List Int) : List Int := a.filter b.contains
/-- UNION: the distinct values of both, ascending. -/
def unionOf (a b : List Int) : List Int := once (sortInts (a ++ b))
/-- MERGE: both, ascending. -/
def mergeOf (a b : List Int) : List Int := sortInts (a ++ b)

/-- A merge form (R257): vd is 2 × d. -/
def mergeForm (op : List Int → List Int → List Int) (d : BitVec 3) (a b : VReg) (n32 : Bool) (e : Engine) : VOut :=
  let (ca, cb) := bounded (window n32 (e.vec a)) (window n32 (e.vec b))
  let out := op ca cb
  let p := tagOf (e.tags a) 0 512 || tagOf (e.tags b) 0 512
  let counts := [out.length, ca.length, cb.length]
  let e := fullWrite e (d ++ 0#1) 32 fun x => (lowBits 32 (out.getD x 0), tagBits 32 p)
  { eng := fullWrite e (d ++ 1#1) 32 fun x => (counts.getD x 0, tagBits 32 p) }

end Sys2Proof.Machine
end

