-- ==== Sys2Proof/Machine/EngineMem.lean ====
section
/-!
DEFINITION. The accesses of engine instructions: checks at the unit (R187, R193), reads and writes, the vector loads and
stores (R427, R428).
-/

namespace Sys2Proof.Machine

/-- How an engine instruction stops before its end: a fault with its TVAL, or a halt at a stop (R44, R253) or between two
elements of a vector access, which goes on in a later step (R194), each with its PROG, the flags of the part done and the
state it leaves; or a wait for a bank that is switching or a link that is not up (R178, R81), in which it is tried again. -/
inductive EngStop where
  | fault (val : Word) (prog : Nat) (fl : Flags) (s : State)
  | halt (prog : Nat) (fl : Flags) (s : State)
  | busy

/-- A computation of the engine over the state. -/
abbrev Eng := StateT State (Except EngStop)

/-- TVAL of a COPROC fault: subcode, reason and value (R269). -/
def coprocVal (sub reason : Nat) (v : Word) : Word :=
  BitVec.ofNat 64 (sub * 2 ^ 56 + reason * 2 ^ 48) ||| (v.setWidth 48).setWidth 64

/-- Stops with a fault. -/
def engFault {α : Type} (val : Word) : Eng α := fun s => .error (.fault val 0 0 s)

/-- Runs f; a fault in it leaves PROG and the flags of the part done before. -/
def withProg {α : Type} (prog : Nat) (fl : Flags) (f : Eng α) : Eng α := fun s =>
  match f s with
  | .error (.fault v _ _ t) => .error (.fault v prog fl t)
  | r => r

/-- Halts at a stop with PROG and the flags of the part done. -/
def engHalt {α : Type} (prog : Nat) (fl : Flags) : Eng α := fun s => .error (.halt prog fl s)

/-- Where an instruction that has done some of its parts halts: after them all, or where a stop comes, after a number of parts
that its time gives: a free value. -/
def haltAt (halt : Option Nat) (done total : Nat) : Nat :=
  match halt with
  | none => total
  | some n => done + n % (total - done + 1)

/-- FORMAT with a reason and its value (R269). -/
def engFormat {α : Type} (reason : Nat) (v : Word) : Eng α := engFault (coprocVal 4 reason v)

/-- The TVAL of an access that fails (Table 7-12). -/
def accessVal (c : Cause) (va : Word) : Word := coprocVal (if c = .page then 2 else 3) 0 va

/-- Steps 2 and 4 to 9 of Table 7-3 at the unit, in the realm that slot 0 held at dispatch (R193). An access waits for a
bank that is switching (R178), and for a port that is not UP (R81). -/
def engPlace (c : Nat) (realm : BitVec 12) (va : Word) (size : Nat) (need : Need) : Eng Place := fun s =>
  let g : Agent := { core := c, realm, super := false }
  let t := noteWalk s g va
  match resolve s g va size need false true with
  | .ok p =>
    if cacheWaits s c p || s.linkHolds c p then .error .busy
    else
      match foreignCause s p with
      | some e => .error (.fault (accessVal e va) 0 0 (drawnFor t p))
      | none => .ok (p, drawnFor t p)
  | .bad e => .error (.fault (accessVal e va) 0 0 t)
  | .miss | .busy => .error .busy

/-- Reads n bytes, within one word, as an access of slot 0's context (R428). Data of another package is free (log 10). -/
def engRead (c : Nat) (p : Place) (n : Nat) : Eng (Word × Bool) := fun s =>
  match p with
  | .global o _ _ | .host o _ _ =>
    if usesCache s c p then
      let r := cachedRead s (clusterOf c) p o n none
      .ok ((r.1, r.2.1), r.2.2.2.modCtxAt c 0 fun x => { x with obs := x.obs ||| r.2.2.1 })
    else
      .ok (readAtHome s p n none)
  | .other _ a _ => .ok (((s.foreign a).1 &&& BitVec.ofNat 64 (2 ^ (8 * n) - 1), (s.foreign a).2), s.drawn)
  | .sram _ _ _ | .scratch _ _ _ | .fifo _ _ _ | .device _ => .ok (readHome s p n, s)

/-- Writes n bytes, within one word: into the cluster's cache, or at the home or the SRAM (R428). -/
def engWrite (c : Nat) (realm : BitVec 12) (p : Place) (n : Nat) (v : Word) (psn : Bool) : Eng Unit := fun s =>
  if usesCache s c p then .ok ((), cachedWrite s (clusterOf c) ((p.offset?).getD 0) n v psn (c % 16))
  else .ok ((), writeHome s p n v psn (coreWriter c realm 0))

/-- Changes the engine. -/
def engMod (c : Nat) (f : Engine → Engine) : Eng Unit := fun s => .ok ((), s.modEngine c f)

/-- A step of the state. -/
def engStep (f : State → State) : Eng Unit := fun s => .ok ((), f s)

/-- What an effect answers: flags, and the value and tag for g[d]. -/
abbrev Answered := Flags × Option (Word × Bool)

/-- An effect on the engine alone. -/
def pureEffect (c : Nat) (f : Engine → VOut) : Eng Answered := fun s =>
  let o := f (s.engine c)
  .ok ((o.fl, o.res), s.modEngine c fun _ => o.eng)

/-! ### Vector loads and stores (R427, R428) -/

/-- Bytes of an element size (R324). -/
def eBytes : ESize → Nat
  | .b => 1 | .h => 2 | .w => 4

/-- How the elements are addressed. -/
inductive VAddr where
  | unit
  | stride
  | index (v : VReg)

/-- The number of elements (R427). -/
def vecCount (a : VAddr) (size : Nat) : Nat :=
  match a with
  | .index _ => min (128 / size) 32
  | .unit | .stride => 128 / size

/-- The address of element i: OPA is the base, OPB the stride. -/
def vecAddr (a : VAddr) (size : Nat) (en : Entry) (e : Engine) (i : Nat) : Word :=
  match a with
  | .unit => en.opA + BitVec.ofNat 64 (i * size)
  | .stride => en.opA + BitVec.ofNat 64 i * en.opB
  | .index v => en.opA + BitVec.ofInt 64 (intOf true 32 (lane (e.vec v) 32 i))

/-- The checks of element i, and its place (R428). -/
def vecPlace (c : Nat) (en : Entry) (a : VAddr) (size : Nat) (need : Need) (i : Nat) : Eng Place := do
  let s ← get
  let e := s.engine c
  let x := vecAddr a size en e i
  match a with
  | .index v =>
    if laneTag (e.tags v) 32 i then
      set (consumedAt s c 0 1 (inRegister c) x en.pc en.realm)
      engFormat 6 (BitVec.ofNat 64 i)
    else if x.toNat % size ≠ 0 then engFormat 7 x
    else engPlace c en.realm x size need
  | .unit | .stride => engPlace c en.realm x size need

/-- The active elements, ascending. -/
def vecActive (e : Engine) (m : MReg) (n : Nat) : List Nat := (List.range n).filter (e.mask m).getLsbD

/-- What a vector load has read, with the lanes still to read: PROG is 0 until the first is read (R194, R428). -/
def loadLeft (a : VAddr) (size : Nat) (m : MReg) (c : Nat) (en : Entry) (s : State) : List (Word × Bool) × List Nat :=
  let got := if en.prog = 0 then [] else en.popped
  (got, (vecActive (s.engine c) m (vecCount a size)).drop got.length)

/-- Writes the active lanes of a vector load, all of which have been read. -/
def writeLoaded (a : VAddr) (size : Nat) (d : VReg) (m : MReg) (got : List (Word × Bool)) (e : Engine) : Engine :=
  let act := vecActive e m (vecCount a size)
  (writeLanes e d (fun i => act.contains i) false (8 * size) false fun i =>
    match (act.zip got).find? fun v => v.1 == i with
    | some v => { v := v.2.1.toNat, p := v.2.2 }
    | none => { v := 0 }).eng

/-- A step of a vector load: the next active element is checked and read, each alone (R194); after the last, the lanes are
written (R428). -/
def vectorLoad (a : VAddr) (size : Nat) (d : VReg) (m : MReg) (c : Nat) (en : Entry) : Eng Answered := do
  match loadLeft a size m c en (← get) with
  | (got, []) => engMod c (writeLoaded a size d m got)
  | (got, i :: rest) =>
    let p ← vecPlace c en a size needRead i
    let got := got ++ [← engRead c p size]
    if rest.isEmpty then engMod c (writeLoaded a size d m got)
    else
      engMod c fun e =>
        { e with running := e.running.map fun x => if x.seq = en.seq then { x with popped := got } else x }
      engHalt (i + 1) 0
  return (0, none)

/-- Checks and writes element i of a vector store. -/
def storeLane (a : VAddr) (size : Nat) (d : VReg) (c : Nat) (en : Entry) (i : Nat) : Eng Unit := do
  let e := (← get).engine c
  let p ← vecPlace c en a size needWrite i
  let psn := laneTag (e.tags d) (8 * size) i
  if psn && p.export then
    set (consumedAt (← get) c 0 5 (inRegister c) 0 en.pc en.realm)
    engFault (coprocVal 3 0 (vecAddr a size en e i))
  else engWrite c en.realm p size (BitVec.ofNat 64 (lane (e.vec d) (8 * size) i)) psn

/-- A step of a vector store: the next active element in ascending order, each written alone (R194), up to the first that fails
(R428, Table 10-3). -/
def vectorStore (a : VAddr) (size : Nat) (d : VReg) (m : MReg) (c : Nat) (en : Entry) : Eng Answered := do
  match (vecActive ((← get).engine c) m (vecCount a size)).filter (en.prog ≤ ·) with
  | [] => return (0, none)
  | i :: rest =>
    withProg i 0 (storeLane a size d c en i)
    if rest.isEmpty then return (0, none) else engHalt (i + 1) 0

end Sys2Proof.Machine
end

