-- ==== Sys2Proof/Machine/Event.lean ====
section
/-!
DEFINITION. The event pipe (R22 to R45): layer descriptors, VSCMAC, VDRING, VSDSCAN, VDTICK.
-/

namespace Sys2Proof.Machine

/-! ### The layer descriptor (Table 2-2) -/

/-- A field of a descriptor's word. -/
def dfield (ws : List Word) (i lo n : Nat) : Nat := ((ws.getD i 0).extractLsb' lo n).toNat

/-- A descriptor, by its eight words. -/
abbrev Layer := List Word

def layWcore (l : Layer) : Nat := dfield l 0 60 2
def layWfmt (l : Layer) : Nat := dfield l 0 56 4
def layWstride (l : Layer) : Nat := dfield l 0 32 20
def layWoff (l : Layer) : Nat := dfield l 0 0 19
def layCbase (l : Layer) : Nat := dfield l 1 32 22
def layCcount (l : Layer) : Nat := dfield l 1 0 22
def layYoff (l : Layer) : Nat := dfield l 2 32 19
def layL (l : Layer) : Nat := dfield l 2 19 13
def layAoff (l : Layer) : Nat := dfield l 2 0 19
def layT (l : Layer) : Nat := dfield l 3 48 4
def layDepth (l : Layer) : Nat := dfield l 3 40 5
def layRoff (l : Layer) : Nat := dfield l 3 0 19
def layScale (l : Layer) : Nat := dfield l 4 32 32
def layEin (l : Layer) : Int := ((l.getD 4 0).extractLsb' 16 8).toInt
def layEout (l : Layer) : Int := ((l.getD 4 0).extractLsb' 8 8).toInt
def layAct (l : Layer) : Nat := dfield l 4 0 4
def layOclass (l : Layer) : Nat := dfield l 5 58 6
def layOdelay (l : Layer) : Nat := dfield l 5 52 4
def layObase (l : Layer) : Nat := dfield l 5 22 22
def layOtarget (l : Layer) : Nat := dfield l 5 0 22
/-- Bytes of a weight (R30). -/
def layWsize (l : Layer) : Nat := if layWfmt l = 1 then 2 else 1

/-- The reserved bits of Table 2-2, by word. -/
def layReserved : List Word :=
  [0xC0F00000FFF80000, 0xFFC00000FFC00000, 0xFFF8000000000000, 0xFFF0E0FFFFF80000, 0xFF0000F0, 0x030FF00000000000, 0,
   0xFFFFFFFFFFFFFFE0]

/-- The descriptor is malformed for a reason of R31 other than poison. `ring` is set for VDRING. -/
def layMalformed (l : Layer) (ring : Bool) : Bool :=
  let n := layL l
  let ws := layWsize l
  (List.zip l layReserved).any (fun p => p.1 &&& p.2 ≠ 0) ||
    2 < layWfmt l || layDepth l = 1 || 16 < layDepth l || 8 < layAct l || 62 ≤ layOclass l ||
    layCcount l = 0 || n = 0 || 2 ^ 22 < layCbase l + layCcount l || 2 ^ 22 < layObase l + n ||
    (layDepth l ≠ 0 && layDepth l ≤ layT l) || (layDepth l = 0 && layT l ≠ 0) || (ring && layDepth l = 0) ||
    layAoff l % 4 ≠ 0 || layYoff l % 4 ≠ 0 || layRoff l % 4 ≠ 0 || layWoff l % ws ≠ 0 || layWstride l % ws ≠ 0 ||
    layWstride l < n * ws || 0x80000 < layAoff l + 4 * n || 0x80000 < layYoff l + 4 * n ||
    0x80000 < layRoff l + 4 * layDepth l * n || 0x80000 < layWoff l + (layCcount l - 1) * layWstride l + n * ws

/-- The core of the quad that holds the weights. -/
def layWeights (l : Layer) (c : Nat) : Nat := c / 4 * 4 + layWcore l

/-- Reads and checks the descriptor at g[a] (R31): form first, then WCORE; the access itself needs the core's ownership
(R171, R193). -/
def readLayer (c : Nat) (en : Entry) (ring : Bool) : Eng Layer := do
  let _ ← engPlace c en.realm en.opA 8 needRead
  let s ← get
  let ks := (List.range 8).map fun i => keySram c (en.opA.toNat + 8 * i)
  let l := ks.map fun k => s.mem.load k 8
  if ks.any s.mem.psn then
    let bad := (ks.findIdx s.mem.psn) * 8
    set (consumedAt s c 0 1 ((Place.sram c (en.opA.toNat + bad) false).source s) en.opA en.pc en.realm)
    engFormat 1 en.opA
  else if layMalformed l ring then engFormat 1 en.opA
  else if !s.usableCore (layWeights l c) then engFault (coprocVal 3 0 en.opA)
  else return l

/-- The bytes from off, n of them, meet an area. -/
def meetsArea (off n : Nat) (a : Nat × Nat) : Bool := overlaps off n a.1 a.2

/-- The word at an offset lies in two areas of the descriptor (R32). -/
def layOverlap (l : Layer) (c off : Nat) : Bool :=
  let areas := [(layAoff l, 4 * layL l), (layYoff l, 4 * layL l), (layRoff l, 4 * layDepth l * layL l)] ++
    (if layWeights l c = c then [(layWoff l, (layCcount l - 1) * layWstride l + layL l * layWsize l)] else [])
  2 ≤ (areas.filter (meetsArea off 4)).length

/-- Writes a 4-byte word of an area; where areas overlap its value is undefined (R32): a free value. -/
def writeArea (l : Layer) (c : Nat) (realm : BitVec 12) (off v : Nat) (p : Bool) : Eng Unit := engStep fun s =>
  if layOverlap l c off then writeSram s.drawn c off 4 s.freeVal p (coreWriter c realm 0)
  else writeSram s c off 4 (BitVec.ofNat 64 v) p (coreWriter c realm 0)

/-- Reads a 4-byte word of the core's SRAM. -/
def readArea (c off : Nat) : Eng (Nat × Bool) := fun s =>
  .ok (((s.mem.load (keySram c off) 4).toNat, s.mem.psn (keySram c off)), s)

/-- Adds an exact value to the FP32 word at an offset, with one rounding (R25); poison passes (R42). -/
def accumulate (l : Layer) (c : Nat) (realm : BitVec 12) (off : Nat) (v : Fp) (p : Bool) : Eng Flags := do
  let x ← readArea c off
  let r := fpAdd fp32 .rne (f32 x.1) v
  writeArea l c realm off r.1 (x.2 || p)
  return r.2

/-- Runs f on the elements below n that PROG leaves to do, and ORs the flags; a stop halts the instruction at the end of a
chunk of `per` elements, 256 bytes of the data it streams (R44). -/
def flagLoop (halt : Option Nat) (en : Entry) (per n : Nat) (f : Nat → Eng Flags) : Eng Flags := do
  let k := min n (per * haltAt halt (en.prog / per) ((n + per - 1) / per))
  let k := max en.prog k
  let fl ← ((List.range k).drop en.prog).foldlM (fun a i => do return a ||| (← f i)) en.fl
  if k < n then engHalt k fl else return fl

/-- Writes word i of the descriptor. -/
def writeLayer (c : Nat) (en : Entry) (i : Nat) (v : Word) : Eng Unit := engStep fun s =>
  writeSram s c (en.opA.toNat + 8 * i) 8 v false (coreWriter c en.realm 0)

/-! ### VSCMAC and VDRING (R38) -/

/-- A weight's value (R25, R38). -/
def weightValue (fmt x : Nat) : Fp :=
  if fmt = 0 then unpack e4m3 x
  else if fmt = 1 then unpack bf16 x
  else let v := intOf true 8 x; .fin (v < 0) v.natAbs 0

/-- The exact product of a count of quanta, not zero, and a weight. -/
def quantaTimes (n : Int) (e : Int) (w : Fp) : Fp :=
  match w with
  | .nan q => .nan q
  | .inf b => .inf ((n < 0) != b)
  | .fin b m x => .fin ((n < 0) != b) (n.natAbs * m) (x + e)

/-- SKIPS counts one more; the reason's sticky bit is set (R38). -/
def skipEvent (c : Nat) (en : Entry) (l : Layer) (sticky : Word) : Eng Unit := do
  let w := l.getD 6 0
  let n := min (dfield l 6 32 16 + 1) 0xFFFF
  writeLayer c en 6 ((w &&& 0xFFFF0000FFFFFFFF) ||| BitVec.ofNat 64 (n * 2 ^ 32))
  writeLayer c en 7 (l.getD 7 0 ||| sticky)

/-- VSCMAC, and VDRING with ring set (R38). -/
def applyEvent (ring : Bool) (halt : Option Nat) (c : Nat) (en : Entry) : Eng Answered := do
  let l ← readLayer c en ring
  let f := en.opB
  let neuron := (f.extractLsb' 22 22).toNat
  let n := flitN f
  let k := (f.extractLsb' 52 4).toNat
  let write : Eng Unit := do let _ ← engPlace c en.realm en.opA 8 needBoth; return ()
  if f.extractLsb' 56 2 ≠ 0 then
    write; skipEvent c en l 1; return (0, some (8, false))
  else if neuron < layCbase l || layCbase l + layCcount l ≤ neuron then
    write; skipEvent c en l 1; return (0, some (2, false))
  else if ring && layDepth l ≤ k then
    write; skipEvent c en l 4; return (0, some (4, false))
  else if n = 0 then return (0, some (16, false))
  else
    write
    let wc := layWeights l c
    let col := layWoff l + (neuron - layCbase l) * layWstride l
    if wc ≠ c then
      let _ ← engPlace c en.realm ((← get).windowSram wc col) 1 needRead
    let slot := (layT l + k) % layDepth l
    let fl ← flagLoop halt en (256 / layWsize l) (layL l) fun i => do
      let s ← get
      let a := keySram wc (col + i * layWsize l)
      let w := weightValue (layWfmt l) (s.mem.load a (layWsize l)).toNat
      let off := if ring then layRoff l + 4 * (slot * layL l + i) else layAoff l + 4 * i
      accumulate l c en.realm off (quantaTimes n (layEin l) w) (s.mem.psn a)
    return (fl, some (1, false))

/-! ### VDTICK (R41) -/

/-- VDTICK. The data it streams are taken as the ring's words, of which a 256-byte chunk is 64 elements (R44, log 39). -/
def closeStep (halt : Option Nat) (c : Nat) (en : Entry) : Eng Answered := do
  let l ← readLayer c en false
  let _ ← engPlace c en.realm en.opA 8 needBoth
  let t := layT l
  let d := layDepth l
  let fl ← if d = 0 then pure 0 else
    flagLoop halt en 64 (layL l) fun i => do
      let off := layRoff l + 4 * (t * layL l + i)
      let x ← readArea c off
      let fl ← accumulate l c en.realm (layAoff l + 4 * i) (f32 x.1) x.2
      writeArea l c en.realm off 0 false
      return fl
  if d ≠ 0 then
    writeLayer c en 3 ((l.getD 3 0 &&& 0xFFF0FFFFFFFFFFFF) ||| BitVec.ofNat 64 ((t + 1) % d * 2 ^ 48))
  writeLayer c en 6 ((l.getD 6 0 &&& 0xFFFFFFFFFFFF0000) ||| BitVec.ofNat 64 ((dfield l 6 0 16 + 1) % 2 ^ 16))
  return (fl, some (if d = 0 then 0x10 else BitVec.ofNat 64 t, false))

/-! ### VSDSCAN (R39, R40) -/

/-- The activation of an ACT code below 8 (Table 2-2). -/
def actCode (n : Nat) : ActCode :=
  match n with
  | 0 => .relu | 1 => .gelu | 2 => .silu | 3 => .exp2 | 4 => .rcp | 5 => .rsq | 6 => .logi | _ => .tanh

/-- trunc((y − h) × 2^−e): none where the difference is undefined; an infinite one stands as ±2^400, beyond any clamp. -/
def quantaOf (y h : Fp) (e : Int) : Option Int :=
  match y, h with
  | .nan _, _ | _, .nan _ => none
  | .inf a, .inf b => if a == b then none else some (if a then -(2 ^ 400) else 2 ^ 400)
  | .inf a, .fin _ _ _ => some (if a then -(2 ^ 400) else 2 ^ 400)
  | .fin _ _ _, .inf b => some (if b then 2 ^ 400 else -(2 ^ 400))
  | .fin n1 m1 e1, .fin n2 m2 e2 =>
    let x := addExact .rne n1 m1 e1 (!n2) m2 e2
    let k := x.2.2 - e
    let t : Int := (x.2.1 * 2 ^ k.toNat / 2 ^ (-k).toNat : Nat)
    some (if x.1 then -t else t)

/-- What a scan finds at an element: y's flags, whether d is undefined, t, n, poison, ŷ. -/
structure Found where
  fl : Flags
  undef : Bool
  t : Int
  n : Int
  psn : Bool
  h : Nat
  deriving DecidableEq, Repr

/-- Examines element i (R39). -/
def examine (s : State) (c : Nat) (l : Layer) (i : Nat) : Found :=
  let ka := keySram c (layAoff l + 4 * i)
  let kh := keySram c (layYoff l + 4 * i)
  let a0 := (s.mem.load ka 4).toNat
  let h := (s.mem.load kh 4).toNat
  let a := if layWfmt l = 2 then fpMul fp32 .rne (f32 a0) (f32 (layScale l)) else (a0, 0)
  let y := if layAct l = 8 then (a.1, 0) else act (actCode (layAct l)) a.1
  let psn := s.mem.psn ka || s.mem.psn kh
  match quantaOf (f32 y.1) (f32 h) (layEout l) with
  | none => { fl := a.2 ||| y.2 ||| flagNV, undef := true, t := 0, n := 0, psn, h }
  | some t => { fl := a.2 ||| y.2, undef := false, t, n := max (-127) (min 127 t), psn, h }

/-- The elements of a scan: from j0 up to the end (R39). -/
def scanEnd (l : Layer) (g : Word) : Nat :=
  let j0 := (g.extractLsb' 0 16).toNat
  let m := (g.extractLsb' 16 16).toNat
  if m = 0 then layL l else min (j0 + m) (layL l)

/-- The event flit of a scan (Table 2-1). -/
def scanFlit (l : Layer) (kind delay : Nat) (n : Int) (neuron : Nat) : Word :=
  BitVec.ofNat 64 (layOclass l * 2 ^ 58 + kind * 2 ^ 56 + delay * 2 ^ 52 + lowBits 8 n * 2 ^ 44 + neuron * 2 ^ 22 +
    layOtarget l)

/-- Sets the sticky NAN bit in the words. -/
def markNan (l : Layer) : Layer := l.set 7 (l.getD 7 0 ||| 8)

/-- Goes on from the scan's element, at most n elements, to the next that emits (R39). -/
def scanOn (s : State) (c : Nat) : Nat → Scan → Scan
  | 0, x => x
  | k + 1, x =>
    let f := examine s c x.words x.elem
    let x := { x with fl := x.fl ||| f.fl, nan := x.nan || f.undef, words := if f.undef then markNan x.words else x.words }
    if f.n ≠ 0 || f.psn then
      let r := fpAdd fp32 .rne (f32 f.h) (.fin (f.n < 0) f.n.natAbs (layEout x.words))
      { x with
        fl := x.fl ||| r.2
        flit := some
          { word := scanFlit x.words 0 (layOdelay x.words) f.n (layObase x.words + x.elem), psn := f.psn
            recon := some (BitVec.ofNat 32 r.1), clamped := decide (f.n ≠ f.t) } }
    else scanOn s c k { x with elem := x.elem + 1 }

/-- The counters of the descriptor after an emission (R39): EMITS, CLAMPS and the sticky CLAMP and PSN. -/
def countEmission (l : Layer) (clamped psn : Bool) : Layer :=
  let w := l.getD 6 0
  let emits := (dfield l 6 48 16 + 1) % 2 ^ 16
  let clamps := if clamped then min (dfield l 6 16 16 + 1) 0xFFFF else dfield l 6 16 16
  let w := (w &&& 0x0000FFFF0000FFFF) ||| BitVec.ofNat 64 (emits * 2 ^ 48 + clamps * 2 ^ 16)
  (l.set 6 w).set 7 (l.getD 7 0 ||| (if clamped then 2 else 0) ||| (if psn then 16 else 0))

/-- The status word of a finished scan (Table 2-4). -/
def scanStatus (x : Scan) : Word :=
  BitVec.ofNat 64 (x.emitted + x.clamped * 2 ^ 16 + (if x.nan then 2 ^ 32 else 0) + (if x.ticked then 2 ^ 33 else 0) +
    (if x.psn then 2 ^ 34 else 0))

/-- A step of a scan: to its next flit, to the next boundary of a 256-byte chunk of the accumulators, 64 elements (R44), or
to its end, where a tick is due first if it asks for one (R39, R46). -/
def scanStep (s : State) (c : Nat) (g : Word) (x : Scan) : Scan :=
  let n := scanEnd x.words g
  let y := scanOn s c (min (n - x.elem) (64 - x.elem % 64)) x
  if y.flit.isNone && n ≤ y.elem && g.getLsbD 63 && !y.ticked then { y with flit := some { word := scanFlit y.words 1 0 0 0 } }
  else y

/-- Goes on with a scan: it stalls on its next flit or stands at the end of a chunk (none), or is finished. NAN is set in the
descriptor as it is met. Of a scan that began on another core the counts in the status word are free values, for no image holds
them (R44). -/
def continueScan (c : Nat) (en : Entry) (x : Scan) : Eng (Option Answered) := do
  let s ← get
  let y := scanStep s c en.opB x
  if y.words ≠ x.words then writeLayer c en 7 (y.words.getD 7 0)
  if y.flit.isSome || y.elem < scanEnd y.words en.opB then
    engMod c fun e => { e with scan := some y }
    return none
  else
    let free := s.freeVal &&& 0x5FFFFFFFF
    if y.moved then engStep State.drawn
    engMod c fun e => { e with scan := none }
    return some (y.fl, some (if y.moved then free ||| (scanStatus y &&& 0x700000000) else scanStatus y, false))

/-- VSDSCAN taken by the event pipe (R34, R39): the scan range first, then the descriptor; a scan that a stop image moved goes
on from its cursor (R44). -/
def beginScan (c : Nat) (en : Entry) : Eng (Option Answered) := do
  if en.opB.extractLsb' 32 31 ≠ 0 then engFormat 2 en.opB
  else
    let l ← readLayer c en false
    let _ ← engPlace c en.realm en.opA 8 needBoth
    let j := (en.opB.extractLsb' 0 16).toNat
    continueScan c en { words := l, elem := max en.prog j, fl := en.fl, moved := j < en.prog }

/-- VSDSCAN: it begins, or goes on from the end of a chunk. -/
def runScan (c : Nat) (en : Entry) : Eng (Option Answered) := do
  match ((← get).engine c).scan with
  | some x => continueScan c en x
  | none => beginScan c en

/-- The channel of a scan's flits: that of its class (R60); the flits of a class that carries no events are discarded at their
source router (R68). -/
def scanVc (s : State) (c : Nat) (l : Layer) : Nat := if (s.entry (routerOf c) (layOclass l)).vc = 5 then 5 else 4

/-- The network interface has taken the stalled flit: the element's reconstruction is written (R40), and the scan goes
on. -/
def flitTaken (c : Nat) (en : Entry) (x : Scan) : Eng (Option Answered) := do
  match x.flit with
  | none => return none
  | some f =>
    engStep fun s => inject s c
      { vc := scanVc s c x.words, flits := [(f.word, f.psn)], srcPkg := s.package, srcCore := BitVec.ofNat 13 c,
        entry := none, via := none }
    match f.recon with
    | none => continueScan c en { x with flit := none, ticked := true }
    | some v =>
      writeArea x.words c en.realm (layYoff x.words + 4 * x.elem) v.toNat f.psn
      let l := countEmission x.words f.clamped f.psn
      writeLayer c en 6 (l.getD 6 0)
      if l.getD 7 0 ≠ x.words.getD 7 0 then writeLayer c en 7 (l.getD 7 0)
      continueScan c en
        { x with flit := none, elem := x.elem + 1, emitted := x.emitted + 1, psn := x.psn || f.psn
                 clamped := x.clamped + (if f.clamped then 1 else 0), words := l }

end Sys2Proof.Machine
end

