-- ==== Sys2Proof/Machine/Matrix.lean ====
section
/-!
DEFINITION. The matrix pipe (R234 to R237, R250 to R255): MATCFG, operand rows, group sums, the tiles.
-/

namespace Sys2Proof.Machine

/-! ### Tiles -/

/-- The key of an element of a tile. -/
def tileKey (t : Acc) (i j : Nat) : Nat := 4096 * t.toNat + 64 * i + j

/-- An element of a tile: bits and poison. -/
def Engine.elem (e : Engine) (t : Acc) (i j : Nat) : Nat × Bool :=
  ((fget e.acc 0 (tileKey t i j)).toNat, fget e.accPsn false (tileKey t i j))

/-- The indexes 0 to 63. -/
def sixtyFour : List Nat := List.range 64

/-- Writes every element of a tile. -/
def Engine.setTile (e : Engine) (t : Acc) (f : Nat → Nat → Nat × Bool) : Engine :=
  let l := sixtyFour.flatMap fun i => sixtyFour.map fun j => (tileKey t i j, f i j)
  { e with
    acc := l.foldl (fun m p => fset m 0 p.1 (BitVec.ofNat 32 p.2.1)) e.acc
    accPsn := l.foldl (fun m p => fset m false p.1 p.2.2) e.accPsn
    accValid := e.accValid ||| BitVec.ofNat 4 (2 ^ t.toNat) }

/-! ### MATCFG (Table 10-4) -/

/-- A field of MATCFG0. -/
def cfgField (en : Entry) (lo n : Nat) : Nat := (en.cfg0.extractLsb' lo n).toNat

/-- K (KG). -/
def cfgK (en : Entry) : Nat := 16 * (cfgField en 44 4 + 1)

/-- The format of an AFMT or BFMT code. -/
def matFmt (n : Nat) : Option FpFmt :=
  match n with
  | 0 => some bf16 | 1 => some e4m3 | 2 => some e5m2 | 3 => some e3m2 | 4 => some e2m3 | 5 => some e2m1 | _ => none

/-- N of MMAS. -/
def cfgN (en : Entry) : Nat := 2 ^ (cfgField en 34 2 + 1)

/-- A reserved bit of MATCFG0 is set. -/
def cfgReserved (en : Entry) : Bool := en.cfg0 &&& 0xF00000013F000000 ≠ 0

/-- Bytes that n elements of w bits take. -/
def rowBytes (n w : Nat) : Nat := (n * w + 7) / 8

/-- What an MMA or MMAS works with. -/
structure MatCfg where
  k : Nat
  /-- elements of a row of A per group: 16, or N -/
  n : Nat
  fa : FpFmt
  fb : FpFmt
  scales : Bool
  astride : Nat
  bstride : Nat

/-- The checks of R252, in its order, and the configuration. -/
def matCfg (sparse : Bool) (en : Entry) : Eng MatCfg :=
  match matFmt (cfgField en 40 4), matFmt (cfgField en 36 4) with
  | some fa, some fb =>
    let a := cfgField en 40 4
    let b := cfgField en 36 4
    let k := cfgK en
    let n := if sparse then cfgN en else 16
    let sa := 8 * cfgField en 12 12
    let sb := 8 * cfgField en 0 12
    let scales := en.cfg0.getLsbD 33
    if cfgReserved en || (sparse && cfgField en 34 2 = 3) then engFormat 3 0
    else if scales && cfgField en 44 4 % 2 = 0 then engFormat 3 0
    else if sparse && !((a = 1 || a = 2) && (b = 1 || b = 2)) then engFormat 3 0
    else if sa < rowBytes (k / 16 * n) fa.width then engFormat 4 en.opA
    else if sb < rowBytes 64 fb.width then engFormat 4 en.opB
    else if en.opA.toNat % 8 ≠ 0 then engFormat 4 en.opA
    else if en.opB.toNat % 8 ≠ 0 then engFormat 4 en.opB
    else if sparse && en.cfg1.toNat % 4 ≠ 0 then engFormat 4 en.cfg1
    else pure { k, n, fa, fb, scales, astride := sa, bstride := sb }
  | _, _ => engFormat 3 0

/-! ### Operands (R219, R252) -/

/-- Elements first to first + n − 1 of w bits of the stream at an address that is a multiple of 8, each with the poison of
its words. -/
def readElems (c : Nat) (en : Entry) (base : Word) (w first n : Nat) : Eng (List (Nat × Bool)) := do
  let lo := w * first / 64
  let hi := (w * (first + n) - 1) / 64
  let ws ← ((List.range (hi + 1 - lo)).mapM fun i => do
    let p ← engPlace c en.realm (base + BitVec.ofNat 64 (8 * (lo + i))) 8 needRead
    engRead c p 8 : Eng (List (Word × Bool)))
  let bits := packed 64 (ws.map fun x => x.1.toNat)
  return (List.range n).map fun i =>
    let a := w * (first + i) - 64 * lo
    (slice bits a w, (ws.getD (a / 64) (0, false)).2 || (ws.getD ((a + w - 1) / 64) (0, false)).2)

/-- One element of n bytes at an address that need not be a multiple of 8. -/
def readSmall (c : Nat) (en : Entry) (va : Word) (n : Nat) : Eng (Nat × Bool) := do
  let p ← engPlace c en.realm va n needRead
  let r ← engRead c p n
  return (r.1.toNat, r.2)

/-- A row of A in a group: the element at each of its 16 indices, absent ones left out (R236), and its poison. -/
structure ARow where
  elems : List (Option Fp)
  psn : Bool

/-- The indices of a metadata word, if it is legal (R237). -/
def metaIndices (n w : Nat) : Option (List Nat) :=
  let l := (List.range n).map fun p => w / 16 ^ p % 16
  if w / 16 ^ n = 0 && (List.zip l l.tail).all (fun p => p.1 < p.2) then some l else none

/-- The metadata words of a group, checked for every row before any product (R237). -/
def groupMeta (c : Nat) (en : Entry) (m : MatCfg) (g : Nat) : Eng (List (List Nat × Bool)) :=
  sixtyFour.mapM fun i => do
    let w ← readSmall c en (en.cfg1 + BitVec.ofNat 64 (4 * (i * (m.k / 16) + g))) 4
    match metaIndices m.n w.1 with
    | some l => return (l, w.2)
    | none => engFault (BitVec.ofNat 64 (2 ^ 56 + i * 256 + g))

/-- The rows of A in group g. -/
def groupRows (c : Nat) (en : Entry) (m : MatCfg) (sparse : Bool) (g : Nat) : Eng (List ARow) := do
  let idx ← (if sparse then groupMeta c en m g else pure [] : Eng (List (List Nat × Bool)))
  sixtyFour.mapM fun i => do
    let es ← readElems c en (en.opA + BitVec.ofNat 64 (m.astride * i)) m.fa.width (m.n * g) m.n
    let p := es.any (·.2)
    if sparse then
      let (l, mp) := idx.getD i ([], false)
      return { psn := p || mp
               elems := (List.range 16).map fun k =>
                 (l.idxOf? k).map fun j => unpack m.fa (es.getD j (0, false)).1 }
    else return { psn := p, elems := es.map fun x => some (unpack m.fa x.1) }

/-! ### The group sum (R234) -/

/-- A sum in progress: the exact finite part as an integer multiple of 2^e, the infinities met, NaN, NV. -/
structure Sum where
  v : Int := 0
  e : Int := 0
  pos : Bool := false
  neg : Bool := false
  nan : Bool := false
  nv : Bool := false

/-- Adds an exact finite value. -/
def Sum.addFin (a : Sum) (n : Bool) (m : Nat) (x : Int) : Sum :=
  let e := min a.e x
  let w : Int := m * 2 ^ (x - e).toNat
  { a with v := a.v * 2 ^ (a.e - e).toNat + (if n then -w else w), e }

/-- Adds a product (R234). -/
def Sum.addProduct (a : Sum) (x y : Fp) : Sum :=
  let a := if x.isSnan || y.isSnan then { a with nv := true } else a
  match x, y with
  | .nan _, _ | _, .nan _ => { a with nan := true }
  | .inf n, .inf k => if n == k then { a with pos := true } else { a with neg := true }
  | .inf n, .fin k m _ | .fin k m _, .inf n =>
    if m = 0 then { a with nan := true, nv := true }
    else if n == k then { a with pos := true } else { a with neg := true }
  | .fin n m e, .fin k l f => a.addFin (n != k) (m * l) (e + f)

/-- The value of a sum, and its flags. -/
def Sum.result (a : Sum) : Fp × Flags :=
  let nv := a.nv || (a.pos && a.neg)
  (if a.nan || (a.pos && a.neg) then .nan false
   else if a.pos then .inf false
   else if a.neg then .inf true
   else .fin (a.v < 0) a.v.natAbs a.e,
   if nv then flagNV else 0)

/-- The sum over a row of A and a column of B; absent elements contribute nothing (R236). -/
def dot (row : List (Option Fp)) (col : List Fp) : Fp × Flags :=
  Sum.result ((List.zip row col).foldl (fun a p =>
    match p.1 with
    | some x => a.addProduct x p.2
    | none => a) {})

/-- The value under two E8M0 scales (R235). -/
def scaled (s : Fp) (sa sb : Nat) : Fp :=
  if sa = 255 || sb = 255 then .nan false
  else
    match s with
    | .fin n m e => .fin n m (e + sa + sb - 254)
    | x => x

/-- Adds group g to the tile (R234, R252): all is read and checked before any element changes. -/
def addGroup (sparse : Bool) (t : Acc) (c : Nat) (en : Entry) (m : MatCfg) (g : Nat) : Eng Flags := do
  let rows ← groupRows c en m sparse g
  let b ← ((List.range 16).mapM fun k =>
    readElems c en (en.opB + BitVec.ofNat 64 (m.bstride * (16 * g + k))) m.fb.width 0 64 : Eng (List (List (Nat × Bool))))
  let sa ← (if m.scales then
    sixtyFour.mapM fun i => readSmall c en (en.cfg2 + BitVec.ofNat 64 (i * (m.k / 32) + g / 2)) 1
    else pure [] : Eng (List (Nat × Bool)))
  let sb ← (if m.scales then
    sixtyFour.mapM fun j => readSmall c en (en.cfg3 + BitVec.ofNat 64 (64 * (g / 2) + j)) 1
    else pure [] : Eng (List (Nat × Bool)))
  let cell (old : Nat × Bool) (i j : Nat) : (Nat × Bool) × Flags :=
    let row := rows.getD i { elems := [], psn := false }
    let col := b.map fun r => r.getD j (0, false)
    let d := dot row.elems (col.map fun x => unpack m.fb x.1)
    let pb := (List.zip row.elems col).any fun p => p.1.isSome && p.2.2
    let a := sa.getD i (127, false)
    let z := sb.getD j (127, false)
    let r := fpAdd fp32 .rne (f32 old.1) (if m.scales then scaled d.1 a.1 z.1 else d.1)
    ((r.1, old.2 || row.psn || pb || a.2 || z.2), d.2 ||| r.2)
  let e := (← get).engine c
  engMod c fun x => x.setTile t fun i j => (cell (e.elem t i j) i j).1
  return orFlags (sixtyFour.flatMap fun i => sixtyFour.map fun j => (cell (e.elem t i j) i j).2)

/-- MPROG where the instruction stops (R253). -/
def stopProg (c g : Nat) (t : Acc) (s : State) : State :=
  s.modEngine c fun e => { e with progValid := true, progGroup := BitVec.ofNat 5 g, progAcc := t }

/-- MPROG after a group (R234); retirement leaves VALID clear (R253). -/
def groupProg (c g : Nat) (s : State) : State :=
  s.modEngine c fun e => { e with progValid := false, progGroup := BitVec.ofNat 5 g }

/-- The groups from g on, n of them; a fault leaves the groups below it added, with their flags, and MPROG at the failing one
(R237, R253). -/
def addGroups (sparse : Bool) (t : Acc) (c : Nat) (en : Entry) (m : MatCfg) : Nat → Nat → Flags → Eng Flags
  | 0, _, fl => pure fl
  | n + 1, g, fl => fun s =>
    match addGroup sparse t c en m g s with
    | .error (.fault v _ _ u) => .error (.fault v g fl (stopProg c g t u))
    | .error e => .error e
    | .ok (f, u) => addGroups sparse t c en m n (g + 1) (fl ||| f) (groupProg c (g + 1) u)

/-- MMA, and MMAS with sparse set (R234, R236, R252, R253): from the group that its progress records; a stop lets it end the
group that it adds. -/
def multiply (sparse : Bool) (t : Acc) (halt : Option Nat) (c : Nat) (en : Entry) : Eng Answered := do
  let m ← matCfg sparse en
  let k := haltAt halt en.prog (m.k / 16)
  let fl ← addGroups sparse t c en m (k - en.prog) en.prog en.fl
  if k < m.k / 16 then
    engStep (stopProg c k t)
    engHalt k fl
  else return (fl, none)

/-- MZERO (R253). -/
def zeroTile (t : Acc) (c : Nat) : Eng Answered := pureEffect c fun e => { eng := e.setTile t fun _ _ => (0, false) }

/-! ### MLDACC and MSTACC (R254) -/

/-- The checks of MLDACC, and of MSTACC with its OFMT: the row stride in bytes. -/
def tileStride (en : Entry) (ofmt : Nat) : Eng Nat :=
  let cs := 8 * cfgField en 48 12
  if cfgReserved en || ofmt = 3 then engFormat 3 0
  else if en.opA.toNat % 8 ≠ 0 || cs < (if ofmt = 0 then 256 else 128) then engFormat 4 en.opA
  else pure cs

/-- MLDACC. -/
def loadTile (t : Acc) (c : Nat) (en : Entry) : Eng Answered := do
  let cs ← tileStride en 0
  let rows ← sixtyFour.mapM fun i => readElems c en (en.opA + BitVec.ofNat 64 (cs * i)) 32 0 64
  engMod c fun e => e.setTile t fun i j => (rows.getD i []).getD j (0, false)
  return (0, none)

/-- MSTACC: rows in ascending order from the one that its progress records, each checked before it is written. -/
def storeTile (t : Acc) (halt : Option Nat) (c : Nat) (en : Entry) : Eng Answered := do
  let ofmt := cfgField en 30 2
  let cs ← tileStride en ofmt
  let e := (← get).engine c
  let w := if ofmt = 0 then 32 else 16
  let conv (x : Nat) : Nat × Flags :=
    if ofmt = 0 then (x, 0) else fpConvert (if ofmt = 1 then bf16 else fp16) .rne (f32 x)
  let k := haltAt halt en.prog 64
  let fl ← ((sixtyFour.take k).drop en.prog).foldlM (fun (fl : Flags) i => withProg i fl do
    let row := sixtyFour.map fun j => let x := e.elem t i j; (conv x.1, x.2)
    let words := List.range (w)
    let va (k : Nat) : Word := en.opA + BitVec.ofNat 64 (cs * i + 8 * k)
    let per := 64 / w
    let ps ← words.mapM fun k => do return (k, ← engPlace c en.realm (va k) 8 needWrite)
    ps.forM fun p => do
      let cells := (row.drop (per * p.1)).take per
      engWrite c en.realm p.2 8 (BitVec.ofNat 64 (packed w (cells.map fun x => x.1.1))) (cells.any (·.2))
    return fl ||| orFlags (row.map fun x => x.1.2)) en.fl
  if k < 64 then engHalt k fl else return (fl, none)

/-! ### MXFORM (R255) -/

/-- The operation word is illegal. -/
def xformBad (g : Word) : Bool :=
  let op := (g.extractLsb' 0 2).toNat
  op = 3 || g &&& 0xFFFFFFFFFFFF80FC ≠ 0 || (g.getLsbD 14 && op ≠ 1) || (op = 2 && 6 < (g.extractLsb' 8 6).toNat)

/-- An element of a reduction: the rows from r, n of them, of column j, in groups of 16 with one rounding each. -/
def reduceRows (e : Engine) (s : Acc) (j r n : Nat) : (Nat × Bool) × Flags :=
  let groups := (List.range ((n + 15) / 16)).map fun g => (List.range (min 16 (n - 16 * g))).map fun k =>
    e.elem s (r + 16 * g + k) j
  groups.foldl (fun a l =>
    let d := dot (l.map fun _ => some (.fin false 1 0)) (l.map fun x => f32 x.1)
    let v := fpAdd fp32 .rne (f32 a.1.1) d.1
    ((v.1, a.1.2 || l.any (·.2)), a.2 ||| d.2 ||| v.2)) ((0, false), 0)

/-- An element of the result (R255). -/
def xformElem (e : Engine) (s : Acc) (g : Word) (i j : Nat) : (Nat × Bool) × Flags :=
  let amt := (g.extractLsb' 8 6).toNat
  match (g.extractLsb' 0 2).toNat with
  | 0 => (e.elem s j i, 0)
  | 1 => (e.elem s (((if g.getLsbD 14 then 63 - i else i) + amt) % 64) j, 0)
  | _ => if i < 64 / 2 ^ amt then reduceRows e s j (i * 2 ^ amt) (2 ^ amt) else ((0, false), 0)

/-- MXFORM: its operation word is the only general register it captures. -/
def transform (d s : Acc) (c : Nat) (en : Entry) : Eng Answered :=
  if xformBad en.opA then engFormat 5 en.opA
  else pureEffect c fun e =>
    { eng := e.setTile d fun i j => (xformElem e s en.opA i j).1
      fl := orFlags (sixtyFour.flatMap fun i => sixtyFour.map fun j => (xformElem e s en.opA i j).2) }

end Sys2Proof.Machine
end

