-- ==== Sys2Proof/Machine/Engine.lean ====
section
/-!
DEFINITION. The quad engine (R84, R241 to R257, R269, R414): dispatch, grants, retirement, faults, replay and drop, and
the dispatch of every engine instruction.
-/

namespace Sys2Proof.Machine

/-! ### What an instruction does when it retires -/

/-- The rounding mode captured at dispatch (R224). -/
def Entry.rmode (en : Entry) : RMode := .ofFrm en.frm

/-- The effect of an engine instruction on core c; none where a scan has stalled on a flit or stands at the end of a chunk
(R40, R44). A word that is no engine instruction has no effect. `halt` is set where a stop comes while it runs (R282). -/
def effect (halt : Option Nat) (i : Instr) (c : Nat) (en : Entry) : Eng (Option Answered) :=
  let r := en.rmode
  let pure1 (f : Engine → VOut) : Eng (Option Answered) := some <$> pureEffect c f
  match i with
  | .vld d _ m e => some <$> vectorLoad .unit (eBytes e) d m c en
  | .vlds d _ _ m e => some <$> vectorLoad .stride (eBytes e) d m c en
  | .vldx d _ v m e => some <$> vectorLoad (.index v) (eBytes e) d m c en
  | .vst d _ m e => some <$> vectorStore .unit (eBytes e) d m c en
  | .vsts d _ _ m e => some <$> vectorStore .stride (eBytes e) d m c en
  | .vstx d _ v m e => some <$> vectorStore (.index v) (eBytes e) d m c en
  | .vadd d a b m t z q => pure1 (twoSource (laneArith fpAdd (· + ·) q) d a b m t z r)
  | .vsub d a b m t z q => pure1 (twoSource (laneArith fpSub (· - ·) q) d a b m t z r)
  | .vmul d a b m t z q => pure1 (twoSource (laneArith fpMul (· * ·) q) d a b m t z r)
  | .vmin d a b m t z => pure1 (twoSource (laneMinMax false) d a b m t z r)
  | .vmax d a b m t z => pure1 (twoSource (laneMinMax true) d a b m t z r)
  | .vabs d a m t z => pure1 (oneSource (laneSign true) d a m t z)
  | .vneg d a m t z => pure1 (oneSource (laneSign false) d a m t z)
  | .vand d a b m t z => pure1 (twoSource (laneBits Nat.land) d a b m t z r)
  | .vor d a b m t z => pure1 (twoSource (laneBits Nat.lor) d a b m t z r)
  | .vxor d a b m t z => pure1 (twoSource (laneBits Nat.xor) d a b m t z r)
  | .vshl d a b m t z => pure1 (twoSource laneShl d a b m t z r)
  | .vshr d a b m t z => pure1 (twoSource laneShr d a b m t z r)
  | .vcmpeq d a b m t => pure1 (laneCompare true (· == .eq) d a b m t)
  | .vcmplt d a b m t => pure1 (laneCompare false (· == .lt) d a b m t)
  | .vcmple d a b m t => pure1 (laneCompare false (· != .gt) d a b m t)
  | .vsel d a b m t => pure1 (select d a b m t)
  | .vmov d a m t z => pure1 (oneSource (fun _ x => (x, 0)) d a m t z)
  | .vsplat v _ t => pure1 (splat v t en.opA en.psnA)
  | .vext v _ _ t => pure1 (extractLane v t en.opA en.psnA)
  | .vins v _ _ t => pure1 (insertLane v t en.opA en.psnA en.opB en.psnB)
  | .vfma d a b m t z => pure1 (laneFma false false d a b m t z r)
  | .vfms d a b m t z => pure1 (laneFma false true d a b m t z r)
  | .vfnma d a b m t z => pure1 (laneFma true false d a b m t z r)
  | .mand d a b => pure1 (maskLogic (· &&& ·) d a b)
  | .mor d a b => pure1 (maskLogic (· ||| ·) d a b)
  | .mxor d a b => pure1 (maskLogic (· ^^^ ·) d a b)
  | .mnot d a => pure1 (maskLogic (fun x _ => ~~~x) d a a)
  | .mpopc v _ t => pure1 (maskCount v t)
  | .msetn v _ t => pure1 (maskSet v t en.opA en.psnA)
  | .vredadd d a m t => pure1 (reduce 0 (laneArith fpAdd (· + ·) false) d a m t r)
  | .vredmax d a m t => pure1 (reduce 1 (laneMinMax true) d a m t r)
  | .vredmin d a m t => pure1 (reduce 2 (laneMinMax false) d a m t r)
  | .vperm d a b m t z => pure1 (permute d a b m t z)
  | .vrot d a b m t z => pure1 (rotate d a b m t z)
  | .vcompress d a m t => pure1 (compress d a m t)
  | .vscmac _ _ _ => some <$> applyEvent false halt c en
  | .vdring _ _ _ => some <$> applyEvent true halt c en
  | .vsdscan _ _ _ => runScan c en
  | .vdtick _ _ => some <$> closeStep halt c en
  | .vcvt d a src m dst q => pure1 (convertVec d a src dst m (rmMode q en.frm))
  | .vquant d a b m dst q => pure1 (quantVec d a b dst m (rmMode q en.frm))
  | .vact d a m z k => pure1 (activate k d a m z)
  | .mma t _ _ => some <$> multiply false t halt c en
  | .mmas t _ _ => some <$> multiply true t halt c en
  | .mzero t => some <$> zeroTile t c
  | .mldacc t _ => some <$> loadTile t c en
  | .mstacc t _ => some <$> storeTile t halt c en
  | .mxform d s _ => some <$> transform d s c en
  | .isect d a b n => pure1 (mergeForm isectOf d a b n)
  | .union d a b n => pure1 (mergeForm unionOf d a b n)
  | .merge d a b n => pure1 (mergeForm mergeOf d a b n)
  | .evpopv v _ => pure1 (popVec v en.popped)
  | _ => pure (some (0, none))

/-- A frame word with its register fields strided (R248); every other word as it is. -/
def strided (i : Instr) (dd da db : BitVec 4) : Instr :=
  match i with
  | .vadd d a b m t z q => .vadd (d + dd) (a + da) (b + db) m t z q
  | .vsub d a b m t z q => .vsub (d + dd) (a + da) (b + db) m t z q
  | .vmul d a b m t z q => .vmul (d + dd) (a + da) (b + db) m t z q
  | .vmin d a b m t z => .vmin (d + dd) (a + da) (b + db) m t z
  | .vmax d a b m t z => .vmax (d + dd) (a + da) (b + db) m t z
  | .vabs d a m t z => .vabs (d + dd) (a + da) m t z
  | .vneg d a m t z => .vneg (d + dd) (a + da) m t z
  | .vand d a b m t z => .vand (d + dd) (a + da) (b + db) m t z
  | .vor d a b m t z => .vor (d + dd) (a + da) (b + db) m t z
  | .vxor d a b m t z => .vxor (d + dd) (a + da) (b + db) m t z
  | .vshl d a b m t z => .vshl (d + dd) (a + da) (b + db) m t z
  | .vshr d a b m t z => .vshr (d + dd) (a + da) (b + db) m t z
  | .vcmpeq d a b m t => .vcmpeq (d + dd.setWidth 3) (a + da) (b + db) m t
  | .vcmplt d a b m t => .vcmplt (d + dd.setWidth 3) (a + da) (b + db) m t
  | .vcmple d a b m t => .vcmple (d + dd.setWidth 3) (a + da) (b + db) m t
  | .vsel d a b m t => .vsel (d + dd) (a + da) (b + db) m t
  | .vmov d a m t z => .vmov (d + dd) (a + da) m t z
  | .vfma d a b m t z => .vfma (d + dd) (a + da) (b + db) m t z
  | .vfms d a b m t z => .vfms (d + dd) (a + da) (b + db) m t z
  | .vfnma d a b m t z => .vfnma (d + dd) (a + da) (b + db) m t z
  | .vredadd d a m t => .vredadd (d + dd) (a + da) m t
  | .vredmax d a m t => .vredmax (d + dd) (a + da) m t
  | .vredmin d a m t => .vredmin (d + dd) (a + da) m t
  | .vperm d a b m t z => .vperm (d + dd) (a + da) (b + db) m t z
  | .vrot d a b m t z => .vrot (d + dd) (a + da) (b + db) m t z
  | .vcompress d a m t => .vcompress (d + dd) (a + da) m t
  | .vcvt d a src m dst q => .vcvt (d + dd) (a + da) src m dst q
  | .vquant d a b m dst q => .vquant (d + dd) (a + da) (b + db) m dst q
  | .vact d a m z k => .vact (d + dd) (a + da) m z k
  | i => i

/-- The word may stand in a frame (R249). -/
def frameable (i : Instr) : Bool :=
  match i with
  | .vadd .. | .vsub .. | .vmul .. | .vmin .. | .vmax .. | .vabs .. | .vneg .. | .vand .. | .vor .. | .vxor ..
  | .vshl .. | .vshr .. | .vcmpeq .. | .vcmplt .. | .vcmple .. | .vsel .. | .vmov .. | .vfma .. | .vfms .. | .vfnma ..
  | .vredadd .. | .vredmax .. | .vredmin .. | .vperm .. | .vrot .. | .vcompress .. | .vcvt .. | .vquant ..
  | .vact .. => true
  | _ => false

/-! ### Hazards and pipes (R242, Table 10-1) -/

/-- The engine registers that an instruction reads and writes, and how it uses memory. Registers are numbered: v0 to v15 at
0 to 15, m1 to m7 at 17 to 23, acc0 to acc3 at 24 to 27. -/
structure Uses where
  reads : List Nat := []
  writes : List Nat := []
  rd : Bool := false
  wr : Bool := false
  deriving DecidableEq, Repr

/-- The number of a mask; m0 is no register of a hazard. -/
def maskUse (m : MReg) : List Nat := if m = 0 then [] else [16 + m.toNat]

/-- What an engine instruction uses (R242). -/
def usesOf (i : Instr) : Uses :=
  match i with
  | .vld d _ m _ | .vlds d _ _ m _ => { reads := maskUse m, writes := [d.toNat], rd := true }
  | .vldx d _ v m _ => { reads := v.toNat :: maskUse m, writes := [d.toNat], rd := true }
  | .vst d _ m _ | .vsts d _ _ m _ => { reads := d.toNat :: maskUse m, wr := true }
  | .vstx d _ v m _ => { reads := d.toNat :: v.toNat :: maskUse m, wr := true }
  | .vadd d a b m _ _ _ | .vsub d a b m _ _ _ | .vmul d a b m _ _ _ =>
    { reads := a.toNat :: b.toNat :: maskUse m, writes := [d.toNat] }
  | .vmin d a b m _ _ | .vmax d a b m _ _ | .vand d a b m _ _ | .vor d a b m _ _ | .vxor d a b m _ _
  | .vshl d a b m _ _ | .vshr d a b m _ _ | .vsel d a b m _ | .vperm d a b m _ _ | .vrot d a b m _ _
  | .vquant d a b m _ _ => { reads := a.toNat :: b.toNat :: maskUse m, writes := [d.toNat] }
  | .vabs d a m _ _ | .vneg d a m _ _ | .vmov d a m _ _ | .vredadd d a m _ | .vredmax d a m _ | .vredmin d a m _
  | .vcompress d a m _ | .vcvt d a _ m _ _ | .vact d a m _ _ => { reads := a.toNat :: maskUse m, writes := [d.toNat] }
  | .vcmpeq d a b m _ | .vcmplt d a b m _ | .vcmple d a b m _ =>
    { reads := a.toNat :: b.toNat :: maskUse m, writes := maskUse d }
  | .vfma d a b m _ _ | .vfms d a b m _ _ | .vfnma d a b m _ _ =>
    { reads := d.toNat :: a.toNat :: b.toNat :: maskUse m, writes := [d.toNat] }
  | .vsplat v _ _ | .evpopv v _ => { writes := [v.toNat] }
  | .vext v _ _ _ => { reads := [v.toNat] }
  | .vins v _ _ _ => { reads := [v.toNat], writes := [v.toNat] }
  | .mand d a b | .mor d a b | .mxor d a b => { reads := maskUse a ++ maskUse b, writes := maskUse d }
  | .mnot d a => { reads := maskUse a, writes := maskUse d }
  | .mpopc v _ _ => { reads := maskUse v }
  | .msetn v _ _ => { writes := maskUse v }
  | .vscmac _ _ _ | .vdring _ _ _ | .vsdscan _ _ _ | .vdtick _ _ => { rd := true, wr := true }
  | .mma t _ _ | .mmas t _ _ => { reads := [24 + t.toNat], writes := [24 + t.toNat], rd := true }
  | .mzero t => { writes := [24 + t.toNat] }
  | .mldacc t _ => { writes := [24 + t.toNat], rd := true }
  | .mstacc t _ => { reads := [24 + t.toNat], wr := true }
  | .mxform d s _ => { reads := [24 + s.toNat], writes := [24 + d.toNat] }
  | .isect d a b _ | .union d a b _ | .merge d a b _ =>
    { reads := [a.toNat, b.toNat], writes := [2 * d.toNat, 2 * d.toNat + 1] }
  | _ => {}

/-- The pipe of a word by its major opcode (Table 10-1): 0 vector, 1 event, 2 matrix, 3 merge. -/
def pipeOf (w : IWord) : Nat :=
  match (w.extractLsb' 26 6).toNat with
  | 0x27 => 1 | 0x2A => 2 | 0x2B => 3 | _ => 0

/-- The instruction of an entry, strided in its replay. -/
def Entry.instr (en : Entry) : Option Instr :=
  match decode en.word with
  | .error _ => none
  | .ok i =>
    match en.frame with
    | none => some i
    | some (_, sd, sa, sb) =>
      let by_ (k : BitVec 2) : BitVec 4 := BitVec.ofNat 4 (en.rep * k.toNat)
      some (strided i (by_ sd) (by_ sa) (by_ sb))

/-- What an entry uses. -/
def Entry.uses (en : Entry) : Uses := (en.instr.map usesOf).getD {}

/-- Two lists share a number. -/
def shares (a b : List Nat) : Bool := a.any b.contains

/-- The earlier instruction x, unretired, holds back the head h (R242). -/
def holdsBack (x h : Entry) : Bool :=
  let u := x.uses
  let v := h.uses
  shares u.writes (v.reads ++ v.writes) || shares u.reads v.writes ||
    (pipeOf x.word ≠ pipeOf h.word && (((v.rd || v.wr) && u.wr) || (v.wr && (u.rd || u.wr))))

/-- Every scalar access of the task that came before the entry has been performed (R208), and every access of another context of
the core that a CORE-scope release has passed and an engine access can meet (R198, R205): none meets a FIFO port (R428). -/
def scalarDone (s : State) (c : Nat) (en : Entry) : Bool :=
  s.mem.reqs.all fun r =>
    r.done || !((r.by c 0 en.gen && r.id < en.mark) || (r.before c 0 en.gen && !r.place.isFifo))

/-- The head of a core's queue may issue to a pipe, if the pipe grants it (R242). -/
def headFor (s : State) (c pipe : Nat) : Option Entry :=
  let e := s.engine c
  match e.queue with
  | [] => none
  | h :: _ =>
    if pipeOf h.word = pipe && !(s.core c).stopped &&
        !(e.running.any fun x => (e.earlier x.seq h.seq || x.frame.isSome) && holdsBack x h) &&
        (!(h.uses.rd || h.uses.wr) || scalarDone s c h) then some h else none

/-- The cores of a core's quad (R9). -/
def quadOf (c : Nat) : List Nat := [0, 1, 2, 3].map (c / 4 * 4 + ·)

/-- No instruction occupies the pipe of the quad. -/
def pipeFree (s : State) (c pipe : Nat) : Bool :=
  (quadOf c).all fun k => (s.engine k).running.all fun x => pipeOf x.word ≠ pipe

/-- The core that the pipe grants next: round-robin after the one it granted last (R243). -/
def nextGranted (s : State) (c pipe : Nat) : Option Nat :=
  let last := fget (s.cluster (clusterOf c)).pipeLast 3 (4 * (c / 4 % 4) + pipe)
  ([1, 2, 3, 4].map fun i => c / 4 * 4 + (last + i) % 4).find? fun k => (headFor s k pipe).isSome

/-! ### The dispatch ring (R246) -/

/-- Changes the ring's entry of a sequence number, while it is still that number's. -/
def Engine.modRing (e : Engine) (q : BitVec 16) (f : RingEntry → RingEntry) : Engine :=
  let k := q.toNat % 64
  let x := fget e.ring {} k
  if x.seq = q then { e with ring := fset e.ring {} k (f x) } else e

/-- Sets the ring state of a list of entries. -/
def Engine.ringAll (e : Engine) (l : List Entry) (st : RingState) : Engine :=
  l.foldl (fun e x => e.modRing x.seq fun r => { r with state := st }) e

/-- Sets the ring state of the RPT in the frame register. -/
def Engine.ringRpt (e : Engine) (st : RingState) : Engine :=
  match e.rptHeld with
  | none => e
  | some q => e.modRing q fun r => { r with state := st }

/-- Takes the first entry of a sequence number out of a list. -/
def takeSeq (l : List Entry) (q : BitVec 16) : List Entry :=
  match l with
  | [] => []
  | x :: r => if x.seq = q then r else x :: takeSeq r q

/-! ### Grants (R243) -/

/-- A frame word goes to the end of its frame. -/
def afterFrame (x : Entry) : List Entry → List Entry
  | [] => [x]
  | y :: r => if y.frame.isSome then y :: afterFrame x r else x :: y :: r

/-- The head is granted: it runs; a frame word with replays to come goes behind its frame, and the frame register is free
after the last (R243, R248). -/
def Engine.grant (e : Engine) : Engine :=
  match e.queue with
  | [] => e
  | h :: r =>
    let e := { e with running := e.running ++ [h] }
    match h.frame with
    | none => { e with queue := r }
    | some (n, _, _, _) =>
      if h.rep < n.toNat then { e with queue := afterFrame { h with rep := h.rep + 1 } r }
      else
        let e := { e with queue := r }
        if r.any (·.frame.isSome) then e
        else { e.ringRpt .retired with rptHeld := none }

/-- ENGINE_GRANT: a pipe grants the head of the core's dispatch queue (R243). -/
def execEngineGrant (core : BitVec 12) (s : State) : Result :=
  let c := core.toNat
  match (s.engine c).queue with
  | [] => .next s
  | h :: _ =>
    let pipe := pipeOf h.word
    if pipeFree s c pipe && nextGranted s c pipe = some c then
      .next ((s.modEngine c Engine.grant).modCluster (clusterOf c) fun n =>
        { n with pipeLast := fset n.pipeLast 3 (4 * (c / 4 % 4) + pipe) (c % 4) })
    else .next s

/-! ### Retirement and faults (R229, R244, R245) -/

/-- Runs f with the registers of the task that dispatched the entry: a killed task's own stand aside (R274). -/
def withTask (c : Nat) (g : BitVec 8) (f : State → Except EngStop (Option Answered × State)) (s : State) :
    Except EngStop (Option Answered × State) :=
  match (s.engine c).old.find? (·.1 == g) with
  | none => f s
  | some (_, regs) =>
    let now := (s.engine c).toEngRegs
    let back (t : State) : State := t.modEngine c fun e =>
      { e with toEngRegs := now
               old := e.old.map fun p => if p.1 == g then (g, e.toEngRegs) else p }
    match f (s.modEngine c fun e => { e with toEngRegs := regs }) with
    | .ok (a, t) => .ok (a, back t)
    | .error (.fault v p fl t) => .error (.fault v p fl (back t))
    | .error (.halt p fl t) => .error (.halt p fl (back t))
    | .error .busy => .error .busy

/-- The registers of killed tasks without outstanding instructions go. -/
def Engine.forget (e : Engine) : Engine :=
  { e with old := e.old.filter fun p => (e.queue ++ e.running).any (·.gen == p.1) }

/-- The entry's task still runs in slot 0. -/
def taskLives (s : State) (c : Nat) (en : Entry) : Bool := (s.ctxAt c 0).occupied && (s.ctxAt c 0).gen == en.gen

/-- The instruction retires: flags and the result reach slot 0's context, its locks end (R229, R244), and INSTRET counts it;
a frame word was counted at dispatch (R332). -/
def retired (s : State) (c : Nat) (en : Entry) (a : Answered) : State :=
  let s := s.modEngine c fun e =>
    let e := { e with running := takeSeq e.running en.seq }
    let last := match en.frame with
      | none => true
      | some (n, _, _, _) => en.rep = n.toNat
    (e.modRing en.seq fun r =>
      { r with rep := if en.frame.isSome then BitVec.ofNat 8 (en.rep + 1) else 0
               state := if last then .retired else r.state }).forget
  if !taskLives s c en then s
  else
    let s := (s.raise c 0 a.1).modCtxAt c 0 fun x => if en.frame.isNone then { x with instret := x.instret + 1 } else x
    match en.d, a.2 with
    | some d, some (v, p) => s.modCtxAt c 0 fun x => (x.setReg d v p).setLock d false
    | _, _ => s

/-- Puts an entry among the dropped ones, by its number. -/
def insertSeq (e : Engine) (x : Entry) : List Entry → List Entry
  | [] => [x]
  | y :: r => if e.earlier x.seq y.seq then x :: y :: r else y :: insertSeq e x r

/-- An engine instruction faults with its PROG and flags (R245): the lowest fault is reported, every later entry that has
not issued is discarded. A fault of a killed task's instruction is dropped with the later ones of the task. -/
def engineFault (s : State) (c : Nat) (en : Entry) (val : Word) (prog : Nat) (fl : Flags) : State :=
  let live := taskLives s c en
  s.modEngine c fun e =>
    let e := { e with running := takeSeq e.running en.seq, scan := if pipeOf en.word = 1 then none else e.scan }
    if !live then
      ({ e with queue := e.queue.filter fun x => x.gen ≠ en.gen } : Engine).forget
    else
      let en := { en with prog, fl }
      let late := e.queue.filter fun x => e.earlier en.seq x.seq
      let first := match e.fault with
        | none => true
        | some (q, _) => e.earlier en.seq q
      let e := e.ringAll late .discarded
      let e := if late.any (·.frame.isSome) then e.ringRpt .discarded else e
      let e := match e.fault with
        | some (q, _) => if first then e.modRing q fun r => { r with state := .discarded } else e
        | none => e
      let e := e.modRing en.seq fun r => { r with state := if first then .faulted else .discarded }
      { e with
        queue := e.queue.filter fun x => !e.earlier en.seq x.seq
        dropped := insertSeq e en (e.dropped ++ late)
        fault := if first then some (en.seq, val) else e.fault }

/-- What follows from an effect: a fault, a halt, a stall of a scan or of a switching bank, or retirement. -/
def settleEffect (s : State) (c : Nat) (en : Entry) (r : Except EngStop (Option Answered × State)) : State :=
  match r with
  | .error .busy => s
  | .error (.fault v prog fl t) => engineFault t c en v prog fl
  | .error (.halt prog fl t) =>
    t.modEngine c fun e => { e with running := e.running.map fun x => if x.seq = en.seq then { x with prog, fl } else x }
  | .ok (none, t) => t
  | .ok (some a, t) => retired t c en a

/-- The instruction is a scan that has stalled on a flit (R40). -/
def scanning (s : State) (c : Nat) (en : Entry) : Bool :=
  pipeOf en.word = 1 && (s.engine c).scan.any (·.flit.isSome)

/-- ENGINE_RETIRE: a granted instruction completes: its effect, its flags, its result (R242). On a stopped
core the vector and merge pipes complete what they run, the event and matrix pipes have halted (R282). -/
def execEngineRetire (core : BitVec 12) (seq : BitVec 16) (s : State) : Result :=
  let c := core.toNat
  match (s.engine c).running.find? (·.seq == seq) with
  | none => .next s
  | some en =>
    if scanning s c en || ((s.core c).stopped && (pipeOf en.word = 1 || pipeOf en.word = 2)) then .next s
    else
      match en.instr with
      | none => .next (retired s c en (0, none))
      | some i => .next (settleEffect s c en (withTask c en.gen (fun s => effect none i c en s) s))

/-- SCAN_FLIT_ACCEPTED: the network interface takes the flit of a stalled scan when its router has room (R40, R54). -/
def execScanFlitAccepted (core : BitVec 12) (s : State) : Result :=
  let c := core.toNat
  match (s.engine c).scan, (s.engine c).running.find? fun x => pipeOf x.word = 1 with
  | some x, some en =>
    if (s.core c).stopped || x.flit.isNone || !s.mayInject c (scanVc s c x.words) then .next s
    else .next (settleEffect s c en (withTask c en.gen (fun s => flitTaken c en x s) s))
  | _, _ => .next s

/-- COPROC_RAISE: a pending engine fault is raised against slot 0 at its boundary (R245): TPC is the PC, TSEQ the lowest
faulting number. A wait ends, also one for a full-empty word of another package; an access that awaits its answer completes
first. The fault stands until its trap is answered, so that a younger one that has issued is discarded. -/
def execCoprocRaise (core : BitVec 12) (s : State) : Result :=
  let c := core.toNat
  let x := s.ctxAt c 0
  match (s.engine c).fault with
  | none => .next s
  | some (q, v) =>
    if !coprocReady (s.engine c) || (s.core c).stopped || (s.engine c).raised || !x.occupied || x.frozen || x.joining ||
        x.pauseLeft ≠ 0 || x.answer.isSome || (x.await.isSome && x.wait.isNone) then .next s
    else
      .next (raiseAt (s.modEngine c fun e => { e with raised := true }) c 0
        { cause := .coproc, pc := x.pc, val := v, ctx := 0, seq := q, slot := some 0, imprec := true })

/-! ### Replay and drop (R247) -/

/-- An entry as its replay starts (Table 10-3): an MMA or MMAS from MPROG, every other instruction whole. -/
def Entry.again (x : Entry) : Entry :=
  match x.instr with
  | some (.mma _ _ _) | some (.mmas _ _ _) => x
  | _ => { x with prog := 0, fl := 0 }

/-- The dropped instructions are dispatched again in order, each with what it captured; an RPT of which frame words are
among them holds the frame register still. -/
def Engine.replay (e : Engine) : Engine :=
  let e1 := e.ringAll e.dropped .live
  let e1 := if e.dropped.any (·.frame.isSome) then e1.ringRpt .live else e1
  { e1 with queue := e.dropped.map (·.again) ++ e.queue, dropped := [], fault := none, raised := false }

/-- The dropped instructions go for good, and the frame register of a dropped frame is free. -/
def Engine.drop (e : Engine) : Engine :=
  let e1 := e.ringAll e.dropped .retired
  let e1 := if e.dropped.any (·.frame.isSome) then { e1.ringRpt .retired with rptHeld := none } else e1
  { e1 with dropped := [], fault := none, raised := false }

/-- Drops the instructions of slot 0 that a fault discarded: their locks end, their registers keep their values. -/
def dropEngine (s : State) (c : Nat) : State :=
  let ds := (s.engine c).dropped.filterMap (·.d)
  (s.modCtxAt c 0 fun x => ds.foldl (fun x d => x.setLock d false) x).modEngine c Engine.drop

/-- ERET from COPROC: by ERSEL.DROP, which clears (R247). -/
def resumeEngine (s : State) (c : Nat) : State :=
  let s := if (s.engine c).erDrop then dropEngine s c else s.modEngine c Engine.replay
  s.modEngine c fun e => { e with erDrop := false }

/-! ### Dispatch (R241) -/

/-- What an instruction needs at dispatch: its source registers, the register locked for its result, the registers held
against writes (R244), and the words it carries. -/
structure Dispatch where
  srcs : List Reg := []
  d : Option Reg := none
  hold : List Reg := []
  popped : List (Word × Bool) := []
  frame : Option (BitVec 8 × BitVec 2 × BitVec 2 × BitVec 2) := none
  /-- words after the one at PC -/
  at_ : Nat := 0

/-- The entry of a word. -/
def entryOf (s : State) (w : IWord) (p : Dispatch) : Entry :=
  let x := s.ctx
  let e := s.here.engine
  let src (i : Nat) : Word × Bool :=
    match p.popped[i]? with
    | some v => v
    | none =>
      match p.srcs[i]? with
      | some r => (x.reg r, x.psn r)
      | none => (0, false)
  { seq := e.nextSeq, gen := x.gen, pc := x.pc + BitVec.ofNat 64 (4 * p.at_), word := w, opA := (src 0).1, opB := (src 1).1,
    psnA := (src 0).2, psnB := (src 1).2, d := p.d, srcs := p.hold, mark := s.mem.nextReq, frm := x.frm, realm := x.realm,
    cfg0 := e.matcfg0, cfg1 := e.matcfg1, cfg2 := e.matcfg2, cfg3 := e.matcfg3, frame := p.frame, popped := p.popped }

/-- Gives an entry the next sequence number and its place in the ring (R241, R246). -/
def Engine.number (e : Engine) (x : Entry) : Engine :=
  { e with
    nextSeq := e.nextSeq + 1
    last := some e.nextSeq
    ring := fset e.ring {} (e.nextSeq.toNat % 64)
      { seq := e.nextSeq, state := .live, pc := x.pc, word := x.word, rep := 0, opA := x.opA, opB := x.opB } }

/-- Puts an entry at the tail of the queue. -/
def enqueueEntry (s : State) (w : IWord) (p : Dispatch) : State :=
  let x := entryOf s w p
  let s := s.modHere fun k => { k with engine := { k.engine.number x with queue := k.engine.queue ++ [x] } }
  match p.d with
  | some d => s.modCtx fun y => y.setLock d true
  | none => s

/-- The instruction issues from slot 0 of a compute core, else ILLEGAL (R84). -/
def withSlot0 (i : Instr) (f : State → Result) (s : State) : Result :=
  if s.cur.2 = 0 && s.cur.1 ≠ mgmtCore then f s else trapIllegal ((encode i).getD 0) s

/-- Slot 0 dispatches when the queue has n free entries, and for an RPT the frame register is free; else it sleeps, and
stalls while a fault is pending (R241, R245). The wait's value is n, and 32 for an RPT. -/
def withRoom (n : Nat) (rpt : Bool) (f : State → Result) (s : State) : Result :=
  let e := s.here.engine
  if e.fault.isSome then stall s
  else if 16 < e.queue.length + n || (rpt && e.rptHeld.isSome) then
    sleep .queue (BitVec.ofNat 64 (n + if rpt then 32 else 0)) s
  else f s

/-- The context goes past a dispatched instruction, which completes, and counts in INSTRET, when it retires (R332). -/
def Ctx.dispatched (x : Ctx) : Ctx := { x.advance with instret := x.instret }

/-- Dispatches an instruction whose checks f have passed (R241): the slot, room, locks, then the checks. -/
def dispatchChecked (i : Instr) (p : Dispatch) (check : (State → Result) → State → Result) : State → Result :=
  withSlot0 i (withRoom 1 false (unlessLocked p.d.toList p.srcs (check fun s =>
    .next ((enqueueEntry s ((encode i).getD 0) p).modCtx Ctx.dispatched))))

/-- Dispatches an instruction without checks of its own. -/
def dispatch (i : Instr) (p : Dispatch) : State → Result := dispatchChecked i p fun f => f

/-- The first poisoned register of a list raises POISON with its consumer kind; VADDR is its value for an address. -/
def checkClean (l : List (Reg × Nat)) (f : State → Result) (s : State) : Result :=
  match l.find? fun r => s.ctx.psn r.1 with
  | some (r, k) => trapPoison r k (s.ctx.reg r) (s.ctx.reg r) s
  | none => f s

/-! ### Vector memory (R428) -/

/-- The checks of a vector memory form at issue. -/
def checkVector (b : Reg) (st : List Reg) (size : Nat) (f : State → Result) (s : State) : Result :=
  match (b :: st).find? s.ctx.psn with
  | some r => trapPoison r 1 (s.ctx.reg r) (s.ctx.reg b) s
  | none =>
    match (b :: st).find? fun r => (s.ctx.reg r).toNat % size ≠ 0 with
    | some r => trap .align (s.ctx.reg r) 0 s
    | none => f s

/-- VLD (R427). -/
def execVld (d : VReg) (b : Reg) (m : MReg) (e : ESize) : State → Result :=
  dispatchChecked (.vld d b m e) { srcs := [b] } (checkVector b [] (eBytes e))
/-- VLDS (R427). -/
def execVlds (d : VReg) (b s : Reg) (m : MReg) (e : ESize) : State → Result :=
  dispatchChecked (.vlds d b s m e) { srcs := [b, s] } (checkVector b [s] (eBytes e))
/-- VLDX (R427). -/
def execVldx (d : VReg) (b : Reg) (i : VReg) (m : MReg) (e : ESize) : State → Result :=
  dispatchChecked (.vldx d b i m e) { srcs := [b] } (checkVector b [] (eBytes e))
/-- VST (R427). -/
def execVst (d : VReg) (b : Reg) (m : MReg) (e : ESize) : State → Result :=
  dispatchChecked (.vst d b m e) { srcs := [b] } (checkVector b [] (eBytes e))
/-- VSTS (R427). -/
def execVsts (d : VReg) (b s : Reg) (m : MReg) (e : ESize) : State → Result :=
  dispatchChecked (.vsts d b s m e) { srcs := [b, s] } (checkVector b [s] (eBytes e))
/-- VSTX (R427). -/
def execVstx (d : VReg) (b : Reg) (i : VReg) (m : MReg) (e : ESize) : State → Result :=
  dispatchChecked (.vstx d b i m e) { srcs := [b] } (checkVector b [] (eBytes e))

/-! ### Vector arithmetic (R415 to R432) -/

/-- VADD (R418). -/
def execVadd (d a b : VReg) (m : MReg) (t : VType) (z s : Bool) : State → Result := dispatch (.vadd d a b m t z s) {}
/-- VSUB (R418). -/
def execVsub (d a b : VReg) (m : MReg) (t : VType) (z s : Bool) : State → Result := dispatch (.vsub d a b m t z s) {}
/-- VMUL (R418). -/
def execVmul (d a b : VReg) (m : MReg) (t : VType) (z s : Bool) : State → Result := dispatch (.vmul d a b m t z s) {}
/-- VMIN (R429). -/
def execVmin (d a b : VReg) (m : MReg) (t : VType) (z : Bool) : State → Result := dispatch (.vmin d a b m t z) {}
/-- VMAX (R429). -/
def execVmax (d a b : VReg) (m : MReg) (t : VType) (z : Bool) : State → Result := dispatch (.vmax d a b m t z) {}
/-- VABS (R416). -/
def execVabs (d a : VReg) (m : MReg) (t : VType) (z : Bool) : State → Result := dispatch (.vabs d a m t z) {}
/-- VNEG (R416). -/
def execVneg (d a : VReg) (m : MReg) (t : VType) (z : Bool) : State → Result := dispatch (.vneg d a m t z) {}
/-- VAND (R419). -/
def execVand (d a b : VReg) (m : MReg) (t : VType) (z : Bool) : State → Result := dispatch (.vand d a b m t z) {}
/-- VOR (R419). -/
def execVor (d a b : VReg) (m : MReg) (t : VType) (z : Bool) : State → Result := dispatch (.vor d a b m t z) {}
/-- VXOR (R419). -/
def execVxor (d a b : VReg) (m : MReg) (t : VType) (z : Bool) : State → Result := dispatch (.vxor d a b m t z) {}
/-- VSHL (R432). -/
def execVshl (d a b : VReg) (m : MReg) (t : VType) (z : Bool) : State → Result := dispatch (.vshl d a b m t z) {}
/-- VSHR (R432). -/
def execVshr (d a b : VReg) (m : MReg) (t : VType) (z : Bool) : State → Result := dispatch (.vshr d a b m t z) {}
/-- VCMPEQ (R420). -/
def execVcmpeq (d : MReg) (a b : VReg) (m : MReg) (t : VType) : State → Result := dispatch (.vcmpeq d a b m t) {}
/-- VCMPLT (R420). -/
def execVcmplt (d : MReg) (a b : VReg) (m : MReg) (t : VType) : State → Result := dispatch (.vcmplt d a b m t) {}
/-- VCMPLE (R420). -/
def execVcmple (d : MReg) (a b : VReg) (m : MReg) (t : VType) : State → Result := dispatch (.vcmple d a b m t) {}
/-- VSEL (R430). -/
def execVsel (d a b : VReg) (m : MReg) (t : VType) : State → Result := dispatch (.vsel d a b m t) {}
/-- VMOV (R430). -/
def execVmov (d a : VReg) (m : MReg) (t : VType) (z : Bool) : State → Result := dispatch (.vmov d a m t z) {}
/-- VSPLAT (R425). -/
def execVsplat (v : VReg) (g : Reg) (t : VType) : State → Result := dispatch (.vsplat v g t) { srcs := [g] }
/-- VEXT (R425). -/
def execVext (v : VReg) (g i : Reg) (t : VType) : State → Result := dispatch (.vext v g i t) { srcs := [i], d := some g }
/-- VINS (R425). -/
def execVins (v : VReg) (g i : Reg) (t : VType) : State → Result := dispatch (.vins v g i t) { srcs := [g, i] }
/-- VFMA (R426). -/
def execVfma (d a b : VReg) (m : MReg) (t : VType) (z : Bool) : State → Result := dispatch (.vfma d a b m t z) {}
/-- VFMS (R426). -/
def execVfms (d a b : VReg) (m : MReg) (t : VType) (z : Bool) : State → Result := dispatch (.vfms d a b m t z) {}
/-- VFNMA (R426). -/
def execVfnma (d a b : VReg) (m : MReg) (t : VType) (z : Bool) : State → Result := dispatch (.vfnma d a b m t z) {}
/-- MAND (R389). -/
def execMand (d a b : MReg) : State → Result := dispatch (.mand d a b) {}
/-- MOR (R389). -/
def execMor (d a b : MReg) : State → Result := dispatch (.mor d a b) {}
/-- MXOR (R389). -/
def execMxor (d a b : MReg) : State → Result := dispatch (.mxor d a b) {}
/-- MNOT (R389). -/
def execMnot (d a : MReg) : State → Result := dispatch (.mnot d a) {}
/-- MPOPC (R392). -/
def execMpopc (v : MReg) (g : Reg) (t : VType) : State → Result := dispatch (.mpopc v g t) { d := some g }
/-- MSETN (R392). -/
def execMsetn (v : MReg) (g : Reg) (t : VType) : State → Result := dispatch (.msetn v g t) { srcs := [g] }
/-- VREDADD (R431). -/
def execVredadd (d a : VReg) (m : MReg) (t : VType) : State → Result := dispatch (.vredadd d a m t) {}
/-- VREDMAX (R431). -/
def execVredmax (d a : VReg) (m : MReg) (t : VType) : State → Result := dispatch (.vredmax d a m t) {}
/-- VREDMIN (R431). -/
def execVredmin (d a : VReg) (m : MReg) (t : VType) : State → Result := dispatch (.vredmin d a m t) {}
/-- VPERM (R421). -/
def execVperm (d a b : VReg) (m : MReg) (t : VType) (z : Bool) : State → Result := dispatch (.vperm d a b m t z) {}
/-- VROT (R421). -/
def execVrot (d a b : VReg) (m : MReg) (t : VType) (z : Bool) : State → Result := dispatch (.vrot d a b m t z) {}
/-- VCOMPRESS (R421). -/
def execVcompress (d a : VReg) (m : MReg) (t : VType) : State → Result := dispatch (.vcompress d a m t) {}
/-- VCVT (R423). -/
def execVcvt (d a : VReg) (src : CvtFmt) (m : MReg) (dst : CvtFmt) (r : Rm) : State → Result :=
  dispatch (.vcvt d a src m dst r) {}
/-- VQUANT (R424). -/
def execVquant (d a b : VReg) (m : MReg) (dst : CvtFmt) (r : Rm) : State → Result := dispatch (.vquant d a b m dst r) {}
/-- VACT (R417). -/
def execVact (d a : VReg) (m : MReg) (z : Bool) (c : ActCode) : State → Result := dispatch (.vact d a m z c) {}
/-- ISECT (R257). -/
def execIsect (d : BitVec 3) (a b : VReg) (n32 : Bool) : State → Result := dispatch (.isect d a b n32) {}
/-- UNION (R257). -/
def execUnion (d : BitVec 3) (a b : VReg) (n32 : Bool) : State → Result := dispatch (.union d a b n32) {}
/-- MERGE (R257). -/
def execMerge (d : BitVec 3) (a b : VReg) (n32 : Bool) : State → Result := dispatch (.merge d a b n32) {}

/-! ### Event instructions (R34, R35) -/

/-- The checks of a VEVT form at issue, in the order of R34. -/
def checkEvent (a b : Reg) (f : State → Result) : State → Result :=
  checkClean [(a, 1), (b, 4)] fun s =>
    let v := s.ctx.reg a
    if 0x80000 ≤ v.toNat then trap .bounds v 0 s
    else if v.toNat % 64 ≠ 0 then trap .align v 0 s
    else f s

/-- VSCMAC (R38). -/
def execVscmac (d a b : Reg) : State → Result :=
  dispatchChecked (.vscmac d a b) { srcs := [a, b], d := some d } (checkEvent a b)
/-- VDRING (R38). -/
def execVdring (d a b : Reg) : State → Result :=
  dispatchChecked (.vdring d a b) { srcs := [a, b], d := some d } (checkEvent a b)
/-- VSDSCAN (R39). -/
def execVsdscan (d a b : Reg) : State → Result :=
  dispatchChecked (.vsdscan d a b) { srcs := [a, b], d := some d } (checkEvent a b)
/-- VDTICK (R41). -/
def execVdtick (d a : Reg) : State → Result :=
  dispatchChecked (.vdtick d a) { srcs := [a], d := some d } (checkEvent a 0)

/-! ### Matrix instructions (R251) -/

/-- MMA (R234). -/
def execMma (c : Acc) (a b : Reg) : State → Result :=
  dispatchChecked (.mma c a b) { srcs := [a, b], hold := [a, b] } (checkClean [(a, 1), (b, 1)])
/-- MMAS (R236). -/
def execMmas (c : Acc) (a b : Reg) : State → Result :=
  dispatchChecked (.mmas c a b) { srcs := [a, b], hold := [a, b] } (checkClean [(a, 1), (b, 1)])
/-- MZERO (R253). -/
def execMzero (c : Acc) : State → Result := dispatch (.mzero c) {}
/-- MLDACC (R254). -/
def execMldacc (c : Acc) (a : Reg) : State → Result :=
  dispatchChecked (.mldacc c a) { srcs := [a] } (checkClean [(a, 1)])
/-- MSTACC (R254). -/
def execMstacc (c : Acc) (a : Reg) : State → Result :=
  dispatchChecked (.mstacc c a) { srcs := [a] } (checkClean [(a, 1)])
/-- MXFORM (R255). -/
def execMxform (c s : Acc) (b : Reg) : State → Result :=
  dispatchChecked (.mxform c s b) { srcs := [b] } (checkClean [(b, 4)])

/-- MWAIT (R256): a stall until the engine has retired all that the context dispatched. -/
def execMwait (d : Reg) : State → Result :=
  withSlot0 (.mwait d) (unlessLocked [d] [] fun s =>
    if !engineIdle s || s.here.engine.fault.isSome then stall s
    else .next (s.modCtx fun x => (x.setReg d ((s.here.engine.last.getD 0).setWidth 64) false).advance))

/-! ### EVPOPV (R371) -/

/-- EVPOPV: room first, then EVPOP's checks, then up to 16 flits popped in one step. -/
def execEvpopv (v : VReg) (a : Reg) : State → Result :=
  withSlot0 (.evpopv v a) (withRoom 1 false (unlessLocked [] [a] fun s =>
    let x := s.ctx.reg a
    let cls := (x.extractLsb' 0 6).toNat
    let r := s.here.cls cls
    let word := (encode (.evpopv v a)).getD 0
    let go (k : Nat) (s : State) : Result :=
      let ws := (List.range 16).map fun j =>
        if j < k then
          let key := keySram s.cur.1 (r.slot (r.tail + BitVec.ofNat 17 j))
          (s.mem.load key 8, s.mem.psn key)
        else (BitVec.allOnes 64, false)
      let s := s.modHere fun y => y.modCls cls fun r => { r with tail := r.tail + BitVec.ofNat 17 k }
      .next ((enqueueEntry s word { srcs := [a], popped := ws }).modCtx Ctx.dispatched)
    if s.ctx.psn a then trapPoison a 4 x 0 s
    else if x.extractLsb' 6 58 ≠ 0 then trap .cls x 0 s
    else if 62 ≤ cls then go 0 s
    else if classDenied s x then trap .cls x 0 s
    else if !r.isQueue then go 0 s
    else go (min 16 r.fill) s))

/-! ### RPT (R248, R249) -/

/-- The frame words of an RPT, or the outcome of the first that does not pass (R249). -/
def frameWords (s : State) : Nat → Nat → Result ⊕ List IWord
  | 0, _ => .inr []
  | n + 1, j =>
    let pc := s.ctx.pc + BitVec.ofNat 64 (4 * (j + 1))
    match fetchWord s s.cur.1 s.cur.2 pc with
    | .miss => .inl (stall (postWalk s s.cur.1 s.cur.2 pc))
    | .busy => .inl (stall s)
    | .fault .poison v k => .inl (trap .poison v k (fetchRecord s pc))
    | .fault c v k => .inl (trap c v k s)
    | .word w =>
      match watchHit s 3 pc 4 with
      | some i => .inl (trap .watch pc (BitVec.ofNat 64 (i + 12)) s)
      | none =>
        match decode w with
        | .error _ => .inl (trapIllegal w s)
        | .ok i =>
          if !frameable i then .inl (trap .rpt (BitVec.ofNat 64 (j * 2 ^ 32) ||| w.setWidth 64) 0 s)
          else
            match frameWords s n (j + 1) with
            | .inl r => .inl r
            | .inr l => .inr (w :: l)

/-- RPT: the word takes a number and the frame register, each frame word an entry; the context goes on after the frame,
which INSTRET counts (R241, R248, R332). -/
def execRpt (k : BitVec 4) (n : BitVec 8) (sd sa sb : BitVec 2) : State → Result :=
  withSlot0 (.rpt k n sd sa sb) (withRoom (k.toNat + 1) true (fun s =>
    match frameWords s (k.toNat + 1) 0 with
    | .inl r => r
    | .inr ws =>
      let x := entryOf s ((encode (.rpt k n sd sa sb)).getD 0) {}
      let s := s.modHere fun y => { y with engine := { y.engine.number x with rptHeld := some y.engine.nextSeq } }
      let s := (ws.zipIdx).foldl (fun s p => enqueueEntry s p.1 { frame := some (n, sd, sa, sb), at_ := p.2 + 1 }) s
      .next (s.modCtx fun y =>
        { y.advance with pc := y.pc + BitVec.ofNat 64 (4 * (k.toNat + 2))
                         instret := y.instret + BitVec.ofNat 64 (k.toNat + 2) })))

end Sys2Proof.Machine
end

