-- ==== Sys2Proof/Machine/Csr.lean ====
section
/-!
DEFINITION. Control and status registers (R327, R331, R332, R360, R361, Table 13-16) with their access codes (R4, R5), and the
cluster's quantum (R102), bank modes (R177, R178) and flags (R230).
-/

namespace Sys2Proof.Machine

/-! ### Which registers exist -/

/-- A number of Table 13-16, or on the management core of Tables 12-9 and 12-10. -/
def csrAssigned (mgmt : Bool) (n : Nat) : Bool :=
  n ≤ 2 || n == 8 || n == 9 || (0x10 ≤ n && n ≤ 0x13) || (0x20 ≤ n && n ≤ 0x22) || (0x30 ≤ n && n ≤ 0x34) || n == 0x40 ||
    n == 0x50 || n == 0x51 || (0x90 ≤ n && n ≤ 0x92) || (0xA0 ≤ n && n ≤ 0xA4) || (0xC0 ≤ n && n ≤ 0xC2) ||
    (0x100 ≤ n && n ≤ 0x13F) || (0x860 ≤ n && n ≤ 0x86D) || (0x880 ≤ n && n ≤ 0x888) || (0x890 ≤ n && n ≤ 0x893) ||
    (0x8A0 ≤ n && n ≤ 0x8A3) || (0x8B0 ≤ n && n ≤ 0x8B7) || (0x900 ≤ n && n ≤ 0x9FF) ||
    (mgmt && ((0x8C0 ≤ n && n ≤ 0x8D2) || (0x8D8 ≤ n && n ≤ 0x8DB)))

/-- A supervisor-only number (R85, R230, R331). -/
def csrSuper (n : Nat) : Bool := 0x800 ≤ n || n == 8 || n == 9

/-! ### Cluster and package registers -/

/-- QUANTUM.QMIN (R102, R282). -/
def qmin : Nat := 0xFD000

/-- A write of QUANTUM (R102): a nonzero value below QMIN is stored as QMIN. A change counts down from the new value for the
tasks that start after it, while those that run keep the quantum they started under (R100, log 71). -/
def quantumWrite (s : State) (n : Nat) (v : Word) : State :=
  let q : BitVec 32 := v.setWidth 32
  let q : BitVec 32 := if q ≠ 0 && q.toNat < qmin then BitVec.ofNat 32 qmin else q
  s.modCluster n fun c =>
    if q = c.qcyc then c
    else
      { c with qcyc := q, qcount := q.toNat, qver := c.qver + 1
               oldQuanta := fset c.oldQuanta (0, 0) c.qver (c.qcyc.toNat, c.qcount) }

/-- MODE of a bank as Table 7-6 codes it. -/
def BankMode.code : BankMode → Nat
  | .cache => 0 | .scratch => 1 | .fifo => 2

/-- The mode of a code; 3 is reserved. -/
def bankModeOf : Nat → Option BankMode
  | 0 => some .cache | 1 => some .scratch | 2 => some .fifo | _ => none

/-- Cycles of a transition's fixed steps (Table 7-7). -/
def switchCycles : BankMode → BankMode → Nat
  | .cache, .scratch => 4096 + 2048
  | .cache, .fifo => 4096
  | .fifo, .scratch => 2048
  | .scratch, .cache | .scratch, .fifo | .fifo, .cache => 16
  | .cache, .cache | .scratch, .scratch | .fifo, .fifo => 0

/-- A bank takes a new mode, and its transition starts (R177). -/
def Bank.switch (b : Bank) (code now : Nat) : Bank :=
  match bankModeOf code with
  | none => b
  | some m =>
    if b.busy || m = b.mode then b
    else { b with mode := m, busy := true, from_ := b.mode, due := now + switchCycles b.mode m }

/-- A push or a pop that sleeps at the port of a bank that starts to leave FIFO ends its wait and raises BOUNDS with the
port address (R180). Where another trap stands at the boundary that comes first, and the instruction finds the bank changed
when it is made again (R273). -/
def endFifoWait (s : State) (z : Nat × Nat × Option (Word × Bool) × Nat) : State :=
  let x := s.ctxAt z.1 z.2.1
  if othersPend s z.1 z.2.1 then s.modCtxAt z.1 z.2.1 Ctx.askAgain
  else raiseAt s z.1 z.2.1
    { cause := .bounds, pc := x.pc, val := (x.wait.map (·.val)).getD 0, ctx := 0, seq := 0, slot := some z.2.1,
      imprec := false }

/-- A write of BANKMODE (R177). -/
def bankmodeWrite (s : State) (n : Nat) (v : Word) : State :=
  let turned (b : Nat) : Bank := (s.bank n b).switch (v.extractLsb' (2 * b) 2).toNat s.cycle.toNat
  let ended := (List.range 16).flatMap fun b => if (s.bank n b).mode = .fifo && (turned b).mode ≠ .fifo
    then (s.bank n b).sleepers else []
  let s := s.modCluster n fun c => { c with banks := (List.range 16).foldl (fun m b => fset m {} b (turned b)) c.banks }
  ended.foldl endFifoWait s

/-- BANKMODE as it reads (Table 7-6). -/
def bankmodeRead (c : Cluster) : Word :=
  BitVec.ofNat 64 ((List.range 16).foldl (fun a b =>
    let k := fget c.banks {} b
    a + k.mode.code * 4 ^ b + if k.busy then 2 ^ (32 + b) else 0) 0)

/-- A write of CLFLAGSCLR (R230). -/
def clflagsClear (s : State) (n : Nat) (v : Word) : State :=
  s.modCluster n fun c => { c with clflags := c.clflags &&& (~~~(v.setWidth 5) ||| c.newFlags) }

/-- HWSTEP at a cluster: its die's, or 4 under an over-current report (Table 12-8, R308). -/
def hwStep (s : State) (die : Nat) : Nat :=
  max (if (s.die die).trip then 7 else 0) (if s.overcurrent then 4 else 0)

/-- The step that a cluster is to take: the largest of its sources (R307). -/
def clusterStep (s : State) (n : Nat) : Nat :=
  max (s.cluster n).osstep.toNat (max (s.die (dieOf (n / 4))).fwstep.toNat (hwStep s (dieOf (n / 4))))

/-- THROTTLE as it reads (Table 12-8). -/
def throttleRead (s : State) (n : Nat) : Word :=
  BitVec.ofNat 64 (clusterStep s n * 4096 + (s.die (dieOf (n / 4))).fwstep.toNat * 256 + hwStep s (dieOf (n / 4)) * 16 +
    (s.cluster n).osstep.toNat)

/-- QUANTUM_WRITE (R102). -/
def execQuantumWrite (cluster : BitVec 8) (v : Word) (s : State) : Result := .next (quantumWrite s cluster.toNat v)

/-- A task of the cluster started under version v of its QUANTUM. -/
def hasQuantum (s : State) (n v : Nat) : Bool :=
  (List.range 16).any fun q => [0, 1, 2, 3, 4, 5, 6].any fun k =>
    (s.ctxAt (16 * n + q) k).occupied && (s.ctxAt (16 * n + q) k).qver = v

/-- An earlier quantum of the cluster whose count has reached zero reloads and pulses line 15 in the tasks that it rules;
without one it goes (R100). -/
def expireOld (n : Nat) (s : State) (p : Nat × Nat × Nat) : State :=
  if p.2.2 ≠ 0 then s
  else if p.2.1 ≠ 0 && hasQuantum s n p.1 then
    pulseIn (s.modCluster n fun c => { c with oldQuanta := fset c.oldQuanta (0, 0) p.1 (p.2.1, p.2.1) }) n 15 (·.qver == p.1)
  else s.modCluster n fun c => { c with oldQuanta := fset c.oldQuanta (0, 0) p.1 (0, 0) }

/-- QUANTUM_EXPIRY (R102): the count has reached zero: it reloads and line 15 is pulsed in the tasks that the quantum rules
(R100). -/
def execQuantumExpiry (cluster : BitVec 8) (s : State) : Result :=
  let n := cluster.toNat
  let c := s.cluster n
  let s := if c.qcyc ≠ 0 && c.qcount = 0 then
      pulseIn (s.modCluster n fun c => { c with qcount := c.qcyc.toNat }) n 15 (·.qver == c.qver)
    else s
  .next (c.oldQuanta.foldl (expireOld n) s)

/-- BANKMODE_WRITE (R177). -/
def execBankmodeWrite (cluster : BitVec 8) (v : Word) (s : State) : Result := .next (bankmodeWrite s cluster.toNat v)

/-- CLFLAGSCLR_WRITE (R230). -/
def execClflagsclrWrite (cluster : BitVec 8) (v : Word) (s : State) : Result := .next (clflagsClear s cluster.toNat v)

/-- Every byte of a bank reads zero, its words are clean and empty (Table 7-7). -/
def clearBank (s : State) (n b : Nat) : State :=
  let lo := keyScratch n (b * 0x80000)
  let out (k : Nat) : Bool := k < lo || lo + 0x80000 ≤ k
  s.modMem fun m =>
    { m with cells := m.cells.filter fun p => out p.1
             poison := m.poison.filter out
             full := m.full.filter out
             armed := m.armed.filter out }

/-- Writes back and drops the lines that a bank of a cluster's cache holds (R178, R179). -/
def flushCache (s : State) (n b : Nat) : State :=
  (((s.cluster n).lines.filter fun p => p.2.map (·.way) == some b).map (·.1)).foldl (fun s l =>
    dropLine (writeBackLine s n (128 * l)) n (128 * l)) s

/-- BANK_SWITCH_DONE (R178): the transition's last step ends: a bank that left CACHE has its lines written back and dropped,
a bank that left or enters SCRATCH is cleared, a FIFO's entries are lost and its sleepers execute again. -/
def execBankSwitchDone (cluster : BitVec 8) (bank : BitVec 4) (s : State) : Result :=
  let n := cluster.toNat
  let b := bank.toNat
  let k := s.bank n b
  if !k.busy || s.cycle.toNat < k.due then .next s
  else
    let s := if k.from_ = .cache then flushCache s n b else s
    let s := if k.from_ = .scratch || k.mode = .scratch then clearBank s n b else s
    let s := k.sleepers.foldl (fun s z => s.modCtxAt z.1 z.2.1 fun x => { x with wait := none }) s
    .next (modBank s n b fun k => { k with busy := false, from_ := .cache, due := 0, fifo := [], sleepers := [] })

/-! ### Class registers (Tables 2-6, 4-4) -/

/-- RINGCFG of a class. -/
def ringcfgRead (r : ClassRegs) : Word :=
  (r.mode.setWidth 64 <<< 62) ||| (r.logsize.setWidth 64 <<< 56) ||| (r.base.setWidth 64 <<< 3)

/-- A write of RINGCFG; reserved values leave MODE and LOGSIZE (R50). -/
def ringcfgWrite (r : ClassRegs) (v : Word) : ClassRegs :=
  let mode : BitVec 2 := v.extractLsb' 62 2
  let logsize : BitVec 4 := v.extractLsb' 56 4
  { r with mode := if mode = 3 then r.mode else mode
           logsize := if 10 < logsize.toNat then r.logsize else logsize
           base := v.extractLsb' 3 16 }

/-- RINGPTR of a class. -/
def ringptrRead (r : ClassRegs) : Word := (r.head.setWidth 64 <<< 32) ||| r.tail.setWidth 64

/-- The register of a class by its index: RINGCFG, RINGPTR, DROPTHR, HANDLER. -/
def classRead (r : ClassRegs) (i : Nat) : Word :=
  match i with
  | 0 => ringcfgRead r
  | 1 => ringptrRead r
  | 2 => r.thresh.setWidth 64
  | _ => r.handler

/-- A ring whose registers are written while its class is enabled or its handler runs holds undefined flits (R51): free
values. -/
def scrambleRing (s : State) (c cls : Nat) : State :=
  let r := (s.core c).cls cls
  if !r.enabled && !handlerRuns (s.core c) cls then s
  else (List.range r.size).foldl (fun s i =>
    { s.drawn with mem := s.mem.store (keySram c (r.slot (BitVec.ofNat 17 i))) 8 s.freeVal false }) s

/-- A write of a class register. -/
def classWrite (s : State) (c cls i : Nat) (v : Word) : State :=
  let set (f : ClassRegs → ClassRegs) : State := s.modCore c fun x => x.modCls cls f
  match i with
  | 0 => scrambleRing (set fun r => ringcfgWrite r v) c cls
  | 1 => scrambleRing (set fun r => { r with head := v.extractLsb' 32 17, tail := v.setWidth 17 }) c cls
  | 2 => set fun r => { r with thresh := v.setWidth 32 }
  | _ => set fun r => { r with handler := v }

/-! ### Reading -/

/-- A word of one bit per class. -/
def classBits (f : Nat → Bool) : Word :=
  BitVec.ofNat 64 ((List.range 64).foldl (fun a c => if f c then a + 2 ^ c else a) 0)

/-- TSTATUS (Table 11-3). -/
def tstatusRead (t : TrapCsrs) : Word :=
  let pend := (List.range 8).foldl (fun a k =>
    if t.held.any (fun r => if k = 7 then r.slot.isNone else r.slot == some k) then a + 2 ^ k else a) 0
  (t.gen.setWidth 64 <<< 16) ||| (if t.active then 0x8000 else 0) ||| (if t.ctxv then 0x4000 else 0) |||
    (t.slot.setWidth 64 <<< 11) ||| (if t.imprec then 0x400 else 0) ||| (if t.wskip then 0x200 else 0) |||
    BitVec.ofNat 64 pend

/-- The code of a ring entry's STATE (Table 10-2). -/
def RingState.code : RingState → Nat
  | .retired => 0 | .live => 1 | .faulted => 2 | .discarded => 3

/-- ERDATA0 to ERDATA3 (Table 10-2). -/
def erdata (e : Engine) (i : Nat) : Word :=
  let r := fget e.ring {} e.ersel.toNat
  match i with
  | 0 => (r.seq.setWidth 64 <<< 48) ||| BitVec.ofNat 64 (r.state.code * 2 ^ 46) ||| (r.pc.extractLsb' 2 46).setWidth 64
  | 1 => (r.word.setWidth 64 <<< 32) ||| r.rep.setWidth 64
  | 2 => r.opA
  | _ => r.opB

/-- MPROG (Table 10-4). -/
def mprogRead (e : EngRegs) : Word :=
  (if e.progValid then 0x8000 else 0) ||| (e.progGroup.setWidth 64 <<< 8) ||| e.progAcc.setWidth 64

/-- The sources that pend at the management core (R300): ALERT for as long as a die's ALERT is set. -/
def State.mgmtPending (s : State) : BitVec 4 :=
  (s.mgmt.mpend &&& 0xE) ||| (if (List.range 16).any fun d => (s.die d).alert then 1 else 0)

/-- The management core's registers (Tables 12-9, 12-10). -/
def mgmtRead (s : State) (n : Nat) : Word :=
  if n < 0x8D0 then
    let i := (n - 0x8C0) / 2
    if n % 2 = 0 then (fget s.mgmt.mpbase 0 i).setWidth 64 <<< 12
    else
      let c := fget s.mgmt.mpctl 12 i
      ((c.extractLsb' 6 4).setWidth 64 <<< 60) ||| (c.extractLsb' 0 6).setWidth 64
  else if n = 0x8D0 then s.mgmtPending.setWidth 64
  else if n = 0x8D1 then s.mgmt.mperiod.setWidth 64
  else if n = 0x8D2 then s.mgmt.mrxbuf.setWidth 64 <<< 6
  else
    (if s.mgmt.mentryEn.getLsbD (n - 0x8D8) then 0x8000000000000000 else 0) |||
      (fget s.mgmt.mentry 0 (n - 0x8D8)).setWidth 64

/-- A register held per context, numbers below 0xC2 (Table 13-16). -/
def ctxCsr (s : State) (n : Nat) : Word :=
  let x := s.ctx
  let c := s.cur.1
  let e := s.here.engine
  let eng (v : Word) : Word := if s.cur.2 = 0 && c ≠ mgmtCore then v else 0
  match n with
  | 0x000 => x.fflags.setWidth 64
  | 0x001 => x.frm.setWidth 64
  | 0x002 => (x.frm.setWidth 64 <<< 8) ||| x.fflags.setWidth 64
  | 0x010 => x.tinfo
  | 0x011 => ctxid c s.cur.2 x.gen
  | 0x012 => (s.package.setWidth 64 <<< 32) ||| (coreNumber c).setWidth 64
  | 0x013 => x.realm.setWidth 64
  | 0x020 => x.waitlim.setWidth 64
  | 0x021 => if s.isSuper then 0xFFFFFFFF else x.tbudget.setWidth 64
  | 0x022 => x.prio.setWidth 64
  | 0x040 => (x.barArr.setWidth 64 <<< 8) ||| x.barMember.setWidth 64
  | 0x050 => x.cseq.setWidth 64
  | 0x051 =>
    let f := (x.batches.find? (·.fault.isSome)).map (·.num)
    BitVec.ofNat 64 ((f.getD 0).toNat * 2 ^ 48 + x.batches.length * 2 ^ 32 + min x.openN 0xFFFFFFFF)
  | 0x090 => x.walkid
  | 0x091 => x.nodeid
  | 0x092 => x.launch
  | 0x0A0 => eng e.matcfg0
  | 0x0A1 => eng e.matcfg1
  | 0x0A2 => eng e.matcfg2
  | 0x0A3 => eng e.matcfg3
  | 0x0A4 => eng (mprogRead e.toEngRegs)
  | 0x0C0 => s.cycle
  | 0x0C1 => x.instret
  | _ => 0

/-- A register held per core (Table 13-16). -/
def coreCsr (s : State) (n : Nat) : Word :=
  let x := s.here
  let t := x.trap
  if n = 0x030 then classBits fun c => c = 62 || (c < 62 && (x.cls c).enabled)
  else if n = 0x031 then classBits fun c => c < 62 && (x.cls c).pending
  else if n = 0x032 then classBits fun c => (x.cls c).evdrop
  else if n = 0x033 then (x.droplogCount.setWidth 64 <<< 32) ||| (x.droplogBase.setWidth 64 <<< 9)
  else if n = 0x034 then x.orphans.setWidth 64
  else if n = 0x0C2 then (x.discards.setWidth 64 <<< 48) ||| x.writes.setWidth 64
  else if 0x100 ≤ n && n ≤ 0x13F then
    let r := x.cls (n - 0x100)
    (r.dropq.setWidth 64 <<< 32) ||| r.dropf.setWidth 64
  else if n = 0x860 then t.tcause.setWidth 64
  else if n = 0x861 then t.tpc
  else if n = 0x862 then t.tval
  else if n = 0x863 then t.tseq.setWidth 64
  else if n = 0x864 then tstatusRead t
  else if n = 0x865 then t.tvec ++ 0#2
  else if n = 0x866 then t.tscratch
  else if n = 0x867 then t.tctx
  else if n = 0x868 then
    (x.errCount <<< 48) ||| (x.errLogn.setWidth 64 <<< 24) ||| (x.errBase.setWidth 64 <<< 6) ||| (if x.errEn then 1 else 0)
  else if n = 0x869 then (if x.engine.erDrop then 0x8000000000000000 else 0) ||| x.engine.ersel.setWidth 64
  else if 0x86A ≤ n && n ≤ 0x86D then erdata x.engine (n - 0x86A)
  else if 0x880 ≤ n && n ≤ 0x887 then
    let w := fget x.watch {} ((n - 0x880) / 2)
    if n % 2 = 0 then w.addr else watchWord .core w
  else if n = 0x888 then x.watchq.setWidth 64
  else if 0x890 ≤ n && n ≤ 0x893 then
    let w := fget x.sramWatch {} ((n - 0x890) / 2)
    if n % 2 = 0 then w.addr else watchWord .sram w
  else if 0x8B0 ≤ n && n ≤ 0x8B6 then (fget x.sptop 0 (n - 0x8B0)).setWidth 64 <<< 4
  else if 0x900 ≤ n && n ≤ 0x9F7 then classRead (x.cls ((n - 0x900) / 4)) (n % 4)
  else 0

/-- A register held per cluster or package; the management core belongs to no cluster. -/
def sharedCsr (s : State) (n : Nat) : Word :=
  let k := clusterOf s.cur.1
  if n = 0x8A2 then s.msgmax.setWidth 64
  else if s.cur.1 = mgmtCore then 0
  else
    match n with
    | 0x008 => (s.cluster k).clflags.setWidth 64
    | 0x8A0 => bankmodeRead (s.cluster k)
    | 0x8A1 => BitVec.ofNat 64 (qmin * 2 ^ 32) ||| (s.cluster k).qcyc.setWidth 64
    | 0x8A3 => throttleRead s k
    | _ => 0

/-- The registers held per context. -/
def isCtxCsr (n : Nat) : Bool := n < 0xC2 && n ≠ 8 && n ≠ 9 && !(0x30 ≤ n && n ≤ 0x34)

/-- The registers held per cluster or package. -/
def isSharedCsr (n : Nat) : Bool := n == 8 || n == 9 || (0x8A0 ≤ n && n ≤ 0x8A3)

/-- The value of a register as the issuing context reads it. -/
def csrRead (s : State) (n : Nat) : Word :=
  if isCtxCsr n then ctxCsr s n
  else if isSharedCsr n then sharedCsr s n
  else if 0x8C0 ≤ n && n ≤ 0x8DB then mgmtRead s n
  else coreCsr s n

/-! ### Writing -/

/-- Writes a register of the management core; LOGSIZE takes 12 to 52, PEND is cleared by ones. -/
def mgmtWrite (s : State) (n : Nat) (v : Word) : State :=
  let m := s.mgmt
  if n < 0x8D0 then
    let i := (n - 0x8C0) / 2
    if n % 2 = 0 then { s with mgmt := { m with mpbase := fset m.mpbase 0 i (v.extractLsb' 12 40) } }
    else
      let old := fget m.mpctl 12 i
      let lg : BitVec 6 := v.setWidth 6
      let lg := if 12 ≤ lg.toNat && lg.toNat ≤ 52 then lg else old.setWidth 6
      { s with mgmt := { m with mpctl := fset m.mpctl 12 i (v.extractLsb' 60 4 ++ lg) } }
  else if n = 0x8D0 then { s with mgmt := { m with mpend := m.mpend &&& ~~~(v.setWidth 4) } }
  else if n = 0x8D1 then { s with mgmt := { m with mperiod := v.setWidth 32, pollCount := 0 } }
  else if n = 0x8D2 then { s with mgmt := { m with mrxbuf := v.extractLsb' 6 46 } }
  else
    let i := n - 0x8D8
    let bit := BitVec.ofNat 4 (2 ^ i)
    { s with mgmt := { m with mentryEn := if v.getLsbD 63 then m.mentryEn ||| bit else m.mentryEn &&& ~~~bit
                              mentry := fset m.mentry 0 i (v.setWidth 46) } }

/-- FRM after a write of v: 5 to 7 leave it (R223). -/
def frmWrite (old v : BitVec 3) : BitVec 3 := if v.toNat < 5 then v else old

/-- Writes a register held per context; read-only registers ignore it (R4). -/
def ctxCsrWrite (s : State) (n : Nat) (v : Word) : State :=
  let eng (f : Engine → Engine) : State :=
    if s.cur.2 = 0 && s.cur.1 ≠ mgmtCore then s.modEngine s.cur.1 f else s
  match n with
  | 0x000 => s.modCtx fun x => { x with fflags := v.setWidth 5 }
  | 0x001 => s.modCtx fun x => { x with frm := frmWrite x.frm (v.setWidth 3) }
  | 0x002 => s.modCtx fun x => { x with fflags := v.setWidth 5, frm := frmWrite x.frm (v.extractLsb' 8 3) }
  | 0x020 => s.modCtx fun x => { x with waitlim := v.setWidth 32 }
  | 0x0A0 => eng fun e => { e with matcfg0 := v }
  | 0x0A1 => eng fun e => { e with matcfg1 := v }
  | 0x0A2 => eng fun e => { e with matcfg2 := v }
  | 0x0A3 => eng fun e => { e with matcfg3 := v }
  | _ => s

/-- Writes a register held per core. -/
def coreCsrWrite (s : State) (n : Nat) (v : Word) : State :=
  let set (f : Core → Core) : State := s.modHere f
  let trap (f : TrapCsrs → TrapCsrs) : State := set fun x => { x with trap := f x.trap }
  if n = 0x032 then
    set fun x => (List.range 64).foldl (fun (x : Core) c =>
      if v.getLsbD c && (x.cls c).evdrop then x.modCls c fun r => { r with evdrop := false } else x) x
  else if n = 0x033 then
    set fun x =>
      { x with droplogCount := if 64 < (v.extractLsb' 32 7).toNat then 64 else v.extractLsb' 32 7
               droplogBase := v.extractLsb' 9 10 }
  else if n = 0x034 then set fun x => { x with orphans := v.setWidth 32 }
  else if 0x100 ≤ n && n ≤ 0x13F then
    set fun x => x.modCls (n - 0x100) fun r => { r with dropq := v.extractLsb' 32 32, dropf := v.setWidth 32 }
  else if n = 0x860 then trap fun t => { t with tcause := v.setWidth 8 }
  else if n = 0x861 then trap fun t => { t with tpc := v }
  else if n = 0x862 then trap fun t => { t with tval := v }
  else if n = 0x863 then trap fun t => { t with tseq := v.setWidth 16 }
  else if n = 0x864 then trap fun t => { t with wskip := v.getLsbD 9 }
  else if n = 0x865 then trap fun t => { t with tvec := v.extractLsb' 2 62 }
  else if n = 0x866 then trap fun t => { t with tscratch := v }
  else if n = 0x867 then trap fun t => { t with tctx := v }
  else if n = 0x868 then
    let logn : BitVec 4 := v.extractLsb' 24 4
    set fun x =>
      { x with errCount := x.errCount.extractLsb' 16 48 ++ v.extractLsb' 48 16
               errLogn := if logn.toNat ≤ 9 then logn else x.errLogn
               errBase := v.extractLsb' 6 13
               errEn := v.getLsbD 0 }
  else if n = 0x869 then
    set fun x => { x with engine := { x.engine with erDrop := v.getLsbD 63, ersel := v.setWidth 6 } }
  else if 0x880 ≤ n && n ≤ 0x887 then
    let i := (n - 0x880) / 2
    set fun x =>
      let w := fget x.watch {} i
      let w' := if n % 2 = 0 then { w with addr := v } else watchWrite .core w v
      { x with watch := fset x.watch {} i w' }
  else if n = 0x888 then set fun x => { x with watchq := v.setWidth 32 }
  else if 0x890 ≤ n && n ≤ 0x893 then
    let i := (n - 0x890) / 2
    set fun x =>
      let w := fget x.sramWatch {} i
      let w' := if n % 2 = 0 then { w with addr := v } else watchWrite .sram w v
      { x with sramWatch := fset x.sramWatch {} i w' }
  else if 0x8B0 ≤ n && n ≤ 0x8B6 then
    set fun x => { x with sptop := fset x.sptop 0 (n - 0x8B0) (v.extractLsb' 4 44) }
  else if 0x900 ≤ n && n ≤ 0x9F7 then classWrite s s.cur.1 ((n - 0x900) / 4) (n % 4) v
  else s

/-- Writes a register held per cluster or package. -/
def sharedCsrWrite (s : State) (n : Nat) (v : Word) : State :=
  let k := clusterOf s.cur.1
  if n = 0x8A2 then msgmaxWrite s v
  else if s.cur.1 = mgmtCore then s
  else
    match n with
    | 0x009 => clflagsClear s k v
    | 0x8A0 => bankmodeWrite s k v
    | 0x8A1 => quantumWrite s k v
    | 0x8A3 => s.modCluster k fun c => { c with osstep := v.setWidth 3 }
    | _ => s

/-- Writes a register, field by field under R4 and R5. -/
def csrWrite (s : State) (n : Nat) (v : Word) : State :=
  if isCtxCsr n then ctxCsrWrite s n v
  else if isSharedCsr n then sharedCsrWrite s n v
  else if 0x8C0 ≤ n && n ≤ 0x8DB then mgmtWrite s n v
  else coreCsrWrite s n v

/-! ### The CSR instructions (R327, R360) -/

/-- The checks of R360 that read no register, then f. -/
def withCsr (i : Instr) (n : Nat) (setOrClear : Bool) (f : State → Result) (s : State) : Result :=
  let word := (encode i).getD 0
  if csrSuper n && !s.isSuper then trap .priv (word.setWidth 64) 0 s
  else if !csrAssigned (s.cur.1 = mgmtCore) n || (setOrClear && (n = 9 || n = 0x32)) then trapIllegal word s
  else f s

/-- Slot 0 waits for its engine instructions before it reads or writes FFLAGS, FRM or FCSR (R229). -/
def awaitFlags (n : Nat) (f : State → Result) (s : State) : Result :=
  if n ≤ 2 && !engineIdle s then stall s else f s

/-- A form that writes: g[d] takes the old value, the register the new one. -/
def csrUpdate (i : Instr) (d a : Reg) (c : BitVec 12) (setOrClear : Bool) (new : Word → Word → Word) : State → Result :=
  withCsr i c.toNat setOrClear (unlessLocked [d] [a] fun s =>
    let v := s.ctx.reg a
    if s.ctx.psn a then trapPoison a 4 v 0 s
    else
      awaitFlags c.toNat (fun s =>
        let old := csrRead s c.toNat
        .next ((csrWrite s c.toNat (new old v)).modCtx fun x => (x.setReg d old false).advance)) s)

/-- CSRR (R360). -/
def execCsrr (d : Reg) (c : BitVec 12) : State → Result :=
  withCsr (.csrr d c) c.toNat false (unlessLocked [d] [] (awaitFlags c.toNat fun s =>
    .next (s.modCtx fun x => (x.setReg d (csrRead s c.toNat) false).advance)))

/-- CSRW (R360). -/
def execCsrw (d a : Reg) (c : BitVec 12) : State → Result := csrUpdate (.csrw d a c) d a c false fun _ v => v

/-- CSRS (R360). -/
def execCsrs (d a : Reg) (c : BitVec 12) : State → Result := csrUpdate (.csrs d a c) d a c true fun old v => old ||| v

/-- CSRC (R360). -/
def execCsrc (d a : Reg) (c : BitVec 12) : State → Result := csrUpdate (.csrc d a c) d a c true fun old v => old &&& ~~~v

end Sys2Proof.Machine
end

