-- ==== Sys2Proof/Machine/Image.lean ====
section
/-!
DEFINITION. Context images (Table 11-10): their words from a context and a context from its words, CTXSAVE and CTXLOAD (R274,
R362, R363).
-/

namespace Sys2Proof.Machine

/-! ### What an image says of a wait and a trap -/

/-- The wait of a code. -/
def waitKindOf : Nat → Option WaitKind
  | 1 => some .fullEmpty | 2 => some .barrier | 3 => some .event | 4 => some .cwait | 5 => some .cseal | 6 => some .send
  | 7 => some .queue | 8 => some .fifo | _ => none

/-- What of an image the writer decides: run state, wait, PC, the answer of another package, the trap. -/
structure ImgRun where
  runstate : Nat := 0
  wkind : Nat := 0
  waitval : Word := 0
  waitleft : Nat := 0
  pc : Word := 0
  await : Bool := false
  resp : Option (Word × Bool) := none
  unfin : Nat := 0
  trap : Word × Word × Word × Word := (0, 0, 0, 0)
  deriving DecidableEq, Repr

/-! ### Words of an image -/

/-- The flags of the parts that slot 0's stopped instructions have done. No word of an image holds them but FCSR, where the
model puts them (R229, R284, log 72). -/
def partFlags (s : State) (c k : Nat) : Flags :=
  let e := s.engine c
  let mine := e.running.filter (·.gen == (s.ctxAt c k).gen)
  if k ≠ 0 || mine.isEmpty then 0
  else (mine.map (·.fl)).foldl (· ||| ·) ((e.scan.map (·.fl)).getD 0)

/-- A word of the part that every image has, by its offset below 0x200. -/
def ctxImage (s : State) (c k : Nat) (r : ImgRun) (o : Nat) : Word :=
  let x := s.ctxAt c k
  if o < 0x100 then x.reg (BitVec.ofNat 5 (o / 8))
  else
    match o with
    | 0x100 =>
      BitVec.ofNat 64 (2 ^ 63 + (if k = 0 then 2 ^ 62 else 0) + r.runstate * 2 ^ 60 + r.wkind * 2 ^ 56 +
        x.realm.toNat * 2 ^ 44 + x.prio.toNat * 2 ^ 42 +
        (List.range 32).foldl (fun a n => if x.psn (BitVec.ofNat 5 n) then a + 2 ^ n else a) 0)
    | 0x108 => r.pc
    | 0x110 => BitVec.ofNat 64 (r.waitleft % 2 ^ 32 * 2 ^ 32 + x.waitlim.toNat)
    | 0x118 => x.tbudget.setWidth 64
    | 0x120 =>
      BitVec.ofNat 64 ((x.frm.toNat * 256 + (x.fflags ||| partFlags s c k).toNat) * 2 ^ 53) ||| ctxid c k x.gen
    | 0x128 => x.tinfo
    | 0x130 => (x.barArr.setWidth 64 <<< 8) ||| x.barMember.setWidth 64
    | 0x138 => r.waitval
    | 0x140 =>
      BitVec.ofNat 64 (x.pulse.toNat * 2 ^ 48 + x.obs.toNat * 2 ^ 32 + x.cseq.toNat * 2 ^ 16 + r.unfin)
    | 0x148 =>
      (if r.await then 0x8000000000000000 else 0) |||
        (match r.resp with
         | some (_, p) => if p then 0x6000000000000000 else 0x4000000000000000
         | none => 0)
    | 0x150 => (r.resp.map (·.1)).getD 0
    | 0x158 => x.walkid
    | 0x160 => x.launch
    | 0x168 => x.nodeid
    | 0x170 => r.trap.1
    | 0x178 => r.trap.2.1
    | 0x180 => r.trap.2.2.1
    | 0x188 => r.trap.2.2.2
    | _ => 0

/-- An EQUEUE entry with its STATE (Table 11-10). -/
structure ImgEntry where
  seq : BitVec 16
  state : Nat
  apsn : Bool
  bpsn : Bool
  rep : Nat
  word : IWord
  opA : Word
  opB : Word
  prog : Nat
  deriving DecidableEq, Repr

/-- The image entry of an engine instruction. -/
def Entry.image (x : Entry) (state : Nat) : ImgEntry :=
  { seq := x.seq, state, apsn := x.psnA, bpsn := x.psnB, rep := if x.frame.isSome then x.rep else 0, word := x.word,
    opA := x.opA, opB := x.opB, prog := x.prog }

/-- Puts an image entry into a list in sequence order. -/
def insertImage (e : Engine) (x : ImgEntry) : List ImgEntry → List ImgEntry
  | [] => [x]
  | y :: r => if e.earlier x.seq y.seq then x :: y :: r else y :: insertImage e x r

/-- The element cursor of the event instruction in progress (R44). -/
def Engine.cursor (e : Engine) : Nat :=
  match e.running.find? fun x => pipeOf x.word = 1 with
  | none => 0
  | some x => (e.scan.map (·.elem)).getD x.prog

/-- The unretired instructions of slot 0: stopped, queued, discarded, and the RPT of the frame register. -/
def imageEntries (e : Engine) : List ImgEntry :=
  let stopped := e.running.map fun x =>
    Entry.image { x with prog := if pipeOf x.word = 1 then e.cursor else x.prog } 2
  let rpt := match e.rptHeld with
    | none => []
    | some q =>
      let r := fget e.ring {} (q.toNat % 64)
      if r.seq = q then
        [{ seq := q, state := 2, apsn := false, bpsn := false, rep := 0, word := r.word, opA := 0, opB := 0, prog := 0 }]
      else []
  (stopped ++ rpt ++ (e.queue.map (·.image 1)) ++ (e.dropped.map (·.image 3))).foldl (fun l x => insertImage e x l) []

/-- A word of slot 0's engine part, by its offset from 0x200 (Table 11-10). -/
def engImage (e : Engine) (o : Nat) : Word :=
  if o < 0xA00 then (fget e.v 0 ((o - 0x200) / 128)).extractLsb' (8 * ((o - 0x200) % 128)) 64
  else if o < 0xB00 then (fget e.vpsn 0 ((o - 0xA00) / 16)).extractLsb' (8 * ((o - 0xA00) % 16)) 64
  else if o < 0xB70 then (fget e.m 0 ((o - 0xB00) / 16 + 1)).extractLsb' (8 * ((o - 0xB00) % 16)) 64
  else if o = 0xB70 then
    BitVec.ofNat 64 ((List.range 7).foldl (fun a n => if fget e.mpsn false (n + 1) then a + 2 ^ (57 + n) else a) 0 +
      e.accValid.toNat * 2 ^ 23 + e.mvalid.toNat * 2 ^ 16 + e.vvalid.toNat)
  else if o = 0xB80 then e.matcfg0
  else if o = 0xB88 then e.matcfg1
  else if o = 0xB90 then e.matcfg2
  else if o = 0xB98 then e.matcfg3
  else if o = 0xBA0 then mprogRead e.toEngRegs
  else if o = 0xBA8 then BitVec.ofNat 64 (e.cursor * 2 ^ 32 + e.nextSeq.toNat)
  else if 0xC00 ≤ o && o < 0xF00 then
    match (imageEntries e)[(o - 0xC00) / 32]? with
    | none => 0
    | some x =>
      match o % 32 with
      | 0 =>
        BitVec.ofNat 64 (x.seq.toNat * 2 ^ 48 + x.state * 2 ^ 46 + (if x.apsn then 2 ^ 45 else 0) +
          (if x.bpsn then 2 ^ 44 else 0) + x.rep % 256 * 2 ^ 32 + x.word.toNat)
      | 8 => x.opA
      | 16 => x.opB
      | _ => BitVec.ofNat 64 (x.prog % 2 ^ 16)
  else if 0x1000 ≤ o && o < 0x1800 then
    BitVec.ofNat 64 ((List.range 64).foldl (fun a j => if fget e.accPsn false (8 * (o - 0x1000) + j) then a + 2 ^ j else a) 0)
  else if 0x4000 ≤ o && o < 0x14000 then
    let i := (o - 0x4000) / 4
    (fget e.acc 0 (i + 1)) ++ (fget e.acc 0 i)
  else 0

/-- A word of the image of a context. -/
def imageWord (s : State) (c k : Nat) (r : ImgRun) (o : Nat) : Word :=
  if o < 0x200 then ctxImage s c k r o else if k = 0 then engImage (s.engine c) o else 0

/-- Bytes of an image (R284). -/
def imageSize (k : Nat) : Nat := if k = 0 then 0x14000 else 0x200

/-! ### A context from an image -/

/-- A reserved field of the image is not zero (Table 11-10). -/
def imageReserved (eng : Bool) (rd : Nat → Word) : Bool :=
  (rd 0x100).extractLsb' 32 10 ≠ 0 || (rd 0x118).extractLsb' 32 32 ≠ 0 || (rd 0x120).extractLsb' 23 30 ≠ 0 ||
    (rd 0x148).extractLsb' 0 61 ≠ 0 || ((List.range 14).any fun i => rd (0x190 + 8 * i) ≠ 0) ||
    (eng && ((rd 0xB70).extractLsb' 27 30 ≠ 0 || (rd 0xBA8).extractLsb' 48 16 ≠ 0 || (rd 0xBA8).extractLsb' 16 16 ≠ 0 ||
      (List.range 24).any fun e =>
        (rd (0xC00 + 32 * e)).extractLsb' 40 4 ≠ 0 || (rd (0xC18 + 32 * e)).extractLsb' 16 48 ≠ 0))

/-- The generation, counted without wrapping, that 32 bits name near generation g. -/
def nearGen (g : Nat) (low : BitVec 32) : Nat := ((g : Int) + (low - BitVec.ofNat 32 g).toInt).toNat

/-- The registers and CSRs that an image holds (Table 11-10), over a context that keeps the rest: rd gives its words and psn
their poison, which a register read from one takes beside its tag (Table 11-5). A rounding mode of 5 to 7 is not taken (R223).
The wait is to be entered again; a barrier's without a new arrival. -/
def ctxOfImage (s : State) (base : Ctx) (rd : Nat → Word) (psn : Nat → Bool) : Ctx :=
  let w := rd 0x100
  let fcsr : BitVec 11 := (rd 0x120).extractLsb' 53 11
  let val := rd 0x138
  let wait := if w.extractLsb' 60 2 = 1 then
      (waitKindOf (w.extractLsb' 56 4).toNat).map fun kind =>
        ({ kind, val, left := ((rd 0x110).extractLsb' 32 32).toNat, redo := true } : Wait)
    else none
  let bar := match wait with
    | some x => x.kind == .barrier
    | none => false
  let x : Ctx := { base with
    occupied := true
    pc := rd 0x108
    realm := w.extractLsb' 44 12
    prio := w.extractLsb' 42 2
    waitlim := (rd 0x110).setWidth 32
    tbudget := (rd 0x118).setWidth 32
    fflags := fcsr.setWidth 5
    frm := if 4 < (fcsr.extractLsb' 8 3 : BitVec 3).toNat then base.frm else fcsr.extractLsb' 8 3
    tinfo := rd 0x128
    pulse := (rd 0x140).extractLsb' 48 16
    obs := (rd 0x140).extractLsb' 32 16
    cseq := (rd 0x140).extractLsb' 16 16
    walkid := rd 0x158
    launch := rd 0x160
    nodeid := rd 0x168
    wait
    barAwait := if bar then
        some (nearGen (s.tag (val.toNat % 8)).gen (val.extractLsb' 32 32), (base.barAwait.map (·.2)).getD false)
      else none
    barResume := bar
    g := []
    gpsn := [] }
  (List.range 32).foldl (fun x n => x.setReg (BitVec.ofNat 5 n) (rd (8 * n)) (w.getLsbD n || psn (8 * n))) x

/-- The byte tags that the poison of n 64-bit words from an offset of an image gives. -/
def imageTags (psn : Nat → Bool) (o : Nat) : Nat → Nat
  | 0 => 0
  | n + 1 => (if psn o then 255 else 0) + 256 * imageTags psn (o + 8) n

/-- n 64-bit words from an offset of an image, as one number. -/
def imageWide (rd : Nat → Word) (o : Nat) : Nat → Nat
  | 0 => 0
  | n + 1 => (rd o).toNat + 2 ^ 64 * imageWide rd (o + 8) n

/-- The general register that an engine instruction locks for its result (R244). -/
def resultOf : Instr → Option Reg
  | .vext _ g _ _ => some g
  | .mpopc _ g _ => some g
  | .vscmac d _ _ => some d
  | .vdring d _ _ => some d
  | .vsdscan d _ _ => some d
  | .vdtick d _ => some d
  | _ => none

/-- The registers held against writes until an engine instruction retires (R244). -/
def holdsOf : Instr → List Reg
  | .mma _ a b => [a, b]
  | .mmas _ a b => [a, b]
  | _ => []

/-- An engine instruction from its image entry: what the image does not hold comes from the core's own entry of that
number, or for a moved image from the dispatch ring, the context and MATCFG. -/
def entryOfImage (old : Engine) (x : Ctx) (rd : Nat → Word) (psn : Nat → Bool)
    (frame : Option (BitVec 8 × BitVec 2 × BitVec 2 × BitVec 2)) (o : Nat) : Entry :=
  let w := rd o
  let seq : BitVec 16 := w.extractLsb' 48 16
  let word : IWord := w.setWidth 32
  let rep := (w.extractLsb' 32 8).toNat
  let prog := ((rd (o + 24)).setWidth 16).toNat
  let psnA := w.getLsbD 45 || psn (o + 8)
  let psnB := w.getLsbD 44 || psn (o + 16)
  match (old.queue ++ old.running ++ old.dropped).find? fun y => y.seq == seq && y.word == word && y.gen == x.gen with
  | some y => { y with rep, prog, opA := rd (o + 8), opB := rd (o + 16), psnA, psnB }
  | none =>
    let i := (decode word).toOption
    let r := fget old.ring {} (seq.toNat % 64)
    { seq, gen := x.gen, pc := if r.seq = seq then r.pc else 0, word, opA := rd (o + 8), opB := rd (o + 16),
      psnA, psnB, d := i.bind resultOf, srcs := (i.map holdsOf).getD [], frm := x.frm,
      realm := x.realm, cfg0 := rd 0xB80, cfg1 := rd 0xB88, cfg2 := rd 0xB90, cfg3 := rd 0xB98, frame, rep, prog }

/-- The engine without instructions of a context that an image replaces: the ring stays (R283). -/
def Engine.emptied (e : Engine) : Engine :=
  { e with toEngRegs := {}, queue := [], running := [], dropped := [], fault := none, raised := false, scan := none,
           rptHeld := none }

/-- The number that a context dispatched last, by its image: the one before NEXTSEQ where EQUEUE holds an instruction. Where it
holds none and the context comes from elsewhere, no word says whether it dispatched any: a free value decides (R256, log 72). -/
def imageLast (s : State) (old : Engine) (own : Bool) (rd : Nat → Word) : Option (BitVec 16) :=
  let any := (List.range 24).any fun i => (rd (0xC00 + 32 * i)).extractLsb' 46 2 ≠ 0
  if own then old.last
  else if any || s.freeVal.getLsbD 0 then some ((rd 0xBA8).setWidth 16 - 1)
  else none

/-- The engine of slot 0 after an image (R285, R362): registers, the queue and the discarded instructions. -/
def engineOfImage (old : Engine) (x : Ctx) (last : Option (BitVec 16)) (rd : Nat → Word) (psn : Nat → Bool) : Engine :=
  let tags := rd 0xB70
  let regs : EngRegs :=
    { v := (List.range 16).foldl (fun m n => fset m 0 n (BitVec.ofNat 1024 (imageWide rd (0x200 + 128 * n) 16))) []
      vpsn := (List.range 16).foldl (fun m n => fset m 0 n (BitVec.ofNat 128 (imageWide rd (0xA00 + 16 * n) 2) |||
        BitVec.ofNat 128 (imageTags psn (0x200 + 128 * n) 16))) []
      vvalid := tags.setWidth 16
      m := (List.range 7).foldl (fun m n => fset m 0 (n + 1) (BitVec.ofNat 128 (imageWide rd (0xB00 + 16 * n) 2))) []
      mpsn := (List.range 7).foldl (fun m n =>
        fset m false (n + 1) (tags.getLsbD (57 + n) || psn (0xB00 + 16 * n) || psn (0xB08 + 16 * n))) []
      mvalid := tags.extractLsb' 16 7
      acc := (List.range 16384).foldl
        (fun m i => fset m 0 i ((rd (0x4000 + 4 * (i / 2 * 2))).extractLsb' (32 * (i % 2)) 32)) []
      accPsn := (List.range 16384).foldl (fun m i =>
        fset m false i ((rd (0x1000 + i / 64 * 8)).getLsbD (i % 64) || psn (0x4000 + 4 * (i / 2 * 2)))) []
      accValid := tags.extractLsb' 23 4
      matcfg0 := rd 0xB80, matcfg1 := rd 0xB88, matcfg2 := rd 0xB90, matcfg3 := rd 0xB98
      progValid := (rd 0xBA0).getLsbD 15
      progGroup := (rd 0xBA0).extractLsb' 8 5
      progAcc := (rd 0xBA0).setWidth 2
      last }
  let offs := ((List.range 24).map (0xC00 + 32 * ·)).filter fun o => (rd o).extractLsb' 46 2 ≠ 0
  let rpt := offs.find? fun o => (rd o).extractLsb' 26 6 = 0x2C
  let frameFor (o : Nat) : Option (BitVec 8 × BitVec 2 × BitVec 2 × BitVec 2) :=
    match rpt with
    | none => none
    | some p =>
      match decode ((rd p).setWidth 32) with
      | .ok (.rpt k n sd sa sb) =>
        let d := ((rd o).extractLsb' 48 16 - (rd p).extractLsb' 48 16).toNat
        if 1 ≤ d && d ≤ k.toNat + 1 then some (n, sd, sa, sb) else none
      | _ => none
  let entries (late : Bool) : List Entry :=
    ((offs.filter fun o => some o ≠ rpt && ((rd o).extractLsb' 46 2 = 3) = late).map fun o =>
      entryOfImage old x rd psn (frameFor o) o)
  { old with
    toEngRegs := regs
    queue := entries false
    running := []
    dropped := entries true
    rptHeld := rpt.map fun p => (rd p).extractLsb' 48 16
    nextSeq := (rd 0xBA8).setWidth 16
    scan := if (old.running ++ old.queue).any (fun y => y.gen == x.gen) then old.scan else none }

/-- The context rejoins each tag of BARMEM with no arrival counted, where the tag is enabled for its realm (R274, R362). -/
def rejoinTags (s : State) (c k : Nat) (member : BitVec 8) : State :=
  [0, 1, 2, 3, 4, 5, 6, 7].foldl (fun s t =>
    if member.getLsbD t && (s.tag t).enable && (s.tag t).realm = (s.ctxAt c k).realm then
      { s.modCtxAt c k (fun x => { x with barMember := x.barMember ||| BitVec.ofNat 8 (2 ^ t) }) with
        treeOps := s.treeOps ++ [{ core := c, slot := k, tag := t, kind := .join }] }
    else s) s

/-! ### Where an image lies -/

/-- The outcome of checking an image's addresses. -/
inductive ImgPlaces where
  | ok (l : List Place)
  | bad (c : Cause) (va : Word)
  | miss (va : Word)
  | busy
  deriving DecidableEq, Repr

/-- The regions where an image may lie (R274): translated memory, the private local-SRAM alias, the window; on the
management core any physical address. -/
def imageRegion (s : State) (va : Word) : Bool :=
  s.cur.1 = mgmtCore || inGlobal va || inWindow va || va.toNat < 0x80000

/-- The places of n 64-byte blocks from an address, checked under Table 7-3. -/
def imagePlaces (s : State) (need : Need) : Nat → Word → ImgPlaces
  | 0, _ => .ok []
  | n + 1, va =>
    if canonical va && !imageRegion s va then .bad .bounds va
    else
      match resolve s s.agent va 64 need true false with
      | .bad c => .bad c va
      | .miss => .miss va
      | .busy => .busy
      | .ok p =>
        match imagePlaces s need n (va + 64) with
        | .ok l => .ok (p :: l)
        | r => r

/-- Runs f on the places of an image at g[a], which waits for a bank that enters or leaves CACHE (R178). A fault is slot 7's
own. -/
def withImage (a : Reg) (need : Need) (size : State → Nat) (f : List Place → State → Result) (s : State) : Result :=
  let va := s.ctx.reg a
  if s.ctx.psn a then trapPoison a 1 va va s
  else
    match imagePlaces s need (size s / 64) va with
    | .bad c v => trap c v 0 s
    | .miss v => stall (postWalk s s.cur.1 s.cur.2 v)
    | .busy => stall s
    | .ok l => if l.any (cacheWaits s s.cur.1) then stall s else f l s

/-- The place n bytes further. -/
def Place.plus (n : Nat) : Place → Place
  | .sram c o w => .sram c (o + n) w
  | .scratch c o w => .scratch c (o + n) w
  | .fifo c b o => .fifo c b (o + n)
  | .global o nc k => .global (o + n) nc k
  | .host o nc k => .host (o + n) nc k
  | .device o => .device (o + n)
  | .other p a w => .other p (a + n) w

/-- The place of an image's word. -/
def wordPlace (l : List Place) (o : Nat) : Place := ((l[o / 64]?).getD (.global 0 true false)).plus (o % 64)

/-! ### CTXSAVE -/

/-- What CTXSAVE writes of the wait (R363): the wait that the trap being handled ended, a COPROC too (R245). -/
def savedRun (s : State) (c k : Nat) (r : TrapRec) : ImgRun :=
  let t := (s.core c).trap
  match r.wait with
  | some (kind, val) =>
    { runstate := 1, wkind := kind.code, waitval := val, waitleft := (s.ctxAt c k).waitlim.toNat, pc := t.tpc }
  | none => { pc := t.tpc }

/-- Every engine instruction of the frozen context that a fault did not discard has retired. -/
def frozenIdle (s : State) (c k : Nat) : Bool :=
  k ≠ 0 || !((s.engine c).queue ++ (s.engine c).running).any fun e => e.gen == (s.ctxAt c k).gen

/-- The frozen context's loads have answered, its locks are released, and its copies have finished or faulted (R264). -/
def frozenDone (s : State) (c k : Nat) : Bool :=
  let x := s.ctxAt c k
  frozenIdle s c k && (s.mem.reqs.all fun r => !r.by c k x.gen) && x.lock.all (fun p => !p.2) &&
    s.mem.copies.all fun y => !(y.core == c && y.slot == k && y.gen == x.gen && y.fault.isNone)

/-- The addresses of the destination words that a copy has not written. -/
def Copy.unwritten (s : State) (x : Copy) : List Word :=
  let first := 64 * if x.pending.isEmpty then x.prog else x.prog + 1
  let js := (List.range (x.count - first)).map (first + ·)
  match x.kind with
  | .linear => ((List.range x.total).filter (!x.done ·)).map x.dstOf
  | .gather => elementWords x.esize (js.map fun j => x.dst + BitVec.ofNat 64 (j * x.esize))
  | .scatter =>
    let isz := if x.iw64 then 8 else 4
    elementWords x.esize (js.filterMap fun j =>
      match resolve s x.agent (x.idx + BitVec.ofNat 64 (j * isz)) isz needRead true true with
      | .ok p => some (x.src + extendBytes (readHome s p isz).1 isz true * BitVec.ofNat 64 x.esize)
      | _ => none)

/-- The words that a faulted copy has not written are undefined (R264): free values. -/
def abandonCopy (s : State) (x : Copy) : State :=
  let ps := x.pending.map (·.1) ++ (x.unwritten s).filterMap fun a =>
    match resolve s x.agent a 8 needWrite true true with
    | .ok p => some p
    | _ => none
  ps.foldl (fun s p => writeHome s.drawn p 8 s.freeVal false x.writer) s

/-- The copies of a context that have faulted go; their batches count as finished (R264). -/
def dropCopies (s : State) (c k : Nat) : State :=
  let x := s.ctxAt c k
  let s := (s.mem.copies.filter fun y => y.core == c && y.slot == k && y.gen == x.gen).foldl abandonCopy s
  let s := s.modMem fun m => { m with copies := m.copies.filter fun y => !(y.core == c && y.slot == k && y.gen == x.gen) }
  s.modCtxAt c k fun x => { x with batches := [], openN := 0, openFault := none, copyFaulted := none }

/-- Runs f for the context frozen by the trap being handled: PRIV in a user context, ILLEGAL where no trap is handled or,
for the forms that need one, no context is frozen (R274). -/
def withHandled (i : Instr) (needCtx : Bool) (f : TrapRec → State → Result) (s : State) : Result :=
  let w := (encode i).getD 0
  if !s.isSuper then trap .priv (w.setWidth 64) 0 s
  else
    match s.here.trap.active, s.here.trap.handled with
    | true, some r => if needCtx && r.slot.isNone then trapIllegal w s else f r s
    | _, _ => trapIllegal w s

/-- CTXSAVE (R274, R363). -/
def execCtxsave (a : Reg) : State → Result :=
  withHandled (.ctxsave a) true fun r => unlessLocked [] [a] fun s =>
    let c := s.cur.1
    let k := r.slot.getD 0
    withImage a needWrite (fun _ => imageSize k) (fun l s =>
      let s := if k = 0 then dropEngine s c else s
      if !frozenDone s c k then stall s
      else
        let s := dropCopies s c k
        let run := savedRun s c k r
        let s := (List.range (imageSize k / 8)).foldl (fun t i =>
          writeNow (wordPlace l (8 * i)) 8 (imageWord s c k run (8 * i)) false t) s
        .next (endHandling (vacate (s.modCtx Ctx.advance) c k none) c)) s

/-! ### CTXLOAD -/

/-- The words of an image, each with its poison; those of another package are free values (log 10). -/
def readImage (s : State) (l : List Place) (n : Nat) : List (Word × Bool) × State :=
  (List.range n).foldl (fun (p : List (Word × Bool) × State) i =>
    match wordPlace l (8 * i) with
    | .other _ a _ => (p.1 ++ [p.2.foreign a], p.2.drawn)
    | q =>
      let r := readNow q 8 p.2
      (p.1 ++ [r.1], r.2)) ([], s)

/-- CTXLOAD's answer for a refusal (R274). -/
def loadRefusal (n : Nat) : Word := BitVec.ofNat 64 (2 ^ 63 + n * 2 ^ 56)

/-- The image cannot be loaded: VALID 0, a reserved field, RUNSTATE 2 or 3, a poisoned word at 0x100 to 0x1FF (R362). -/
def imageBad (ws : List (Word × Bool)) (rd : Nat → Word) : Bool :=
  !(rd 0x100).getLsbD 63 || imageReserved ((rd 0x100).getLsbD 62) rd || (rd 0x100).getLsbD 61 ||
    ((ws.drop 32).take 32).any (·.2)

/-- Places an image in slot k of core c with the slot's next generation (R362); the observed set reads all ones (R202), and the
cluster's quantum rules the task from now on (R100). -/
def loadImage (s : State) (c k : Nat) (rd : Nat → Word) (psn : Nat → Bool) : State :=
  let gen := (s.ctxAt c k).gen + 1
  let x : Ctx := { ctxOfImage s { gen, qver := (s.cluster (clusterOf c)).qver } rd psn with obs := BitVec.allOnes 16 }
  let s := s.modCtxAt c k fun _ => x
  let s := if k = 0 then
      let last := imageLast s (s.engine c) false rd
      s.drawn.modEngine c fun e => engineOfImage (e.fresh (gen - 1)) x last rd psn
    else s
  let s := rejoinTags s c k ((rd 0x130).setWidth 8)
  if k = 0 then
    s.modCtxAt c 0 fun x => ((s.engine c).queue ++ (s.engine c).dropped).foldl (fun (x : Ctx) e =>
      match e.d with
      | some d => x.setLock d true
      | none => x) x
  else s

/-- CTXLOAD (R274, R362): an acquire at PACKAGE scope; the image goes into the lowest free slot of its kind. -/
def execCtxload (d a : Reg) (s : State) : Result :=
  let w := (encode (.ctxload d a)).getD 0
  if !s.isSuper then trap .priv (w.setWidth 64) 0 s
  else
    unlessLocked [d] [a] (withImage a needRead (fun _ => 0x200) fun l s =>
      let s := acquire s .package
      let h := readImage s l 64
      let rd (ws : List (Word × Bool)) (o : Nat) : Word := ((ws[o / 8]?).getD (0, false)).1
      let answer (v : Word) (s : State) : Result := .next (s.modCtx fun x => (x.setReg d v false).advance)
      let eng := (rd h.1 0x100).getLsbD 62
      match freeSlot s s.cur.1 eng with
      | none => answer (loadRefusal 1) h.2
      | some k =>
        let go (ws : List (Word × Bool)) (s : State) : Result :=
          if imageBad ws (rd ws) then answer (loadRefusal 2) s
          else
            let s := loadImage s s.cur.1 k (rd ws) fun o => ((ws[o / 8]?).getD (0, false)).2
            answer (ctxid s.cur.1 k (s.ctxAt s.cur.1 k).gen) s
        if eng then
          withImage a needRead (fun _ => imageSize 0) (fun l s =>
            let h := readImage s l (imageSize 0 / 8)
            go h.1 h.2) s
        else go h.1 h.2) s

end Sys2Proof.Machine
end

