-- ==== Sys2Proof/Machine/Stop.lean ====
section
/-!
DEFINITION. The hard stop and the resume (R44, R137, R138, R253, R281 to R285): freezing a core, a walker's save record, the
images, and restoring them.
-/

namespace Sys2Proof.Machine

/-! ### Freezing a core (R282, R283) -/

/-- A context of slots 0 to 6 at the freeze: a sleeping wait is withdrawn and is to be entered again with the cycles left, a
packet not yet accepted is not sent; a context frozen by a trap stays as it is. Its reservation is dropped in every case (R192,
R283). -/
def freezeSlot (s : State) (c k : Nat) : State :=
  let x := s.ctxAt c k
  let s := dropResv s c k
  if !x.occupied || x.frozen then s
  else
    match x.wait with
    | none => s.modCtxAt c k fun x => { x with stalled := false, bypass := 0, sending := none }
    | some w =>
      (withdraw s c k).modCtxAt c k fun x =>
        { x with stalled := false, bypass := 0, sending := none, await := none, answer := none,
                 wait := some { w with val := waitVal s c k w, redo := true }
                 barResume := x.barResume || w.kind == .barrier }

/-- What stops within its data: an MMA or MMAS after a whole K-group, MSTACC after a row, an event instruction after a chunk
(R44, R253). A scan stands at the end of a chunk or, stalled, at a flit already (R40, R44). -/
def haltable : Instr → Bool
  | .mma _ _ _ | .mmas _ _ _ | .mstacc _ _ | .vscmac _ _ _ | .vdring _ _ _ | .vdtick _ _ => true
  | _ => false

/-- A running instruction of core c goes on to where the stop halts it, how far a free value says, or to its end. -/
def stopEntry (c : Nat) (s : State) (en : Entry) : State :=
  match en.instr with
  | none => s
  | some i =>
    if haltable i then
      settleEffect s.drawn c en (withTask c en.gen (fun t => effect (some s.freeVal.toNat) i c en t) s.drawn)
    else s

/-- STOP_DELIVERY: the STOP reaches a core, which freezes at an instruction boundary (R282, R283). -/
def execStopDelivery (core : BitVec 12) (s : State) : Result :=
  let c := core.toNat
  if s.stop.phase ≠ 1 || !s.usableCore c || (s.core c).stopped then .next s
  else
    let s := [0, 1, 2, 3, 4, 5, 6].foldl (fun s k => freezeSlot s c k) s
    .next (((s.engine c).running.foldl (stopEntry c) s).modCore c fun x => { x with stopped := true })

/-- Every usable core has frozen. -/
def allStopped (s : State) : Bool := (List.range 4096).all fun c => !s.usableCore c || (s.core c).stopped

/-! ### Walkers (R137, R138) -/

/-- The offset of a walker slot's save record (R284). -/
def recordBase (s : State) (n : Nat) : Nat := s.stop.stopbase.toNat * 2 ^ 20 % 2 ^ 42 + 0x20000000 + n * 0x100000

/-- The STATE codes of a save record (Table 5-11). -/
def WState.code : WState → Nat
  | .free => 0 | .load => 1 | .run => 2 | .fault => 3 | .drain => 4 | .cancel => 5

/-- The state of a code. -/
def wstateOf : Nat → WState
  | 1 => .load | 2 => .run | 3 => .fault | 4 => .drain | 5 => .cancel | _ => .free

/-- The PHASE codes of a save record; a start still on its way goes back to its fetch. -/
def Phase.code : Phase → Nat
  | .fetching | .starting => 0 | .started => 1 | .writingBack => 2

/-- The words of a walker's save record (Table 5-11). -/
def saveRecord (s : State) (n : Nat) : List Word :=
  let w := s.walker n
  let permits := w.mask.flatMap fun m => (List.range 4).map fun i =>
    BitVec.ofNat 64 ((List.range 4).foldl (fun a q =>
      a + (fget w.permits 0 (16 * m + 4 * i + q)).toNat * 2 ^ (16 * q)) 0)
  let tiles := w.tiles.flatMap fun t =>
    [BitVec.ofNat 64 (t.index * 2 ^ 32 + t.core * 2 ^ 20 + t.set * 2 ^ 16 + t.phase.code), 0]
  [BitVec.ofNat 64 (w.state.code * 2 ^ 60 + w.realm.toNat * 2 ^ 44 + w.part.toNat * 2 ^ 16 + (s.inst n).toNat),
   BitVec.ofNat 64 w.phys,
   BitVec.ofNat 64 (w.end_ * 2 ^ 32 + w.cur),
   BitVec.ofNat 64 (w.parent.toNat * 2 ^ 48 + w.root.toNat * 2 ^ 32 + w.children * 2 ^ 16 + w.tiles.length),
   w.status, 0, 0, 0] ++ permits ++ tiles

/-- Writes words of the save area from an offset. -/
def saveWords (s : State) (o : Nat) (w : WriterId) (l : List Word) : State :=
  (l.zipIdx).foldl (fun s x => writeGlobal s (o + 8 * x.2) 8 x.1 false w) s

/-- A walker slot freezes and writes its save record: its starts that have not reached a core go back to their fetch. -/
def stopWalker (s : State) (n : Nat) : State :=
  let w := s.walker n
  if w.state = .free || w.frozen then s
  else
    let inst := s.inst n
    let s : State := { s with cores := s.cores.map fun (p : Nat × Core) =>
      (p.1, { p.2 with incoming := p.2.incoming.filter fun t => t.walkid.extractLsb' 0 16 ≠ inst || tiKind t.tinfo ≠ 2 }) }
    let s := s.modWalker n fun w =>
      { w with frozen := true
               tiles := w.tiles.map fun (x : Tile) => if x.phase = .starting then { x with phase := .fetching } else x }
    saveWords s (recordBase s n) { wkind := 3, wcore := 0xFFF, realm := some w.realm } (saveRecord s n)

/-- WALKER_STOP: the instances of a router stop dispatching, freeze and write their records (R137); the records are written
once every core has frozen, so that no task's end is missed. -/
def execWalkerStop (router : BitVec 6) (s : State) : Result :=
  let r := router.toNat
  .next (if s.stop.phase = 1 && allStopped s then [4 * r, 4 * r + 1, 4 * r + 2, 4 * r + 3].foldl stopWalker s else s)

/-- Every instance has frozen. -/
def walkersStopped (s : State) : Bool := s.walkers.all fun p => p.2.state = .free || p.2.frozen

/-! ### The images (R282 to R284) -/

/-- Where the trap of a frozen context stands: the trap CSRs, or the traps the core holds. -/
def trapWords (x : Core) (k : Nat) : Word × Word × Word × Word :=
  let t := x.trap
  if t.active && (t.handled.bind (·.slot)) = some k then (t.tcause.setWidth 64, t.tval, t.tctx, t.tseq.setWidth 64)
  else
    match t.held.find? fun r => r.slot == some k with
    | some r => (r.cause.code.setWidth 64, r.val, r.ctx, r.seq.setWidth 64)
    | none => (0, 0, 0, 0)

/-- What the stop's image says of a context (R283). -/
def stopRun (s : State) (c k : Nat) : ImgRun :=
  let x := s.ctxAt c k
  let base : ImgRun := { pc := x.pc, await := x.await.isSome, resp := x.answer, unfin := x.batches.length }
  if x.frozen then { base with runstate := 3, trap := trapWords (s.core c) k }
  else if x.await.isSome then { base with runstate := 2 }
  else
    match x.wait with
    | some w => { base with runstate := 1, wkind := w.kind.code, waitval := w.val, waitleft := w.left }
    | none => base

/-- Writes the image of a slot; a slot that holds no task writes only word 0x100 with VALID 0 (R284). -/
def stopImage (s : State) (c k : Nat) : State :=
  let o := imageBase s c k
  let w : WriterId := { wkind := 7, wcore := c }
  if (s.ctxAt c k).occupied then
    let run := stopRun s c k
    saveWords s o w ((List.range (imageSize k / 8)).map fun i => imageWord s c k run (8 * i))
  else writeGlobal s (o + 0x100) 8 0 false w

/-- The cores whose contexts a stop saves: the usable ones that are not halted (R272). -/
def savedCores (s : State) : List Nat := (List.range 4096).filter fun c => s.usableCore c && !(s.core c).halted

/-- Every on-package access has been performed and answered, the vector and merge pipes have completed, and every copy
engine has ended the destination lines it had begun (R264, R282). -/
def stopDrained (s : State) : Bool :=
  allStopped s && walkersStopped s && s.answers.isEmpty &&
    s.mem.reqs.all (fun r => r.core = mgmtCore || (match r.place with
      | .other _ _ _ => true
      | _ => false)) &&
    !s.mem.copies.any (copyMidLine s) &&
    s.cores.all fun p => p.2.engine.running.all fun x => pipeOf x.word = 1 || pipeOf x.word = 2

/-- STOP_COMPLETE: every image is written and PHASE becomes STOPPED (R282). -/
def execStopComplete (s : State) : Result :=
  if s.stop.phase ≠ 1 || !stopDrained s then .next s
  else
    let t := (savedCores s).foldl (fun t c => [0, 1, 2, 3, 4, 5, 6].foldl (fun t k => stopImage t c k) t) s
    .next { t with stop := { t.stop with phase := 2, stopcyc := BitVec.ofNat 64 (s.cycle.toNat - s.stop.since) } }

/-! ### Resume (R285) -/

/-- A word of the save area. -/
def savedWord (s : State) (o : Nat) : Word := s.mem.load (keyGlobal o) 8

/-- Restores a slot from its image: its own context keeps what no image holds, and its unretired instructions keep the flags
of their parts (R229); a slot without a valid image is free, and so is one whose image has a reserved field that is not
zero: the image is malformed, and RESUME has no answer to report it in (R6, log 72). An image that software moved with
TRAPPED, AWAIT or UNFIN set, or apart from its walker records, is restored like any other, where R285 leaves the results
undefined (log 72). -/
def restoreSlot (s : State) (c k : Nat) : State :=
  let rd (o : Nat) : Word := savedWord s (imageBase s c k + o)
  let psn (o : Nat) : Bool := s.mem.psn (keyGlobal (imageBase s c k + o))
  let id := rd 0x120
  let gen : BitVec 8 := id.setWidth 8
  let x := s.ctxAt c k
  if !(rd 0x100).getLsbD 63 || imageReserved (k = 0) rd then
    if x.occupied then (leaveAll s c k).modCtxAt c k fun x => { occupied := false, gen := x.gen } else s
  else
    let own := x.occupied && id.setWidth 23 = (ctxid c k x.gen).setWidth 23
    let s := if own || !x.occupied then s else leaveAll s c k
    let y := ctxOfImage s (if own then x else { gen, qver := (s.cluster (clusterOf c)).qver }) rd psn
    let y : Ctx := { y with
      fflags := if own then y.fflags &&& ~~~(partFlags s c k &&& ~~~x.fflags) else y.fflags
      frozen := (rd 0x100).extractLsb' 60 2 = 3
      await := none
      answer := if (rd 0x148).getLsbD 62 then some (rd 0x150, (rd 0x148).getLsbD 61 || psn 0x150) else none }
    let s := s.modCtxAt c k fun _ => y
    let s := if own then s else rejoinTags s c k ((rd 0x130).setWidth 8)
    if k = 0 then
      let last := imageLast s (s.engine c) own rd
      let s := (if own then s else s.drawn).modEngine c fun e => engineOfImage (if own then e else e.emptied) y last rd psn
      s.modCtxAt c 0 fun x => ((s.engine c).queue ++ (s.engine c).dropped).foldl (fun (x : Ctx) e =>
        match e.d with
        | some d => x.setLock d true
        | none => x) x
    else s

/-- The launch record's words, read again at its physical address (R110): none where they cannot be read, are poisoned or form a
malformed record (R6, R112). Those of another package are free values; a record that crosses a page is read on at the physical
addresses after its first word's (log 70). -/
def launchWords (s : State) (w : Walker) (phys : Nat) : Option (List Word) :=
  let l := (List.range 32).filterMap fun i => physWord s (phys + 8 * i)
  if l.length = 32 && !(List.range 32).any (badWord s l w.realm w.node) then some l else none

/-- A tile from a save record's entry: what the record does not hold comes from the tile of that index. A fetch or
write-back begins again (R137); a tile that has been dispatched keeps the words of the launch record under which it was,
`held` (R110). -/
def tileOfRecord (old : List Tile) (held : List Word) (w : Word) : Tile :=
  let index := (w.extractLsb' 32 32).toNat
  let core := (w.extractLsb' 20 12).toNat
  let set := (w.extractLsb' 16 4).toNat
  let phase : Phase := if w.extractLsb' 0 2 = 0 then .fetching else if w.extractLsb' 0 2 = 1 then .started else .writingBack
  match old.find? fun x => x.index == index with
  | some x => { x with core, set, phase, moved := [], got := [], words := if x.words.isEmpty then held else x.words }
  | none => { index, core, set, phase, words := held }

/-- A launch whose record is malformed or unreadable at resume: no word of it is acted on; the part is cancelled, and a launch
node's fault has REASON 2 (R6, R112, R155, log 72). -/
def spoiltLaunch (s : State) (n : Nat) : State :=
  let w := s.walker n
  let t := s.modWalker n fun w => { w with cancelPending := w.state ≠ .cancel }
  match w.node with
  | some k => if w.parent = 0 then { t with eph := { t.eph with faults := t.eph.faults ++ [(k, 2, 0)] } } else t
  | none => t

/-- A reserved field of a save record, or of its STATUS, is not zero (Tables 5-11, 5-9): the record is malformed (R6). -/
def recordReserved (w : Walker) (rd : Nat → Word) : Bool :=
  let tile (i : Nat) : Nat := 0x40 + 32 * w.mask.length + 16 * i
  [(0, 0x0F000FFF00000000), (8, 0xFFF0000000000000), (0x20, 0xFFFFFF07)].any (fun (p : Nat × Word) => rd p.1 &&& p.2 ≠ 0) ||
    [0x28, 0x30, 0x38].any (fun o => rd o ≠ 0) ||
    (List.range ((rd 0x18).extractLsb' 0 16).toNat).any fun i => rd (tile i) &&& 0xFFFC ≠ 0 || rd (tile i + 8) ≠ 0

/-- Restores a walker slot from its save record; an instance in LOAD reads its record anew (R138). What no field holds, the slot
keeps: the targets' mask, the core chosen last, the next part and a cancel that waits (log 72). A malformed record is not acted
on: the part is cancelled (R6, log 72). -/
def restoreWalker (s : State) (n : Nat) : State :=
  let w := s.walker n
  let rd (o : Nat) : Word := savedWord s (recordBase s n + o)
  if !w.frozen then s
  else if recordReserved w rd then spoiltLaunch (s.modWalker n fun w => { w with frozen := false }) n
  else
    let w0 := rd 0
    let phys := ((rd 8).setWidth 52).toNat
    let again := if w.state = .load then some w.words else launchWords s w phys
    let words := again.getD w.words
    let tiles := (List.range ((rd 0x18).extractLsb' 0 16).toNat).map fun i =>
      tileOfRecord w.tiles (if words = w.words then [] else w.words) (rd (0x40 + 32 * w.mask.length + 16 * i))
    let permits := (w.mask.zipIdx).foldl (fun m x =>
      (List.range 16).foldl (fun m q =>
        fset m 0 (16 * x.1 + q) ((rd (0x40 + 32 * x.2 + 2 * q / 8 * 8)).extractLsb' (16 * (q % 4)) 16)) m) []
    let s := s.modWalker n fun w =>
      { w with
        frozen := false
        state := wstateOf (w0.extractLsb' 60 4).toNat
        realm := w0.extractLsb' 44 12
        part := w0.extractLsb' 16 16
        sgen := w0.extractLsb' 8 8
        phys, words
        end_ := ((rd 0x10).extractLsb' 32 32).toNat
        cur := ((rd 0x10).setWidth 32).toNat
        parent := (rd 0x18).extractLsb' 48 16
        root := (rd 0x18).extractLsb' 32 16
        children := ((rd 0x18).extractLsb' 16 16).toNat
        retired := ((rd 0x20).extractLsb' 32 32).toNat
        flags := (rd 0x20).setWidth 8
        permits, tiles }
    if again.isSome then s else spoiltLaunch s n

/-- Every image that awaits another package holds its answer (R283). -/
def imagesAnswered (s : State) : Bool :=
  (savedCores s).all fun c => [0, 1, 2, 3, 4, 5, 6].all fun k =>
    let rd (o : Nat) : Word := savedWord s (imageBase s c k + o)
    !(rd 0x100).getLsbD 63 || !(rd 0x148).getLsbD 63 || (rd 0x148).getLsbD 62

/-- RESUME_COMPLETE: every image and every walker record is restored, execution restarts in every unit, and PHASE returns to
RUNNING (R285). -/
def execResumeComplete (s : State) : Result :=
  if s.stop.phase ≠ 3 || !imagesAnswered s then .next s
  else
    let s := (savedCores s).foldl (fun s c => [0, 1, 2, 3, 4, 5, 6].foldl (fun s k => restoreSlot s c k) s) s
    let s := (s.walkers.map (·.1)).foldl restoreWalker s
    let s : State := { s with
      cores := s.cores.map fun p => (p.1, { p.2 with stopped := false })
      stop := { s.stop with phase := 0 } }
    let s := (savedCores s).foldl (fun s c =>
      [0, 1, 1, 1, 1, 1, 1].foldl (fun s k => giveSlot s c (k = 0)) s) s
    .next (drainKept s)

end Sys2Proof.Machine
end

