-- ==== Sys2Proof/Machine/Sys.lean ====
section
/-!
DEFINITION. The SYS family (R328, R352, R368, R369, R381, R396, R412, R413, R433), NFAIL (R165), TLBINV (R186), and the
steps that take traps: hand-over, budgets, wait limits, page walks, fetch failures, illegal words (R99, R169, R183, R271,
R286, R329).
-/

namespace Sys2Proof.Machine

/-! ### The end of a task (R97, R368, R412) -/

/-- Runs f after the releases that a task's end makes (R108, R153). A wider release covers a narrower one. -/
def releaseEnd (f : State → Result) (s : State) : Result :=
  match endScope s s.ctx s.ctx.bodyOf.isSome with
  | none => f s
  | some scope => withRelease scope f s

/-- A tile task's own stores to local SRAM have completed, so that its write-back reads them (R125). -/
def tileStored (s : State) : Bool :=
  tiKind s.ctx.tinfo ≠ 2 || s.mem.reqs.all fun r =>
    !(r.by s.cur.1 s.cur.2 s.ctx.gen && r.store && !r.done &&
      (match r.place with | .sram _ _ _ => true | _ => false))

/-- The steps of R368 after its first: locks, the engine, copies, and for a tile task its stores; then the body ends and the
slot is vacated. -/
def endTask (s : State) : Result :=
  if s.ctx.lock.any (·.2) then stall s
  else if s.cur.2 = 0 && (!engineIdle s || s.here.engine.fault.isSome) then stall s
  else
    withCopiesDone (fun s =>
      if !tileStored s then stall s
      else releaseEnd (fun s => .next (vacate (endBody s s.ctx false) s.cur.1 s.cur.2 s.ctx.bodyOf)) s) s

/-- ENDT (R368); in a tile task it acts as TDONE. -/
def execEndt (s : State) : Result := if s.isSuper then trapIllegal ((encode .endt).getD 0) s else endTask s

/-- TDONE (R412): ILLEGAL in a task that is no tile task. -/
def execTdone (s : State) : Result :=
  if s.isSuper || tiKind s.ctx.tinfo ≠ 2 then trapIllegal ((encode .tdone).getD 0) s else endTask s

/-! ### Traps that an instruction raises after it completes -/

/-- TRAP (R413): it completes, then raises SYSCALL with its code. -/
def execTrap (c : BitVec 8) (s : State) : Result := trap .syscall (c.setWidth 64) 0 (s.modCtx Ctx.advance)

/-- BRKPT (R352): it completes, then raises BREAK. -/
def execBrkpt (s : State) : Result := trap .brk 0 0 (s.modCtx Ctx.advance)

/-! ### PAUSE, WAITEV, HALT -/

/-- PAUSE (R396): the context is not ready for the next 32 cycles. -/
def execPause (s : State) : Result := .next (s.modCtx fun x => { x.advance with pauseLeft := 34, bypass := 0 })

/-- PAUSE_END (R396). -/
def execPauseEnd (core : BitVec 13) (slot : BitVec 3) (s : State) : Result :=
  if (s.ctxAt core.toNat slot.toNat).pauseLeft = 1 then
    .next (s.modCtxAt core.toNat slot.toNat fun x => { x with pauseLeft := 0 })
  else .next s

/-- WAITEV (R433). -/
def execWaitev (a : Reg) (s : State) : Result :=
  if s.isSuper then trapIllegal ((encode (.waitev a)).getD 0) s
  else
    unlessLocked [] [a] (fun s =>
      let v := s.ctx.reg a
      if s.ctx.psn a then trapPoison a 4 v 0 s
      else if 15 < v.toNat then trap .bounds v 0 s
      else if s.ctx.pulse.getLsbD v.toNat then
        .next (s.modCtx fun x => { x.advance with pulse := x.pulse &&& ~~~(BitVec.ofNat 16 (2 ^ v.toNat)) })
      else sleep .event v s) s

/-- HALT (R381): the supervisor rests until its next trap. -/
def execHalt (s : State) : Result :=
  let w := (encode .halt).getD 0
  if !s.isSuper then trap .priv (w.setWidth 64) 0 s
  else if s.here.trap.active then trapIllegal w s
  else .next (s.modCtx fun x => { x.advance with occupied := false })

/-! ### Disposing of a trap (R274) -/

/-- The instance word and the tile of a WALK trap's TCTX (Table 5-10). -/
def walkTile (ctx : Word) : BitVec 16 × Nat := (ctx.extractLsb' 32 16, (ctx.extractLsb' 0 32).toNat)

/-- ERET (R274, R369): resumes the frozen context, its engine instructions (R247) and its faulted batch (R263); retries a
tile (R135); of a notice it only ends the handling. -/
def execEret (a : Reg) : State → Result :=
  withHandled (.eret a) false fun r => unlessLocked [] [a] fun s =>
    let v := s.ctx.reg a
    if s.ctx.psn a then trapPoison a 4 v 0 s
    else
      let c := s.cur.1
      let s := s.modCtx Ctx.advance
      .next (match r.slot with
        | some k =>
          let s := resumeBatch (resumeFrozen s c v) c k
          endHandling (if r.cause = .coproc then resumeEngine s c else s) c
        | none =>
          if r.cause = .walk then
            let s := s.modCore c fun x => { x with trap := { x.trap with wskip := false } }
            endHandling (retryTile s (walkTile r.ctx).1 (walkTile r.ctx).2) c
          else endHandling s c)

/-- Ends the frozen task of slot k without ENDT's waits (R274): its discarded engine instructions go, its copies run on. -/
def disposeTask (s : State) (c k : Nat) : State := orphanCopies (if k = 0 then dropEngine s c else s) c k

/-- TKILL (R274). -/
def execTkill (s : State) : Result :=
  withHandled .tkill true (fun r s =>
    let c := s.cur.1
    let k := r.slot.getD 0
    let s := disposeTask (s.modCtx Ctx.advance) c k
    .next (endHandling (vacate (endBody s (s.ctxAt c k) true) c k (s.ctxAt c k).bodyOf) c)) s

/-- NFAIL fails a tile: its launch is cancelled, and the launch's node, if it has one, is failed in the same step (R437); the
node's id (R165). -/
def reportTile (s : State) (inst : BitVec 16) (t : Nat) (code : BitVec 32) : State × Word :=
  match failTile s inst t with
  | (s, some n) => (failNode s n code, BitVec.ofNat 64 n)
  | (s, none) => (s, 0)

/-- What NFAIL reports of a disposed task: its node's fault, its tile's failure, or nothing; the node's id (R165). -/
def reportFail (s : State) (x : Ctx) (code : BitVec 32) : State × Word :=
  if tiKind x.tinfo = 3 then
    let n := (x.nodeid.setWidth 32 : BitVec 32)
    (s.modEph fun e => { e with faults := e.faults ++ [(n.toNat, 1, code)] }, n.setWidth 64)
  else if tiKind x.tinfo = 2 then reportTile s (x.walkid.extractLsb' 0 16) (x.walkid.extractLsb' 32 32).toNat code
  else (s, 0)

/-- NFAIL (R135, R164, R165). -/
def execNfail (d a : Reg) : State → Result :=
  withHandled (.nfail d a) false fun r => unlessLocked [d] [a] fun s =>
    let v := s.ctx.reg a
    if s.ctx.psn a then trapPoison a 4 v 0 s
    else
      let c := s.cur.1
      let code : BitVec 32 := v.setWidth 32
      let answer (p : State × Word) : Result :=
        .next (endHandling (p.1.modCtx fun x => (x.setReg d p.2 false).advance) c)
      match r.slot with
      | some k =>
        let x := s.ctxAt c k
        let p := reportFail (disposeTask s c k) x code
        answer (vacate p.1 c k x.bodyOf, p.2)
      | none => answer (if r.cause = .walk then reportTile s (walkTile r.ctx).1 (walkTile r.ctx).2 code else (s, 0))

/-! ### TLBINV (R186) -/

/-- The caches of translations that a scope of TLBINV covers, by core, cluster and router; this package only (log 10). -/
structure TlbReach where
  core : Nat → Bool
  cluster : Nat → Bool := fun _ => false
  router : Nat → Bool := fun _ => false

/-- The reach of a scope (R186). -/
def tlbReach (c : Nat) (scope : Scope) : TlbReach :=
  let r := routerOf c
  match scope with
  | .core => { core := fun k => k = c }
  | .cluster =>
    if c = mgmtCore then { core := fun _ => false }
    else { core := fun k => k / 16 = c / 16 && k ≠ mgmtCore, cluster := fun n => n = clusterOf c }
  | .group =>
    { core := fun k => k / 64 = r && k ≠ mgmtCore, cluster := fun n => n / 4 = r, router := fun q => q = r }
  | .package | .domain => { core := fun _ => true, cluster := fun _ => true, router := fun _ => true }

/-- The non-leaf entry lies on the address's walk in the realm. -/
def WalkEntry.covers (e : WalkEntry) (realm : BitVec 12) (va : Word) : Bool :=
  e.realm == realm && e.vpage == va.toNat / 2 ^ (if e.level = 1 then 37 else 27)

/-- Which translations and which non-leaf entries a form of TLBINV drops. -/
structure TlbDrop where
  tlb : TlbEntry → Bool
  walk : WalkEntry → Bool

/-- Drops the named entries from the caches of a scope. -/
def dropTlbs (s : State) (c : Nat) (scope : Scope) (p : TlbDrop) : State :=
  let reach := tlbReach c scope
  { s with
    cores := s.cores.map fun (x : Nat × Core) =>
      if reach.core x.1 then (x.1, { x.2 with microTlb := x.2.microTlb.filter (!p.tlb ·) }) else x
    clusters := s.clusters.map fun (x : Nat × Cluster) =>
      if reach.cluster x.1 then (x.1, { x.2 with tlb := x.2.tlb.filter (!p.tlb ·) }) else x
    routers := s.routers.map fun (x : Nat × Router) =>
      if reach.router x.1 then (x.1, { x.2 with walkCache := x.2.walkCache.filter (!p.walk ·) }) else x }

/-- TLBINV after its checks: the entries are dropped, and the context awaits the accesses that used them; it completes
when TLBINV_COMPLETE has answered. -/
def invalidate (scope : Scope) (p : TlbDrop) (s : State) : Result :=
  if s.ctx.answer.isSome then .next (s.modCtx Ctx.advance)
  else
    let id := s.mem.nextReq
    .next (((dropTlbs s s.cur.1 scope p).modMem fun m => { m with nextReq := id + 1 }).modCtx fun x =>
      { x with await := some id, bypass := 0 })

/-- The realm operand of a TLBINV form, checked, then f. -/
def withRealm (b : Reg) (f : BitVec 12 → State → Result) (s : State) : Result :=
  let v := s.ctx.reg b
  if s.ctx.psn b then trapPoison b 4 v 0 s
  else if v.extractLsb' 12 52 ≠ 0 then trap .bounds v 0 s
  else f (v.setWidth 12) s

/-- Runs f in the supervisor; a user context raises PRIV (R85). -/
def superOnly (i : Instr) (f : State → Result) (s : State) : Result :=
  if s.isSuper then f s else trap .priv (((encode i).getD 0).setWidth 64) 0 s

/-- TLBINV.PG (R186). -/
def execTlbinvPg (a b : Reg) (c : Scope) : State → Result :=
  superOnly (.tlbinvPg a b c) (unlessLocked [] [a, b] fun s =>
    let va := s.ctx.reg a
    if s.ctx.psn a then trapPoison a 1 va va s
    else withRealm b (fun r => invalidate c ⟨fun e => e.covers r va, fun e => e.covers r va⟩) s)

/-- TLBINV.RL (R186). -/
def execTlbinvRl (b : Reg) (c : Scope) : State → Result :=
  superOnly (.tlbinvRl b c) (unlessLocked [] [b] (withRealm b fun r => invalidate c ⟨fun e => e.realm == r,
    fun e => e.realm == r⟩))

/-- TLBINV.ALL (R186). -/
def execTlbinvAll (c : Scope) : State → Result := superOnly (.tlbinvAll c) (invalidate c ⟨fun _ => true, fun _ => true⟩)

/-- The access is translated, so it may have used a dropped entry. -/
def Place.translated : Place → Bool
  | .global _ _ _ | .host _ _ _ | .device _ => true
  | .other _ _ w => !w
  | .sram _ _ _ | .scratch _ _ _ | .fifo _ _ _ => false

/-- TLBINV_COMPLETE: every access that used the dropped entries has been performed at its home, those of the copies that have
resolved where they write among them (R186). -/
def execTlbinvComplete (core : BitVec 13) (s : State) : Result :=
  let c := core.toNat
  match (s.ctxAt c 7).await with
  | none => .next s
  | some id =>
    if (s.mem.reqs.all fun r => r.id ≠ id && (id ≤ r.id || r.done || !r.place.translated)) &&
        s.mem.copies.all (·.pending.isEmpty) then
      .next (s.modCtxAt c 7 fun x => { x with answer := some (0, false) })
    else .next s

/-! ### Traps by the core itself -/

/-- TRAP_HANDOFF: the oldest held trap is handed over once slot 7 is free (R271). -/
def execTrapHandoff (core : BitVec 13) (s : State) : Result :=
  let c := core.toNat
  .next (if (s.core c).halted || (s.core c).stopped then s else handoffHeld s c)

/-- The context sleeps: its wait is not over. The waits on full-empty words, barriers and FIFO ports end by a step of the
hardware; the others end when what they await has come (R94, R241, R262, R433). A wait to re-enter does not sleep (R283). -/
def asleep (x : Core) (y : Ctx) : Bool :=
  match y.wait with
  | none => false
  | some w =>
    !w.redo &&
      (match w.kind with
       | .fullEmpty | .barrier | .fifo => true
       | .event => !y.pulse.getLsbD w.val.toNat
       | .cwait => y.oldestBatch == w.val && !y.batches.isEmpty && y.faulted == w.mark
       | .cseal => y.oldestBatch == w.val && !y.batches.isEmpty
       | .send => retryFull x
       | .queue =>
         16 < x.engine.queue.length + w.val.toNat % 32 || (32 ≤ w.val.toNat && x.engine.rptHeld.isSome))

/-- The context is between instructions or asleep, so that the core may raise a trap against it (R273); no trap ends a PAUSE
(R396). -/
def atBoundary (s : State) (c k : Nat) : Bool :=
  let x := s.core c
  let y := x.ctx k
  y.occupied && !y.frozen && !x.halted && !x.stopped && !y.joining && y.pauseLeft == 0 && y.answer.isNone &&
    (y.await.isNone || y.wait.isSome)

/-- TVAL and TCTX of a trap that may end a wait (Table 11-1). -/
def waitWords (s : State) (c k : Nat) : Word × Word :=
  match (s.ctxAt c k).wait with
  | some w => if w.redo then (0, 0) else (waitVal s c k w, BitVec.ofNat 64 w.kind.code)
  | none => (0, 0)

/-- A trap of context k at its boundary. -/
def boundaryTrap (s : State) (c k : Nat) (cause : Cause) : State :=
  let w := waitWords s c k
  raiseAt s c k
    { cause, pc := (s.ctxAt c k).pc, val := w.1, ctx := w.2, seq := 0, slot := some k, imprec := false }

/-- BUDGET_EXPIRY (R99): BUDGET is raised at the boundary, or ends the wait, unless a COPROC precedes it (R273). -/
def execBudgetExpiry (core : BitVec 12) (slot : BitVec 3) (s : State) : Result :=
  let c := core.toNat
  let k := slot.toNat
  .next (if budgetSpent s c k && atBoundary s c k && !coprocPends s c k then boundaryTrap s c k .budget else s)

/-- WAIT_LIMIT_EXPIRY (R286): a wait has lasted WAITLIM cycles and is not over; what stands at the boundary comes first
(R273). -/
def execWaitLimitExpiry (core : BitVec 13) (slot : BitVec 3) (s : State) : Result :=
  let c := core.toNat
  let k := slot.toNat
  match (s.ctxAt c k).wait with
  | none => .next s
  | some w =>
    .next (if w.left = 0 && asleep (s.core c) (s.ctxAt c k) && !budgetSpent s c k && !coprocPends s c k && atBoundary s c k then
        match (s.ctxAt c k).graphTrap with
        | some node => graphAt s c k node
        | none => boundaryTrap s c k .waitLimit
      else s)

/-- MGMT_CORE_RESET: a trap in the management core's supervisor context resets it (R299). -/
def execMgmtCoreReset (s : State) : Result := .next (if (s.core mgmtCore).halted then resetMgmtCore s else s)

/-! ### Page walks (R183, R185) -/

/-- A walk has failed: PAGE against the context that waits for it, unless its task has ended or it is frozen, or an earlier trap
of its boundary comes first, after which its access walks again (R183, R273). -/
def walkFails (s : State) (w : Walk) : State :=
  let x := s.ctxAt w.core w.slot
  if !x.occupied || x.gen ≠ w.gen || x.frozen || (s.core w.core).halted || (s.core w.core).stopped ||
      othersPend s w.core w.slot then s
  else
    raiseAt s w.core w.slot
      { cause := .page, pc := x.pc, val := w.va, ctx := 0, seq := 0, slot := some w.slot, imprec := false }

/-- PAGE_WALK_DONE: the non-leaf entries enter the walk cache and the translation the core's and the cluster's TLB, and the
waiting access goes on; a walk that fails raises PAGE, with an error record of a poisoned table word (R183, R185). -/
def execPageWalkDone (id : Nat) (s : State) : Result :=
  match s.mem.walks.find? (·.id == id) with
  | none => .next s
  | some w =>
    let r := walkTables s w.core w.realm w.va
    let t := keepNexts (s.modMem fun m => { m with walks := m.walks.filter (·.id ≠ id) }) w.core r.nexts
    let x := s.ctxAt w.core w.slot
    match r.entry with
    | some e =>
      .next ((t.modCore w.core fun x => { x with microTlb := (e :: x.microTlb).take 16 }).modCluster (clusterOf w.core) fun n =>
        { n with tlb := tlbInsert e n.tlb })
    | none =>
      .next (walkFails (walkRecord t r w.va ((w.realm.setWidth 64 <<< 23) ||| ctxid w.core w.slot w.gen) x.pc) w)

/-! ### Words that are no instruction, and fetches that fail -/

/-- ILLEGAL: a word with a reserved encoding (R329). -/
def execIllegal (w : IWord) (s : State) : Result := trapIllegal w s

/-- FETCH_FAULT (R169, R277): a poisoned instruction word names no register; every other fetch check gives TVAL the PC. -/
def execFetchFault (s : State) : Result :=
  match fetchWord s s.cur.1 s.cur.2 s.ctx.pc with
  | .fault .poison _ _ => .next (trapState .poison s.ctx.pc 6 (fetchRecord s s.ctx.pc))
  | .fault e val ctx => .next (trapState e val ctx s)
  | .word _ | .miss | .busy => .next s

end Sys2Proof.Machine
end

