-- ==== Sys2Proof/Machine/Host.lean ====
section
/-!
DEFINITION. The world outside the cores: bring-up and resets (R18, R297, R305), the host's memory aperture (R293), the PCI
Express link, soft errors (R275, R440), sensors and the regulators (R306, R308), the management core's handlers and its
responder (R299 to R304).
-/

namespace Sys2Proof.Machine

/-! ### Resets and bring-up -/

/-- FUNCTION_LEVEL_RESET clears CREN, CRINT and HOSTBASE only (R297). -/
def execFunctionLevelReset (s : State) : Result :=
  .next { s with host := { s.host with cren := false, crint := false, hostbase := 0 } }

/-- The key survives a fundamental reset: scheduler memory, which holds the graphs, does not, nor do the host-aperture lines
that slices hold (R297, log 17). -/
def keptKey (k : Nat) : Bool :=
  !(0x38000000000 ≤ k && k < 0x38004000000) && !(2 ^ 50 ≤ k && k < 2 ^ 64)

/-- FUNDAMENTAL_RESET: the package is as after reset, its full-empty bits empty and its graphs gone (R176, R297, R305).
Other memory keeps its contents, and the always-on domain its count of management-core resets (log 17). -/
def execFundamentalReset (s : State) : Result :=
  .next { State.reset with
    mem := { cells := s.mem.cells.filter fun p => keptKey p.1, poison := s.mem.poison.filter keptKey }
    mgmt := { resets := s.mgmt.resets }
    agenda := s.agenda
    free := s.free }

/-- A list of numbers in rising order without repeats, of those that p admits. -/
def numberSet (p : Nat → Bool) (l : List Nat) : List Nat := (l.filter p).foldl nput []

/-- Self-test marks out cores, the cores of failing quads, and clusters (R18). -/
def markOut (s : State) (r : BringupResult) : State :=
  { s with badCores := numberSet isCore (r.badCores ++ r.badQuads.flatMap fun q => [4 * q, 4 * q + 1, 4 * q + 2, 4 * q + 3])
           badClusters := numberSet isCluster r.badClusters }

/-- The header of a firmware image is well formed for a kind, and the image is accepted: a valid signature, a matching
digest, an SVN of at least the minimum (R303). -/
def acceptedImage (x : FwImage) (kind : Nat) (minima : List (BitVec 32)) : Bool :=
  x.w0.extractLsb' 48 16 == 0x4D49 && (x.w0.extractLsb' 40 8).toNat == kind && x.w0.extractLsb' 32 8 == 0 &&
    x.w1.extractLsb' 32 32 == 0 && x.w1.toNat % 64 == 0 && x.w1.toNat ≤ 0x1000000 && x.restZero &&
    x.matched && x.signed && minima.getD (kind - 1) 0 ≤ x.w0.setWidth 32

/-- The images that a stage verifies are accepted: configuration and root by the ROM, whose minima are those of the
configuration image, and service by root firmware (R303, R305). -/
def imagesOk (s : State) (r : BringupResult) (stage : Nat) : Bool :=
  match stage, r.config, r.root, r.service with
  | 1, some c, some x, _ => acceptedImage c 2 c.minima && acceptedImage x 1 c.minima
  | 7, _, _, some x => acceptedImage x 3 s.mgmt.minima
  | 1, _, _, _ | 7, _, _, _ => false
  | _, _, _, _ => true

/-- An accepted image's digest is extended into the measurement of its block (R303, R304). -/
def measure (m : Mgmt) (block : Nat) (x : Option FwImage) : Mgmt :=
  match x with
  | none => m
  | some x => { m with measured := fset m.measured 0 block (Config.extendDigest (fget m.measured 0 block) x.digest) }

/-- What a stage of Table 12-6 does when it passes. The management core's supervisor has started at ROM address 0 (R299). -/
def stageDone (s : State) (r : BringupResult) (stage : Nat) : State :=
  match stage with
  | 1 =>
    let m := { s.mgmt with minima := (r.config.map fun x => x.minima).getD [] }
    { s.modCore mgmtCore (fun x => { x with parked := false }) with
      package := r.package, mgmt := measure (measure m 2 r.root) 3 r.config }
  | 2 => { s with mgmt := { s.mgmt with measured := fset s.mgmt.measured 0 1 Config.romDigest } }
  | 3 =>
    match r.trip with
    | none => s
    | some t => (List.range 16).foldl (fun s d => s.modDie d fun x => x.setTrip (tripPoint t)) s
  | 5 => markOut s r
  | 6 =>
    { s with routers := s.routers.map fun p => (p.1, { p.2 with entries := [], domainPorts := [] })
             tags := []
             mem := { s.mem with ownCore := [], ownCluster := [], full := [] } }
  | 7 => { s with mgmt := measure s.mgmt 4 r.service }
  | 8 => { s with host := { s.host with linkUp := true } }
  | _ => s

/-- BRINGUP_STAGE: the next stage up to 8 completes, and BOOTSTAT shows it, or fails to 0x7F (R305); an image that is not
accepted fails its stage (R303). -/
def execBringupStage (r : BringupResult) (s : State) : Result :=
  let n := s.host.bootstat.toNat
  if 8 ≤ n then .next s
  else if !r.ok || !imagesOk s r (n + 1) then .next { s with host := { s.host with bootstat := 0x7F } }
  else
    let s := stageDone s r (n + 1)
    .next { s with host := { s.host with bootstat := BitVec.ofNat 7 (n + 1) } }

/-- PCIE_LINK_LOSS: device requests to the host fail until the link is up again (R297). -/
def execPcieLinkLoss (s : State) : Result := .next { s with host := { s.host with linkUp := false } }

/-- PCIE_LINK_UP: the link trains up again; bring-up has passed stage 8 (R291, R305). -/
def execPcieLinkUp (s : State) : Result :=
  .next (if s.host.bootstat = 8 || s.host.bootstat = 9 then { s with host := { s.host with linkUp := true } } else s)

/-! ### The host's BARs (R291, R293) -/

/-- n bytes from a package offset lie in LPDDR6 or in scheduler memory, the regions that BAR4 reaches. -/
def aperReaches (off n : Nat) : Bool :=
  off + n ≤ 0x10000000000 || (0x38000000000 ≤ off && off + n ≤ 0x38004000000)

/-- Writes bytes at the home slice, word by word, with a number of words at most. -/
def putBytes (w : WriterId) (s : State) (off : Nat) : List (BitVec 8) → Nat → State
  | [], _ => s
  | _, 0 => s
  | l, fuel + 1 =>
    let n := min (8 - off % 8) l.length
    let v := (l.take n).foldr (fun b a => b.toNat + 256 * a) 0
    putBytes w (writeGlobal s off n (BitVec.ofNat 64 v) false w) (off + n) (l.drop n) fuel

/-- A host access has completed. -/
def hostAnswer (x : HostAnswer) (s : State) : State := { s with host := { s.host with reads := x :: s.host.reads } }

/-- A read of n bytes at a package offset by the host: poisoned data is delivered marked, with a DEFERRED record (R278). -/
def hostMemRead (s : State) (off n : Nat) : State :=
  let l := (List.range n).map fun i => s.mem.byte (keyGlobal (off + i))
  match (List.range n).find? fun i => s.mem.psn (keyGlobal (off + i)) with
  | none => hostAnswer (.data l false) s
  | some i =>
    hostAnswer (.data l true)
      (pkgErrRecord s 0x1000000000000000 (s.phys ((off + i) / 8 * 8)) 0 0 0 (BitVec.ofNat 64 (8 * 2 ^ 56 + 0x10 * 2 ^ 40)))

/-- The bytes of a 64-bit word, the lowest first (R3). -/
def wordBytes (v : Word) : List Byte := (List.range 8).map fun i => v.extractLsb' (8 * i) 8

/-- HOST_APERTURE_ACCESS: a read or a write through BAR4, at the home slice, where a region that BAR4 does not reach answers
Unsupported Request (R293); a read of BAR0, or of BAR2, which reads 0; any access to these but an aligned 64-bit one
completes as a Completer Abort (R291). -/
def execHostApertureAccess (a : HostAccess) (s : State) : Result :=
  let base := s.host.aperbase.toNat * 2 ^ 30
  let inBar (o n : Nat) : Bool := o + n ≤ 2 ^ s.host.bar4
  if !hostReaches s then .next s
  else
    match a with
    | .write o l =>
      .next (if inBar o l.length && aperReaches (base + o) l.length then
          putBytes { wkind := 4, wcore := 0xFFF } s (base + o) l l.length
        else hostAnswer .unsupported s)
    | .read o n =>
      .next (if inBar o n && aperReaches (base + o) n then hostMemRead s (base + o) n else hostAnswer .unsupported s)
    | .readRegister bar2 o n =>
      .next (if n ≠ 8 || o % 8 ≠ 0 then hostAnswer .aborted s
        else if (if bar2 then 0x40000 else 0x400000) ≤ o then hostAnswer .unsupported s
        else hostAnswer (.data (wordBytes (if bar2 then 0 else devRead s o)) false) s)
    | .unalignedWrite => .next (hostAnswer .aborted s)
    | .resize n => .next (if 30 ≤ n && n ≤ 40 then { s with host := { s.host with bar4 := n } } else s)

/-! ### Soft errors (R275, R440) -/

/-- The address an error record gives for a key of memory (Table 11-6). -/
def errorAddr (s : State) (key : Nat) : Word :=
  if key < 2 ^ 48 then s.phys (key / 8 * 8)
  else if 2 ^ 50 ≤ key then s.phys ((key - 2 ^ 50) / 8 * 8)
  else if key < 2 ^ 48 + 2 ^ 31 then
    let o := key - 2 ^ 48
    s.windowSram (o / 0x80000) (o % 0x80000 / 8 * 8)
  else
    let o := key - 2 ^ 48 - 2 ^ 31
    s.windowScratch (o / 0x800000) (o % 0x800000 / 8 * 8)

/-- The flipped bits of word i. -/
def softFlip (e : SoftError) (i : Nat) : Word := e.flips.extractLsb' (64 * i) 64

/-- A word is poisoned with the bits read from the array (R440). -/
def spoilWord (s : State) (k : Nat) (flip : Word) : State :=
  s.modMem fun m => m.store (wordKey k) 8 (m.load (wordKey k) 8 ^^^ flip) true

/-- The word of a memory array, unless it is poisoned already. -/
def spoilCell (s : State) (k : Nat) (flip : Word) : Option State := if s.mem.psn k then none else some (spoilWord s k flip)

/-- The word of a cached line that a bank holds at an offset of it: bank b is way b, and offset / 128 the set (R179). -/
def spoilLine (s : State) (n b off : Nat) (flip : Word) : Option State :=
  let i := off / 8 % 16
  match (s.cluster n).lines.find? fun p => p.1 % 4096 == off / 128 && p.2.any fun l => l.way == b with
  | some (line, some l) =>
    if l.psn.getLsbD i || (l.present.extractLsb' (8 * i) 8 : BitVec 8) = 0 then none
    else
      let l := { l with data := l.data ^^^ (flip.setWidth 1024 <<< (64 * i)), psn := l.psn ||| BitVec.ofNat 16 (2 ^ i) }
      some (s.modCluster n fun x => { x with lines := fset x.lines none line (some l) })
  | _ => none

/-- Sets the element of a list at a place. -/
def setAt {α : Type} (l : List α) (i : Nat) (v : α) : List α := l.take i ++ v :: l.drop (i + 1)

/-- An entry of a FIFO bank. -/
def spoilFifo (s : State) (n b i : Nat) (flip : Word) : Option State :=
  match (s.bank n b).fifo[i]? with
  | some (v, false) =>
    some (s.modCluster n fun x =>
      { x with banks := fset x.banks {} b { fget x.banks {} b with
          fifo := setAt (fget x.banks {} b).fifo i (v ^^^ flip, true) } })
  | _ => none

/-- A word of cluster memory, which the bank's mode makes a cell of scratch, a word of a cached line or a FIFO entry (R177). -/
def spoilCluster (s : State) (key : Nat) (flip : Word) : Option State :=
  let o := key - 2 ^ 48 - 2 ^ 31
  let n := o / 0x800000
  let b := o % 0x800000 / 0x80000
  match (s.bank n b).mode with
  | .cache => spoilLine s n b (o % 0x80000) flip
  | .fifo => spoilFifo s n b (o % 0x80000 / 8) flip
  | .scratch => spoilCell s key flip

/-- A captured operand of an entry of a core's dispatch queue. -/
def spoilEntry (s : State) (c i : Nat) (flip : Word) : Option State :=
  match (s.engine c).queue[i / 2]? with
  | none => none
  | some e =>
    if (if i % 2 = 0 then e.psnA else e.psnB) then none
    else
      let e := if i % 2 = 0 then { e with opA := e.opA ^^^ flip, psnA := true }
        else { e with opB := e.opB ^^^ flip, psnB := true }
      some (s.modEngine c fun x => { x with queue := setAt x.queue (i / 2) e })

/-- A flit of the packets at a router's inputs. -/
def spoilFlit (s : State) (r i : Nat) (flip : Word) : Option State :=
  let go := (s.router r).inq.foldl (fun (a : Nat × List (CameFrom × Packet) × Bool) q =>
    let n := q.2.flits.length
    let f := q.2.flits.getD (i - a.1) (0, true)
    if a.1 ≤ i && i < a.1 + n && !f.2 then
      (a.1 + n, a.2.1 ++ [(q.1, { q.2 with flits := setAt q.2.flits (i - a.1) (f.1 ^^^ flip, true) })], true)
    else (a.1 + n, a.2.1 ++ [q], a.2.2)) (0, [], false)
  if go.2.2 then some (s.modRouter r fun x => { x with inq := go.2.1 }) else none

/-- An uncorrectable error marks the word, or all 16 of an LPDDR6 line, poisoned; none where it was so already (R275, R440). -/
def spoil (s : State) (e : SoftError) : Option State :=
  match e.ukind, e.queued with
  | 1, some i => spoilEntry s e.unit i (softFlip e 0)
  | 6, some i => spoilFlit s e.unit i (softFlip e 0)
  | 6, none => some s
  | 2, _ => spoilCluster s e.key (softFlip e 0)
  | 5, _ =>
    if s.mem.psn e.key then none
    else some ((List.range 16).foldl (fun s i => spoilWord s (e.key / 128 * 128 + 8 * i) (softFlip e i)) s)
  | _, _ => spoilCell s e.key (softFlip e 0)

/-- UNIT of a soft error: the core, cluster or slice that holds the word; of a queue, a channel or a router it is given
(Table 11-6). -/
def softUnit (e : SoftError) : Nat :=
  match e.ukind, e.queued with
  | 1, none => (e.key - 2 ^ 48) / 0x80000
  | 2, _ => (e.key - 2 ^ 48 - 2 ^ 31) / 0x800000
  | 3, _ | 4, _ => sliceOf (e.key % 2 ^ 50)
  | _, _ => e.unit

/-- The record of a soft error (Table 11-6); a queue has no address (log 66). -/
def softRecord (s : State) (flags : Word) (e : SoftError) : State :=
  pkgErrRecord s flags (if e.ukind = 6 || e.queued.isSome then 0 else errorAddr s e.key) 0 0 0
    (BitVec.ofNat 64 (e.ukind % 256 * 2 ^ 56 + softUnit e % 2 ^ 16 * 2 ^ 40 + e.syndrome.toNat))

/-- SOFT_ERROR_DETECT: a corrected error is counted, and recorded under CEREC; an uncorrectable one poisons the word,
wherever its array holds it, and is recorded once (R275, R440). -/
def execSoftErrorDetect (e : SoftError) (s : State) : Result :=
  if !(1 ≤ e.ukind && e.ukind ≤ 6) then .next s
  else
    match e.kind with
    | .clean => .next s
    | .corrected =>
      let s : State := { s with errs := { s.errs with ce := fset s.errs.ce 0 e.ukind (fget s.errs.ce 0 e.ukind + 1) } }
      .next (if s.errs.cerec then softRecord s 0x2000000000000000 e else s)
    | .uncorrectable =>
      match spoil s e with
      | none => .next s
      | some t => .next (softRecord t 0x1000000000000000 e)

/-! ### Sensors and the regulators (R306, R308) -/

/-- The highest of the four sensors, signed. -/
def maxSense (w : Word) : BitVec 16 :=
  [1, 2, 3].foldl (fun (a : BitVec 16) i =>
    let b : BitVec 16 := w.extractLsb' (16 * i) 16
    if a.slt b then b else a) (w.extractLsb' 0 16)

/-- SENSOR_READ: SENSE and TMAX take the reading; ALERT sets where TMAX has reached HI from below, TRIP holds while TMAX is
at or above TRIPPT (R306). -/
def execSensorRead (die : BitVec 4) (sense : Word) (s : State) : Result :=
  .next (s.modDie die.toNat fun x =>
    let t := maxSense sense
    let high := x.hi.sle t
    { x with sense, tmax := t, alert := x.alert || (high && !x.wasHigh), wasHigh := high, trip := x.trippt.sle t })

/-- OVERCURRENT_REPORT (R308). -/
def execOvercurrentReport (s : State) : Result := .next { s with overcurrent := true, belowSince := s.cycle.toNat }

/-- OVERCURRENT_CLEAR: the current has stayed below the limit for 1,600,000 cycles (R308). -/
def execOvercurrentClear (s : State) : Result :=
  .next (if s.overcurrent && s.belowSince + 1600000 ≤ s.cycle.toNat then { s with overcurrent := false } else s)

/-! ### The management core's sources (R300) -/

/-- POLL_PERIOD: PERIOD cycles have passed and POLL pends; a round that has not ended goes on. -/
def execPollPeriod (s : State) : Result :=
  let m := s.mgmt
  .next (if m.mperiod ≠ 0 && m.mperiod.toNat ≤ m.pollCount then
      { s with mgmt := { m with mpend := m.mpend ||| 2, pollCount := 0
                                pollDie := if m.mpend.getLsbD 1 then m.pollDie else 0 } }
    else s)

/-- MCTP_PACKET_ARRIVAL: the packet's bytes are written to the receive buffer, and MCTP pends. -/
def execMctpPacketArrival (bytes : List (BitVec 8)) (s : State) : Result :=
  let a := s.mgmt.mrxbuf.toNat * 64
  let off := a % 2 ^ 42
  let s := if a / 2 ^ 42 = s.package.toNat && aperReaches off bytes.length then
      putBytes { wkind := 5, wcore := 0xFFF } s off bytes bytes.length
    else s
  .next { s with mgmt := { s.mgmt with mpend := s.mgmt.mpend ||| 8 } }

/-- The physical address of a die's thermal block. -/
def dieAddr (s : State) (d : Nat) : Word := s.phys (0x30000000000 + 0x18B000 + 0x40 * d)

/-- The argument of a source's handler, and what its start does to the source (R300). -/
def takeSource (s : State) (i : Nat) : Word × State :=
  let m := s.mgmt
  match i with
  | 0 => (dieAddr s (((List.range 16).find? fun d => (s.die d).alert).getD 0), s)
  | 1 =>
    (dieAddr s m.pollDie, { s with mgmt := { m with pollDie := m.pollDie + 1 } })
  | 2 =>
    let size := 2 ^ s.errs.logn.toNat
    let k := max m.errHanded.toNat (s.errs.count.toNat - size)
    (BitVec.ofNat 64 (s.errs.base.toNat * 64 + 64 * (k % size)),
      { s with mgmt := { m with mpend := m.mpend &&& 0xB, errHanded := BitVec.ofNat 64 (k + 1) } })
  | _ => (m.mrxbuf.setWidth 64 <<< 6, { s with mgmt := { m with mpend := m.mpend &&& 0x7 } })

/-- SERVICE_HANDLER_START: the user context is free and no trap is handled: the lowest source that pends with EN set starts
its handler (R300). -/
def execServiceHandlerStart (s : State) : Result :=
  let x := s.core mgmtCore
  if (x.ctx 1).occupied || x.trap.active || x.halted then .next s
  else
    match [0, 1, 2, 3].find? fun i => s.mgmtPending.getLsbD i && s.mgmt.mentryEn.getLsbD i with
    | none => .next s
    | some i =>
      let p := takeSource s i
      .next (p.2.modCtxAt mgmtCore 1 fun y =>
        ({ occupied := true, gen := y.gen + 1, pc := entryPc (fget s.mgmt.mentry 0 i) } : Ctx).setReg 4 p.1 false)

/-- The measurement blocks of R304: ROM, root image, configuration image, service image, floor map. -/
def measurementBlocks (s : State) : List (BitVec 256) :=
  [1, 2, 3, 4].map (fget s.mgmt.measured 0) ++ [Config.digestWords ((List.range 80).map (floorWord s))]

/-- The answer to an SPDM request (R304): what it is signed or encoded with is a free value; sessions are not offered. -/
def spdmAnswer (s : State) (code : SpdmCode) : MgmtReply :=
  match code with
  | .other => .unsupported
  | .getMeasurements => .measurements (measurementBlocks s) s.freeVal
  | c => .spdm c s.freeVal

/-- The reading of a PLDM sensor (R301); the package's power is no state of the manual: a free value. -/
def sensorReading (s : State) (x : Sensor) : Word :=
  match x with
  | .tmax d => (s.die d.toNat).tmax.setWidth 64
  | .power => s.freeVal
  | .step d => BitVec.ofNat 64 (max (s.die d.toNat).fwstep.toNat (s.die d.toNat).hwstep)

/-- What the responder answers: SPDM over MCTP, or over DOE while the PCI Express link is up, once bring-up has derived the key
(R301, R304, R305); PLDM, which is service firmware's, once that has started (R302). -/
def mgmtReply (s : State) (r : MgmtRequest) : Option MgmtReply :=
  let n := s.host.bootstat.toNat
  match r with
  | .spdm via code => if 2 ≤ n && n ≠ 0x7F && (via == .mctp || s.host.linkUp) then some (spdmAnswer s code) else none
  | .pldm x => if 7 ≤ n && n ≠ 0x7F then some (.reading (sensorReading s x)) else none

/-- SPDM_REQUEST: the management core's responder answers a request (R301, R304). -/
def execSpdmRequest (r : MgmtRequest) (s : State) : Result :=
  .next (match mgmtReply s r with
    | none => s
    | some a => { s.drawn with mgmt := { s.mgmt with replies := a :: s.mgmt.replies } })

end Sys2Proof.Machine
end

