-- ==== Sys2Proof/Machine/Dispatch.lean ====
section
/-!
DEFINITION. The dispatch: one arm per instruction of Sys2Proof.Instr, each a direct call of its meaning, or a refusal
by name of one that has none.
-/

namespace Sys2Proof.Machine

/-- What an instruction does in a state. -/
def exec (i : Instr) (s : State) : Host.Outcome State Fault Refusal :=
  match i with
  | .add d a b w => Sys2Proof.Machine.execAdd d a b w s
  | .sub d a b w => Sys2Proof.Machine.execSub d a b w s
  | .and d a b => Sys2Proof.Machine.execAnd d a b s
  | .or d a b => Sys2Proof.Machine.execOr d a b s
  | .xor d a b => Sys2Proof.Machine.execXor d a b s
  | .sll d a b w => Sys2Proof.Machine.execSll d a b w s
  | .srl d a b w => Sys2Proof.Machine.execSrl d a b w s
  | .sra d a b w => Sys2Proof.Machine.execSra d a b w s
  | .slt d a b => Sys2Proof.Machine.execSlt d a b s
  | .sltu d a b => Sys2Proof.Machine.execSltu d a b s
  | .min d a b => Sys2Proof.Machine.execMin d a b s
  | .max d a b => Sys2Proof.Machine.execMax d a b s
  | .minu d a b => Sys2Proof.Machine.execMinu d a b s
  | .maxu d a b => Sys2Proof.Machine.execMaxu d a b s
  | .mul d a b w => Sys2Proof.Machine.execMul d a b w s
  | .mulh d a b => Sys2Proof.Machine.execMulh d a b s
  | .mulhu d a b => Sys2Proof.Machine.execMulhu d a b s
  | .div d a b w => Sys2Proof.Machine.execDiv d a b w s
  | .divu d a b w => Sys2Proof.Machine.execDivu d a b w s
  | .rem d a b w => Sys2Proof.Machine.execRem d a b w s
  | .remu d a b w => Sys2Proof.Machine.execRemu d a b w s
  | .cmovnz d a b => Sys2Proof.Machine.execCmovnz d a b s
  | .cmovz d a b => Sys2Proof.Machine.execCmovz d a b s
  | .clz d a w => Sys2Proof.Machine.execClz d a w s
  | .ctz d a w => Sys2Proof.Machine.execCtz d a w s
  | .popc d a w => Sys2Proof.Machine.execPopc d a w s
  | .addi d a ix => Sys2Proof.Machine.execAddi d a ix s
  | .andi d a ix => Sys2Proof.Machine.execAndi d a ix s
  | .ori d a ix => Sys2Proof.Machine.execOri d a ix s
  | .xori d a ix => Sys2Proof.Machine.execXori d a ix s
  | .slti d a ix => Sys2Proof.Machine.execSlti d a ix s
  | .sltiu d a ix => Sys2Proof.Machine.execSltiu d a ix s
  | .slli d a w sx => Sys2Proof.Machine.execSlli d a w sx s
  | .srli d a w sx => Sys2Proof.Machine.execSrli d a w sx s
  | .srai d a w sx => Sys2Proof.Machine.execSrai d a w sx s
  | .lui d ix => Sys2Proof.Machine.execLui d ix s
  | .addpc d ix => Sys2Proof.Machine.execAddpc d ix s
  | .ldpc d ix => Sys2Proof.Machine.execLdpc d ix s
  | .fadd d a b f r => Sys2Proof.Machine.execFadd d a b f r s
  | .fsub d a b f r => Sys2Proof.Machine.execFsub d a b f r s
  | .fmul d a b f r => Sys2Proof.Machine.execFmul d a b f r s
  | .fdiv d a b f r => Sys2Proof.Machine.execFdiv d a b f r s
  | .fsqrt d a f r => Sys2Proof.Machine.execFsqrt d a f r s
  | .fmin d a b f => Sys2Proof.Machine.execFmin d a b f s
  | .fmax d a b f => Sys2Proof.Machine.execFmax d a b f s
  | .feq d a b f => Sys2Proof.Machine.execFeq d a b f s
  | .flt d a b f => Sys2Proof.Machine.execFlt d a b f s
  | .fle d a b f => Sys2Proof.Machine.execFle d a b f s
  | .fclass d a f => Sys2Proof.Machine.execFclass d a f s
  | .fcvtI d a t f r => Sys2Proof.Machine.execFcvtI d a t f r s
  | .fcvtF d a t f r => Sys2Proof.Machine.execFcvtF d a t f r s
  | .fcvtFF d a src f r => Sys2Proof.Machine.execFcvtFF d a src f r s
  | .fsgn d a b f m => Sys2Proof.Machine.execFsgn d a b f m s
  | .fma d a b c f64 r => Sys2Proof.Machine.execFma d a b c f64 r s
  | .fms d a b c f64 r => Sys2Proof.Machine.execFms d a b c f64 r s
  | .fnma d a b c f64 r => Sys2Proof.Machine.execFnma d a b c f64 r s
  | .fnms d a b c f64 r => Sys2Proof.Machine.execFnms d a b c f64 r s
  | .bext d a p l => Sys2Proof.Machine.execBext d a p l s
  | .bextu d a p l => Sys2Proof.Machine.execBextu d a p l s
  | .bins d a p l => Sys2Proof.Machine.execBins d a p l s
  | .cellkey d a => Sys2Proof.Machine.execCellkey d a s
  | .ld d a ix z => Sys2Proof.Machine.execLd d a ix z s
  | .st sx a ix z => Sys2Proof.Machine.execSt sx a ix z s
  | .ldx d a b k z => Sys2Proof.Machine.execLdx d a b k z s
  | .stx sx a b k z => Sys2Proof.Machine.execStx sx a b k z s
  | .ldo d a c o z => Sys2Proof.Machine.execLdo d a c o z s
  | .sto a b c o z => Sys2Proof.Machine.execSto a b c o z s
  | .amoAdd d a b c o z => Sys2Proof.Machine.execAmoAdd d a b c o z s
  | .amoAnd d a b c o z => Sys2Proof.Machine.execAmoAnd d a b c o z s
  | .amoOr d a b c o z => Sys2Proof.Machine.execAmoOr d a b c o z s
  | .amoXor d a b c o z => Sys2Proof.Machine.execAmoXor d a b c o z s
  | .amoMin d a b c o z => Sys2Proof.Machine.execAmoMin d a b c o z s
  | .amoMax d a b c o z => Sys2Proof.Machine.execAmoMax d a b c o z s
  | .amoMinu d a b c o z => Sys2Proof.Machine.execAmoMinu d a b c o z s
  | .amoMaxu d a b c o z => Sys2Proof.Machine.execAmoMaxu d a b c o z s
  | .amoSwap d a b c o z => Sys2Proof.Machine.execAmoSwap d a b c o z s
  | .amoCas d a b c o z => Sys2Proof.Machine.execAmoCas d a b c o z s
  | .amoFadd d a b c o z => Sys2Proof.Machine.execAmoFadd d a b c o z s
  | .fence c o sc => Sys2Proof.Machine.execFence c o sc s
  | .ldfe d a c => Sys2Proof.Machine.execLdfe d a c s
  | .ldfeTake d a c => Sys2Proof.Machine.execLdfeTake d a c s
  | .stfe a b c => Sys2Proof.Machine.execStfe a b c s
  | .stfeFill a b c => Sys2Proof.Machine.execStfeFill a b c s
  | .feempty a => Sys2Proof.Machine.execFeempty a s
  | .feprobe d a => Sys2Proof.Machine.execFeprobe d a s
  | .qread d a b k => Sys2Proof.Machine.execQread d a b k s
  | .qstore d a => Sys2Proof.Machine.execQstore d a s
  | .pref a => Sys2Proof.Machine.execPref a s
  | .clean a => Sys2Proof.Machine.execClean a s
  | .inval a => Sys2Proof.Machine.execInval a s
  | .zerol a => Sys2Proof.Machine.execZerol a s
  | .beq a b ix => Sys2Proof.Machine.execBeq a b ix s
  | .bne a b ix => Sys2Proof.Machine.execBne a b ix s
  | .blt a b ix => Sys2Proof.Machine.execBlt a b ix s
  | .bge a b ix => Sys2Proof.Machine.execBge a b ix s
  | .bltu a b ix => Sys2Proof.Machine.execBltu a b ix s
  | .bgeu a b ix => Sys2Proof.Machine.execBgeu a b ix s
  | .jal d ix => Sys2Proof.Machine.execJal d ix s
  | .jalr d a ix => Sys2Proof.Machine.execJalr d a ix s
  | .vld d b m e => Sys2Proof.Machine.execVld d b m e s
  | .vlds d b sx m e => Sys2Proof.Machine.execVlds d b sx m e s
  | .vldx d b ix m e => Sys2Proof.Machine.execVldx d b ix m e s
  | .vst d b m e => Sys2Proof.Machine.execVst d b m e s
  | .vsts d b sx m e => Sys2Proof.Machine.execVsts d b sx m e s
  | .vstx d b ix m e => Sys2Proof.Machine.execVstx d b ix m e s
  | .vadd d a b m t z sx => Sys2Proof.Machine.execVadd d a b m t z sx s
  | .vsub d a b m t z sx => Sys2Proof.Machine.execVsub d a b m t z sx s
  | .vmul d a b m t z sx => Sys2Proof.Machine.execVmul d a b m t z sx s
  | .vmin d a b m t z => Sys2Proof.Machine.execVmin d a b m t z s
  | .vmax d a b m t z => Sys2Proof.Machine.execVmax d a b m t z s
  | .vabs d a m t z => Sys2Proof.Machine.execVabs d a m t z s
  | .vneg d a m t z => Sys2Proof.Machine.execVneg d a m t z s
  | .vand d a b m t z => Sys2Proof.Machine.execVand d a b m t z s
  | .vor d a b m t z => Sys2Proof.Machine.execVor d a b m t z s
  | .vxor d a b m t z => Sys2Proof.Machine.execVxor d a b m t z s
  | .vshl d a b m t z => Sys2Proof.Machine.execVshl d a b m t z s
  | .vshr d a b m t z => Sys2Proof.Machine.execVshr d a b m t z s
  | .vcmpeq d a b m t => Sys2Proof.Machine.execVcmpeq d a b m t s
  | .vcmplt d a b m t => Sys2Proof.Machine.execVcmplt d a b m t s
  | .vcmple d a b m t => Sys2Proof.Machine.execVcmple d a b m t s
  | .vsel d a b m t => Sys2Proof.Machine.execVsel d a b m t s
  | .vmov d a m t z => Sys2Proof.Machine.execVmov d a m t z s
  | .vsplat v g t => Sys2Proof.Machine.execVsplat v g t s
  | .vext v g ix t => Sys2Proof.Machine.execVext v g ix t s
  | .vins v g ix t => Sys2Proof.Machine.execVins v g ix t s
  | .vfma d a b m t z => Sys2Proof.Machine.execVfma d a b m t z s
  | .vfms d a b m t z => Sys2Proof.Machine.execVfms d a b m t z s
  | .vfnma d a b m t z => Sys2Proof.Machine.execVfnma d a b m t z s
  | .mand d a b => Sys2Proof.Machine.execMand d a b s
  | .mor d a b => Sys2Proof.Machine.execMor d a b s
  | .mxor d a b => Sys2Proof.Machine.execMxor d a b s
  | .mnot d a => Sys2Proof.Machine.execMnot d a s
  | .mpopc v g t => Sys2Proof.Machine.execMpopc v g t s
  | .msetn v g t => Sys2Proof.Machine.execMsetn v g t s
  | .vredadd d a m t => Sys2Proof.Machine.execVredadd d a m t s
  | .vredmax d a m t => Sys2Proof.Machine.execVredmax d a m t s
  | .vredmin d a m t => Sys2Proof.Machine.execVredmin d a m t s
  | .vperm d a b m t z => Sys2Proof.Machine.execVperm d a b m t z s
  | .vrot d a b m t z => Sys2Proof.Machine.execVrot d a b m t z s
  | .vcompress d a m t => Sys2Proof.Machine.execVcompress d a m t s
  | .vscmac d a b => Sys2Proof.Machine.execVscmac d a b s
  | .vdring d a b => Sys2Proof.Machine.execVdring d a b s
  | .vsdscan d a b => Sys2Proof.Machine.execVsdscan d a b s
  | .vdtick d a => Sys2Proof.Machine.execVdtick d a s
  | .vcvt d a src m dst r => Sys2Proof.Machine.execVcvt d a src m dst r s
  | .vquant d a b m dst r => Sys2Proof.Machine.execVquant d a b m dst r s
  | .vact d a m z c => Sys2Proof.Machine.execVact d a m z c s
  | .mma c a b => Sys2Proof.Machine.execMma c a b s
  | .mmas c a b => Sys2Proof.Machine.execMmas c a b s
  | .mzero c => Sys2Proof.Machine.execMzero c s
  | .mldacc c a => Sys2Proof.Machine.execMldacc c a s
  | .mstacc c a => Sys2Proof.Machine.execMstacc c a s
  | .mxform c sx b => Sys2Proof.Machine.execMxform c sx b s
  | .mwait d => Sys2Proof.Machine.execMwait d s
  | .isect d a b n32 => Sys2Proof.Machine.execIsect d a b n32 s
  | .union d a b n32 => Sys2Proof.Machine.execUnion d a b n32 s
  | .merge d a b n32 => Sys2Proof.Machine.execMerge d a b n32 s
  | .rpt k n sd sa sb => Sys2Proof.Machine.execRpt k n sd sa sb s
  | .emit a r => Sys2Proof.Machine.execEmit a r s
  | .send a b r n => Sys2Proof.Machine.execSend a b r n s
  | .sendr a b r n => Sys2Proof.Machine.execSendr a b r n s
  | .evpop d a => Sys2Proof.Machine.execEvpop d a s
  | .evpopv v a => Sys2Proof.Machine.execEvpopv v a s
  | .rcmask a => Sys2Proof.Machine.execRcmask a s
  | .rcunmask a => Sys2Proof.Machine.execRcunmask a s
  | .ctxtok d => Sys2Proof.Machine.execCtxtok d s
  | .ccopy d a b => Sys2Proof.Machine.execCcopy d a b s
  | .ccopy2d a => Sys2Proof.Machine.execCcopy2d a s
  | .cgather a => Sys2Proof.Machine.execCgather a s
  | .cscatter a => Sys2Proof.Machine.execCscatter a s
  | .cseal d => Sys2Proof.Machine.execCseal d s
  | .cwait a => Sys2Proof.Machine.execCwait a s
  | .syncarm a b lv l => Sys2Proof.Machine.execSyncarm a b lv l s
  | .wlaunch d a => Sys2Proof.Machine.execWlaunch d a s
  | .wsplit d a => Sys2Proof.Machine.execWsplit d a s
  | .wpermit d a b => Sys2Proof.Machine.execWpermit d a b s
  | .tdone => Sys2Proof.Machine.execTdone s
  | .nspawn d a b => Sys2Proof.Machine.execNspawn d a b s
  | .nfail d a => Sys2Proof.Machine.execNfail d a s
  | .nstat d a => Sys2Proof.Machine.execNstat d a s
  | .ntoken d a => Sys2Proof.Machine.execNtoken d a s
  | .join t => Sys2Proof.Machine.execJoin t s
  | .leave t => Sys2Proof.Machine.execLeave t s
  | .bar t => Sys2Proof.Machine.execBar t s
  | .bararr t => Sys2Proof.Machine.execBararr t s
  | .bwait t => Sys2Proof.Machine.execBwait t s
  | .csrr d c => Sys2Proof.Machine.execCsrr d c s
  | .csrw d a c => Sys2Proof.Machine.execCsrw d a c s
  | .csrs d a c => Sys2Proof.Machine.execCsrs d a c s
  | .csrc d a c => Sys2Proof.Machine.execCsrc d a c s
  | .endt => Sys2Proof.Machine.execEndt s
  | .trap c => Sys2Proof.Machine.execTrap c s
  | .eret a => Sys2Proof.Machine.execEret a s
  | .waitev a => Sys2Proof.Machine.execWaitev a s
  | .pause => Sys2Proof.Machine.execPause s
  | .brkpt => Sys2Proof.Machine.execBrkpt s
  | .halt => Sys2Proof.Machine.execHalt s
  | .ctxsave a => Sys2Proof.Machine.execCtxsave a s
  | .ctxload d a => Sys2Proof.Machine.execCtxload d a s
  | .tlbinvPg a b c => Sys2Proof.Machine.execTlbinvPg a b c s
  | .tlbinvRl b c => Sys2Proof.Machine.execTlbinvRl b c s
  | .tlbinvAll c => Sys2Proof.Machine.execTlbinvAll c s
  | .tkill => Sys2Proof.Machine.execTkill s
  | .registerWrite who off v => Sys2Proof.Machine.execRegisterWrite who off v s
  | .routeClassWrite router cls hi v => Sys2Proof.Machine.execRouteClassWrite router cls hi v s
  | .msgmaxWrite v => Sys2Proof.Machine.execMsgmaxWrite v s
  | .quantumWrite cluster v => Sys2Proof.Machine.execQuantumWrite cluster v s
  | .quantumExpiry cluster => Sys2Proof.Machine.execQuantumExpiry cluster s
  | .tagWrite t word v => Sys2Proof.Machine.execTagWrite t word v s
  | .ownershipWrite isCluster n v => Sys2Proof.Machine.execOwnershipWrite isCluster n v s
  | .bankmodeWrite cluster v => Sys2Proof.Machine.execBankmodeWrite cluster v s
  | .bankSwitchDone cluster bank => Sys2Proof.Machine.execBankSwitchDone cluster bank s
  | .clflagsclrWrite cluster v => Sys2Proof.Machine.execClflagsclrWrite cluster v s
  | .bind k v => Sys2Proof.Machine.execBind k v s
  | .bindCheckDone k => Sys2Proof.Machine.execBindCheckDone k s
  | .graphCancel k v => Sys2Proof.Machine.execGraphCancel k v s
  | .trigger k v => Sys2Proof.Machine.execTrigger k v s
  | .nodeDispatch shard => Sys2Proof.Machine.execNodeDispatch shard s
  | .tokenDelivery ix => Sys2Proof.Machine.execTokenDelivery ix s
  | .nodeBodyEnd ix => Sys2Proof.Machine.execNodeBodyEnd ix s
  | .nodeFault ix => Sys2Proof.Machine.execNodeFault ix s
  | .sweepVisit graph => Sys2Proof.Machine.execSweepVisit graph s
  | .runFinal graph => Sys2Proof.Machine.execRunFinal graph s
  | .completionRecordWrite => Sys2Proof.Machine.execCompletionRecordWrite s
  | .hostseqWrite v => Sys2Proof.Machine.execHostseqWrite v s
  | .go v => Sys2Proof.Machine.execGo v s
  | .functionLevelReset => Sys2Proof.Machine.execFunctionLevelReset s
  | .fundamentalReset => Sys2Proof.Machine.execFundamentalReset s
  | .bringupStage r => Sys2Proof.Machine.execBringupStage r s
  | .hostApertureAccess a => Sys2Proof.Machine.execHostApertureAccess a s
  | .stop v => Sys2Proof.Machine.execStop v s
  | .stopDelivery core => Sys2Proof.Machine.execStopDelivery core s
  | .walkerStop router => Sys2Proof.Machine.execWalkerStop router s
  | .stopComplete => Sys2Proof.Machine.execStopComplete s
  | .resume v => Sys2Proof.Machine.execResume v s
  | .resumeComplete => Sys2Proof.Machine.execResumeComplete s
  | .routerPacketArrival router ix => Sys2Proof.Machine.execRouterPacketArrival router ix s
  | .linkFlitReceive router ix r => Sys2Proof.Machine.execLinkFlitReceive router ix r s
  | .eventFlitArrival core ix => Sys2Proof.Machine.execEventFlitArrival core ix s
  | .vc4BufferDrain core => Sys2Proof.Machine.execVc4BufferDrain core s
  | .taskMessageArrival core ix => Sys2Proof.Machine.execTaskMessageArrival core ix s
  | .refuseNotice ix => Sys2Proof.Machine.execRefuseNotice ix s
  | .freeNotice ix => Sys2Proof.Machine.execFreeNotice ix s
  | .acceptance ix => Sys2Proof.Machine.execAcceptance ix s
  | .replyDelivery core ix => Sys2Proof.Machine.execReplyDelivery core ix s
  | .slotFree core engine => Sys2Proof.Machine.execSlotFree core engine s
  | .watchNoticeArrival ix => Sys2Proof.Machine.execWatchNoticeArrival ix s
  | .trapHandoff core => Sys2Proof.Machine.execTrapHandoff core s
  | .coprocRaise core => Sys2Proof.Machine.execCoprocRaise core s
  | .budgetExpiry core slot => Sys2Proof.Machine.execBudgetExpiry core slot s
  | .waitLimitExpiry core slot => Sys2Proof.Machine.execWaitLimitExpiry core slot s
  | .pauseEnd core slot => Sys2Proof.Machine.execPauseEnd core slot s
  | .engineGrant core => Sys2Proof.Machine.execEngineGrant core s
  | .engineRetire core seq => Sys2Proof.Machine.execEngineRetire core seq s
  | .scanFlitAccepted core => Sys2Proof.Machine.execScanFlitAccepted core s
  | .loadResponse id ext => Sys2Proof.Machine.execLoadResponse id ext s
  | .pageWalkDone id => Sys2Proof.Machine.execPageWalkDone id s
  | .sliceRequest op => Sys2Proof.Machine.execSliceRequest op s
  | .feQueueService key => Sys2Proof.Machine.execFeQueueService key s
  | .fifoPortWake cluster bank => Sys2Proof.Machine.execFifoPortWake cluster bank s
  | .copyExecute id m => Sys2Proof.Machine.execCopyExecute id m s
  | .indirectCopyChunk copy => Sys2Proof.Machine.execIndirectCopyChunk copy s
  | .batchFinish core slot => Sys2Proof.Machine.execBatchFinish core slot s
  | .barrierGenComplete t => Sys2Proof.Machine.execBarrierGenComplete t s
  | .barrierRelease t => Sys2Proof.Machine.execBarrierRelease t s
  | .barrierFlitSend t pkg => Sys2Proof.Machine.execBarrierFlitSend t pkg s
  | .barrierFlitArrival flit => Sys2Proof.Machine.execBarrierFlitArrival flit s
  | .launchRequest ix => Sys2Proof.Machine.execLaunchRequest ix s
  | .walkerLoadDone inst => Sys2Proof.Machine.execWalkerLoadDone inst s
  | .walkerDispatch inst => Sys2Proof.Machine.execWalkerDispatch inst s
  | .splitServe ix => Sys2Proof.Machine.execSplitServe ix s
  | .permitServe ix => Sys2Proof.Machine.execPermitServe ix s
  | .walkerAnswer ix => Sys2Proof.Machine.execWalkerAnswer ix s
  | .graphAnswer ix => Sys2Proof.Machine.execGraphAnswer ix s
  | .footprintFetchDone inst tile => Sys2Proof.Machine.execFootprintFetchDone inst tile s
  | .tileStart core ix => Sys2Proof.Machine.execTileStart core ix s
  | .tileRetire inst tile => Sys2Proof.Machine.execTileRetire inst tile s
  | .walkerFault inst tile => Sys2Proof.Machine.execWalkerFault inst tile s
  | .launchCancel inst => Sys2Proof.Machine.execLaunchCancel inst s
  | .partDone inst => Sys2Proof.Machine.execPartDone inst s
  | .doneMessageArrival ix => Sys2Proof.Machine.execDoneMessageArrival ix s
  | .wioloFrameReceive port f => Sys2Proof.Machine.execWioloFrameReceive port f s
  | .wioloFrameResend port => Sys2Proof.Machine.execWioloFrameResend port s
  | .wioloLinkLoss port => Sys2Proof.Machine.execWioloLinkLoss port s
  | .wioloRetrainDone locked => Sys2Proof.Machine.execWioloRetrainDone locked s
  | .softErrorDetect e => Sys2Proof.Machine.execSoftErrorDetect e s
  | .sensorRead die sense => Sys2Proof.Machine.execSensorRead die sense s
  | .overcurrentReport => Sys2Proof.Machine.execOvercurrentReport s
  | .overcurrentClear => Sys2Proof.Machine.execOvercurrentClear s
  | .pollPeriod => Sys2Proof.Machine.execPollPeriod s
  | .mctpPacketArrival bytes => Sys2Proof.Machine.execMctpPacketArrival bytes s
  | .serviceHandlerStart => Sys2Proof.Machine.execServiceHandlerStart s
  | .spdmRequest r => Sys2Proof.Machine.execSpdmRequest r s
  | .mgmtCoreReset => Sys2Proof.Machine.execMgmtCoreReset s
  | .writeAcknowledgement id => Sys2Proof.Machine.execWriteAcknowledgement id s
  | .tlbinvComplete core => Sys2Proof.Machine.execTlbinvComplete core s
  | .packetAccepted core slot => Sys2Proof.Machine.execPacketAccepted core slot s
  | .barrierTreeApply => Sys2Proof.Machine.execBarrierTreeApply s
  | .illegal w => Sys2Proof.Machine.execIllegal w s
  | .fetchFault => Sys2Proof.Machine.execFetchFault s
  | .pcieLinkLoss => Sys2Proof.Machine.execPcieLinkLoss s
  | .pcieLinkUp => Sys2Proof.Machine.execPcieLinkUp s

end Sys2Proof.Machine
end

