-- ==== Sys2Proof/Machine/Issue.lean ====
section
/-!
DEFINITION. Issue: which contexts are ready, the arbitration of R98, throttling (R307), and what a context that issues
does: a trap pending at its boundary, a fetch that fails, or the word at its PC (R273, R330).
-/

namespace Sys2Proof.Machine

/-! ### Readiness (R84, R98) -/

/-- A cluster at step k issues in no cycle whose CYCLE mod 8 is below k (R307); the management core is not throttled. -/
def throttled (s : State) (c : Nat) : Bool :=
  c ≠ mgmtCore && s.cycle.toNat % 8 < (s.cluster (clusterOf c)).step

/-- Context k of core c has an instruction to issue, in a cycle that throttling leaves to its core (R98, R307). A context
whose access to another package is unanswered is stalled (R175); so is one whose packet the interface has not accepted
(R366), and one whose JOIN is on its way (R439). -/
def State.ready (s : State) (c k : Nat) : Bool :=
  let x := s.core c
  let y := x.ctx k
  y.occupied && !y.frozen && !x.halted && !x.stopped && !throttled s c && !(k == 7 && x.parked) && y.pauseLeft == 0 &&
    !y.stalled &&
    !asleep x y && !(y.await.isSome && y.answer.isNone) && y.sending.isNone && !y.joining

/-! ### Arbitration (R98) -/

/-- The first number of the list in round-robin order after `last`. -/
def roundRobin (last : Nat) (l : List Nat) : Option Nat :=
  match l.find? (last < ·) with
  | some k => some k
  | none => l.head?

/-- The ready slots of 0 to 6. -/
def readySlots (s : State) (c : Nat) : List Nat := [0, 1, 2, 3, 4, 5, 6].filter (s.ready c)

/-- The slot a core chooses: slot 7; else one bypassed 256 times; else the lowest PRIO, round-robin (R98). The position
keys are 0 to 3 for the levels and 4 for the bypassed. -/
def chooseSlot (s : State) (c : Nat) : Option Nat :=
  let x := s.core c
  let ready := readySlots s c
  if s.ready c 7 then some 7
  else
    match roundRobin (fget x.rr 6 4) (ready.filter fun k => 256 ≤ (x.ctx k).bypass) with
    | some k => some k
    | none =>
      [0, 1, 2, 3].findSome? fun p => roundRobin (fget x.rr 6 p) (ready.filter fun k => (x.ctx k).prio.toNat == p)

/-- The key of the position that a choice of slot k moves (R98). -/
def choiceKey (s : State) (c k : Nat) : Nat :=
  if 256 ≤ (s.ctxAt c k).bypass then 4 else (s.ctxAt c k).prio.toNat

/-- What a choice does to the positions and the bypass counts (R98): `ready` were the ready slots and `key` the position
that moves. Slot 7's issues count for nothing. -/
def countChoice (ready : List Nat) (key : Nat) (s : State) (c k : Nat) : State :=
  if k = 7 then s
  else
    s.modCore c fun x =>
      { x with
        rr := fset x.rr 6 key k
        slots := ([0, 1, 2, 3, 4, 5, 6].foldl (fun y j =>
          y.modCtx j fun z => { z with bypass := if j ≠ k && ready.contains j then z.bypass + 1 else 0 }) x).slots }

/-! ### What a chosen context does (R273, R330) -/

/-- What a context that issues is to do. -/
inductive Pick where
  /-- the context is not ready -/
  | stop
  /-- a trap of the boundary, a word that is no instruction, or a fetch that fails or waits -/
  | done (r : Result)
  /-- the instruction at its PC -/
  | run (i : Instr)

/-- The state in which context k of core c issues. -/
def issuing (s : State) (c k : Nat) : State := { s with cur := (c, k) }

/-- Fetch of the issuing context: the fetch checks, the fetch watchpoints, the decoded word (R169, R287, R288, R329, R330). -/
def fetchPick (s : State) : Pick :=
  let pc := s.ctx.pc
  match fetchWord s s.cur.1 s.cur.2 pc with
  | .fault _ _ _ => .done (execFetchFault s)
  | .miss => .done (stall (postWalk s s.cur.1 s.cur.2 pc))
  | .busy => .done (stall s)
  | .word w =>
    match watchHit s 3 pc 4 with
    | some i => .done (trap .watch pc (BitVec.ofNat 64 (i + 12)) s)
    | none =>
      match decode w with
      | .ok i => .run i
      | .error _ => .done (execIllegal w s)

/-- What the issuing context does: at its boundary a pending COPROC, BUDGET or GRAPH in this order, then its fetch (R273).
An instruction that goes on with its answer is not at a boundary (R175); a fault that came as the answer while the core was
stopped is raised now (R283), or where another trap stands at the boundary the instruction asks again after it. -/
def pickOf (s : State) : Pick :=
  let c := s.cur.1
  let k := s.cur.2
  let x := s.ctx
  match x.answerErr with
  | some (cause, va) =>
    .done (if othersPend s c k then .next (s.modCtx Ctx.askAgain) else trap cause va 0 s)
  | none =>
  if x.answer.isSome then fetchPick s
  else if coprocPends s c k then .done (execCoprocRaise (BitVec.ofNat 12 c) s)
  else if budgetSpent s c k then .done (execBudgetExpiry (BitVec.ofNat 12 c) (BitVec.ofNat 3 k) s)
  else
    match x.graphTrap with
    | some node => .done (.next (graphAt s c k node))
    | none => fetchPick s

/-- What context k of core c is to do when it issues. -/
def prepare (s : State) (c k : Nat) : Pick := if s.ready c k then pickOf (issuing s c k) else .stop

/-- The context has stalled, or waits for space in the dispatch queue: it is not ready (R98, R241). -/
def Ctx.notReady (x : Ctx) : Bool := x.stalled || (x.wait.map (·.kind)) == some .queue

/-- The attempt to issue finds that the context waits for a lock, an answer, a translation or room, and is not ready (R98). -/
def stalls (c k : Nat) : Result → Bool
  | .next t => (t.ctxAt c k).notReady
  | .fault _ | .refused _ => false

/-- What an attempt of context k of core c to issue answers, `run` being what an instruction does; none where the context is not
ready. -/
def attempt (run : Instr → State → Result) (s : State) (c k : Nat) : Option Result :=
  match prepare s c k with
  | .stop => none
  | .done r => some r
  | .run i => some (run i (issuing s c k))

/-- The slots of 0 to 6 that are ready: an instruction of theirs would issue in this cycle (R98). -/
def issuable (run : Instr → State → Result) (s : State) (c : Nat) : List Nat :=
  (readySlots s c).filter fun k =>
    match attempt run s c k with
    | some r => !stalls c k r
    | none => false

/-- The merge of the fetch at a context's PC in s with an outstanding CONST read is counted (R76). -/
def fetchMerged (s : State) (c k : Nat) (t : State) : State :=
  match fetchPlace s c k (s.ctxAt c k).pc with
  | .ok p => t.merged p
  | _ => t

/-- The bookkeeping of an issue: a context that has stalled has not issued, and its core chooses another in this cycle;
else the choice among the ready slots is counted, with a merge of its fetch, and the core is done for the cycle (R76, R98). -/
def accountIssue (ready : List Nat) (s : State) (c k : Nat) (r : Result) : Result :=
  match r with
  | .next t =>
    .next (if (t.ctxAt c k).notReady then t
      else countChoice ready (choiceKey s c k) { fetchMerged s c k t with turn := c + 1 } c k)
  | .fault f => .fault f
  | .refused r => .refused r

end Sys2Proof.Machine
end

