-- ==== Sys2Proof/Machine/Schedule.lean ====
section
/-!
DEFINITION. The clock, and the default order in which an empty agenda lets the machine move (log 4): the first step of the
hardware that changes the state, else a ready context issues, else the clock advances. What comes from outside the package
(the host, sensors, soft errors, frames of other packages) never happens by itself.
-/

namespace Sys2Proof.Machine

/-! ### One cycle (log 5) -/

/-- A cycle of a context: its stall ends, and what counts cycles counts one (R99, R286, R396). -/
def tickCtx (c k : Nat) (y : Ctx) : Ctx :=
  if !y.occupied then y
  else
    { y with
      stalled := false
      bypass := if y.stalled then 0 else y.bypass
      pauseLeft := if 1 < y.pauseLeft then y.pauseLeft - 1 else y.pauseLeft
      tbudget := if y.frozen || k = 7 || c = mgmtCore || y.tbudget = 0 then y.tbudget else y.tbudget - 1
      wait := if y.frozen then y.wait
        else y.wait.map fun (w : Wait) => if w.redo then w else { w with left := w.left - 1 } }

/-- A cycle of a core; nothing counts on a stopped one (R282). -/
def tickCore (c : Nat) (x : Core) : Core :=
  if x.stopped then x else (x.slots.map (·.1)).foldl (fun x k => x.modCtx k (tickCtx c k)) x

/-- The steps of R307 are taken at the start of an aligned window of 8 cycles. -/
def latchSteps (s : State) : State :=
  if s.cycle.toNat % 8 = 0 then
    (List.range 256).foldl (fun (t : State) n => t.modCluster n fun x => { x with step := clusterStep s n }) s
  else s

/-- A cycle of a Wiolo port: HELDCYC counts the cycles out of UP (Table 3-11). -/
def tickPort (s : State) (p : Nat) : State :=
  let x := fget s.wioloPorts {} p
  if x.state = 2 then s else { s with wioloPorts := fset s.wioloPorts {} p { x with heldcyc := x.heldcyc + 1 } }

/-- What the memory system and the Ephemeris settle in a cycle: releases that ended tasks left behind are complete (R202), and a
stopped Ephemeris keeps what has reached it (R163). -/
def settleCycle (s : State) : State :=
  let s : State := { s with owed := s.owed.filter fun o => !owedDone s o }
  if ephRuns s then s else keepEvents s

/-- The clock advances by one cycle. -/
def tick (s : State) : State :=
  let s := settleCycle s
  let s : State := { s with cycle := s.cycle + 1, turn := 0 }
  let s := (s.cores.map (·.1)).foldl (fun (t : State) c => t.modCore c (tickCore c)) s
  let s := (s.clusters.map (·.1)).foldl (fun (t : State) n =>
    t.modCluster n fun x =>
      { x with newFlags := 0
               qcount := if x.qcyc = 0 then x.qcount else x.qcount - 1
               oldQuanta := x.oldQuanta.map fun p => (p.1, p.2.1, p.2.2 - 1) }) s
  let s := (List.range 16).foldl tickPort s
  let s := if s.mgmt.mperiod = 0 then s else { s with mgmt := { s.mgmt with pollCount := s.mgmt.pollCount + 1 } }
  latchSteps s

/-! ### The steps that the hardware may make -/

/-- The oldest notice on its way, and the barrier tree. -/
def treeSteps (s : State) : List (State → Result) :=
  [execMgmtCoreReset, execAcceptance 0, execRefuseNotice 0, execFreeNotice 0, execWatchNoticeArrival 0,
    execBarrierTreeApply] ++
  [0, 1, 2, 3, 4, 5, 6, 7].flatMap fun t =>
    [execBarrierGenComplete (BitVec.ofNat 3 t), execBarrierRelease (BitVec.ofNat 3 t)] ++
      (otherPkgs s (s.tag t)).map fun p => execBarrierFlitSend (BitVec.ofNat 3 t) (BitVec.ofNat 10 p)

/-- What may happen at a slot of a core. -/
def slotSteps (c k : Nat) : List (State → Result) :=
  [execPacketAccepted (BitVec.ofNat 13 c) (BitVec.ofNat 3 k), execPauseEnd (BitVec.ofNat 13 c) (BitVec.ofNat 3 k),
    execWaitLimitExpiry (BitVec.ofNat 13 c) (BitVec.ofNat 3 k), execBatchFinish (BitVec.ofNat 13 c) (BitVec.ofNat 3 k)] ++
  if c = mgmtCore then [] else [execBudgetExpiry (BitVec.ofNat 12 c) (BitVec.ofNat 3 k)]

/-- What may happen at a compute core alone. -/
def computeSteps (c : Nat) (x : Core) : List (State → Result) :=
  let b := BitVec.ofNat 12 c
  [execSlotFree b true, execSlotFree b false] ++
  ((List.range x.arrivals.length).flatMap fun i =>
    [execEventFlitArrival b i, execTaskMessageArrival b i, execReplyDelivery b i]) ++
  [execVc4BufferDrain b, execTileStart b 0, execEngineGrant b, execScanFlitAccepted b, execCoprocRaise b] ++
  x.engine.running.map fun (e : Entry) => execEngineRetire b e.seq

/-- What may happen at a core. -/
def coreSteps (c : Nat) (x : Core) : List (State → Result) :=
  [execTrapHandoff (BitVec.ofNat 13 c), execTlbinvComplete (BitVec.ofNat 13 c)] ++
  (if c = mgmtCore then [] else computeSteps c x) ++ (x.slots.map (·.1)).flatMap (slotSteps c)

/-- A release by a context of the cluster, or one that an ended task left, waits for its dirty lines (R202): they are written
back. -/
def releasing (s : State) (n : Nat) : Bool :=
  (s.cores.any fun p => p.1 ≠ mgmtCore && clusterOf p.1 == n && p.2.slots.any fun y => y.2.releasing.isSome) ||
    s.owed.any fun o => o.core ≠ mgmtCore && clusterOf o.core == n

/-- What may happen at a cluster. -/
def clusterSteps (s : State) (n : Nat) (x : Cluster) : List (State → Result) :=
  [execQuantumExpiry (BitVec.ofNat 8 n)] ++
  (x.banks.flatMap fun b =>
    [execBankSwitchDone (BitVec.ofNat 8 n) (BitVec.ofNat 4 b.1), execFifoPortWake (BitVec.ofNat 8 n) (BitVec.ofNat 4 b.1)]) ++
  if releasing s n then x.lines.map fun l => execSliceRequest (.writeBack n l.1) else []

/-- What may happen to a posted access; the answers of other packages come from outside. -/
def reqSteps (r : Req) : List (State → Result) :=
  match r.place with
  | .other _ _ _ => []
  | _ => [execSliceRequest (.access r.id), execLoadResponse r.id (.data 0 false), execWriteAcknowledgement r.id]

/-- What may happen to the accesses, walks, full-empty queues and copies. A copy moves by at most 16 words at a time. -/
def memSteps (m : Mem) : List (State → Result) :=
  m.reqs.flatMap reqSteps ++ m.walks.map (fun (w : Walk) => execPageWalkDone w.id) ++
  m.feq.map (fun q => execFeQueueService q.1) ++
  m.copies.flatMap fun (x : Copy) => [execCopyExecute x.id (.run 16), execIndirectCopyChunk { work := x.id }]

/-- What may happen at a router: its oldest packets move. -/
def routerSteps (r : Nat) (x : Router) : List (State → Result) :=
  (List.range x.inq.length).map (fun i => execRouterPacketArrival (BitVec.ofNat 6 r) i) ++
  (List.range x.outq.length).map fun i => execLinkFlitReceive (BitVec.ofNat 6 r) i []

/-- What may happen at a walker slot. -/
def instanceSteps (inst : BitVec 16) (w : Walker) : List (State → Result) :=
  [execLaunchCancel inst, execWalkerLoadDone inst, execWalkerDispatch inst] ++
    (w.tiles.flatMap fun (t : Tile) =>
      [execFootprintFetchDone inst { work := t.index }, execTileRetire inst { work := t.index },
       execWalkerFault inst t.index]) ++
    [execPartDone inst]

/-- What may happen at the walkers: requests to launch, then the decisions to dispatch, then splits, then permits (R129, R130,
R435), and the messages between walkers. -/
def walkerSteps (s : State) : List (State → Result) :=
  let reqs := List.range s.wreqs.length
  reqs.map execLaunchRequest ++ s.walkers.flatMap (fun p => instanceSteps (s.inst p.1) p.2) ++
    reqs.map execSplitServe ++ reqs.map execPermitServe ++
    (if s.answers.isEmpty then [] else [execWalkerAnswer 0]) ++ (List.range s.dones.length).map execDoneMessageArrival

/-- What may happen at the Ephemeris and the completion queue. -/
def ephSteps (s : State) : List (State → Result) :=
  (List.range s.eph.tokens.length).map (fun i => execTokenDelivery i) ++
  (List.range s.eph.faults.length).map execNodeFault ++ (List.range s.eph.ends.length).map execNodeBodyEnd ++
  [execGraphAnswer 0] ++
  (s.eph.bindings.flatMap fun b =>
    [execBindCheckDone (BitVec.ofNat 15 b.1), execSweepVisit b.2.graph.toNat, execRunFinal b.2.graph.toNat]) ++
  (List.range 16).map (fun i => execNodeDispatch (BitVec.ofNat 4 i)) ++ [execCompletionRecordWrite]

/-- What may happen at the stop control and the management core. -/
def controlSteps (s : State) : List (State → Result) :=
  (if s.stop.phase = 1 then
    (List.range 4096).map (fun c => execStopDelivery (BitVec.ofNat 12 c)) ++
    (List.range 64).map (fun r => execWalkerStop (BitVec.ofNat 6 r)) ++ [execStopComplete]
   else [execResumeComplete]) ++
  [execPollPeriod, execOvercurrentClear, execServiceHandlerStart]

/-- Every step that the hardware may make by itself, in the order in which the default order tries them. -/
def hardwareSteps (s : State) : List (State → Result) :=
  treeSteps s ++ s.cores.flatMap (fun p => coreSteps p.1 p.2) ++
  (if s.cores.any (·.1 == mgmtCore) then [] else coreSteps mgmtCore mgmtCoreReset) ++
  s.clusters.flatMap (fun p => clusterSteps s p.1 p.2) ++ memSteps s.mem ++
  s.routers.flatMap (fun p => routerSteps p.1 p.2) ++ walkerSteps s ++ ephSteps s ++ controlSteps s

/-- The first state of the list of steps that differs from s. -/
def firstChange (s : State) : List (State → Result) → Option State
  | [] => none
  | f :: rest =>
    match f s with
    | .next t => if t = s then firstChange s rest else some t
    | _ => firstChange s rest

/-- The next context that issues in this cycle: of the lowest core not yet served (R98). -/
def nextIssue (s : State) : Option (Nat × Nat) :=
  (s.cores.map (·.1)).findSome? fun c =>
    if c < s.turn then none else (chooseSlot s c).map fun k => (c, k)

end Sys2Proof.Machine
end

