-- ==== Sys2Proof/Machine/Step.lean ====
section
/-!
DEFINITION. The step: the agenda's first move, or, with an empty agenda, the move of the default order (log 4). And how the
host places an instruction where the next step runs it (log 8).
-/

namespace Sys2Proof.Machine

/-- The instruction is a step of the hardware, not a word that a context fetches. -/
def hardwareEvent (i : Instr) : Bool :=
  match i with
  | .illegal _ => false
  | .fetchFault => false
  | i => (encode i).isNone

/-- Context k of core c issues (R98, R273). -/
def issue (s : State) (c k : Nat) : Host.Outcome State Fault Refusal :=
  match prepare s c k with
  | .stop => .fault .notReady
  | .done r => accountIssue (issuable exec s c) s c k r
  | .run i => accountIssue (issuable exec s c) s c k (exec i (issuing s c k))

/-- One move. -/
def runMove (m : Move) (s : State) : Host.Outcome State Fault Refusal :=
  match m with
  | .issue c k => issue s c k
  | .event i => if hardwareEvent i then exec i s else .fault .notReady
  | .tick => .next (tick s)

/-- The move of the default order. -/
def defaultStep (s : State) : Host.Outcome State Fault Refusal :=
  match firstChange s (hardwareSteps s) with
  | some t => .next t
  | none =>
    match nextIssue s with
    | some (c, k) => issue s c k
    | none => .next (tick s)

/-- The step of the machine. -/
def step (s : State) : Host.Outcome State Fault Refusal :=
  match s.agenda with
  | [] => defaultStep s
  | m :: rest => runMove m { s with agenda := rest }

/-- The word is of a form that only slot 0 issues (R84): majors 0x20 to 0x2C, and EVPOPV. -/
def slot0Word (w : IWord) : Bool :=
  match decode w with
  | .ok (.evpopv _ _) => true
  | _ => 0x20 ≤ (w.extractLsb' 26 6).toNat && (w.extractLsb' 26 6).toNat ≤ 0x2C

/-- The state with an instruction's word at address 0 of core 64's local SRAM, where the next step issues it: from slot 0
for the forms of that slot, else from slot 7 (log 8). -/
def State.withFetchWord (s : State) (nbits w : Nat) : State :=
  let word : IWord := BitVec.ofNat 32 (w % 2 ^ nbits)
  let k := if slot0Word word then 0 else 7
  let s := s.modMem fun m => { m.write (keySram 64 0) 4 word.toNat with ownCore := fset m.ownCore 0 64 0xA000 }
  { s.modCtxAt 64 k (fun _ => { occupied := true, tbudget := 0xFFFFFFFF }) with agenda := [.issue 64 k] }

end Sys2Proof.Machine
end

