-- ==== Sys2Proof/Safety.lean ====
section
/-!
DEFINITION. The terms in which claims speak of the machine: what a step or an instruction leaves unchanged (frames), when
no locked register holds an instruction up, what a completed instruction and a trap leave, and runs that never stop.
-/

namespace Sys2Proof.Machine

/-! ### Runs -/

/-- The machine moves from s to t. -/
def Steps (s t : State) : Prop := step s = .next t

/-- t is reached from s by steps. -/
inductive Reaches (s : State) : State → Prop where
  | refl : Reaches s s
  | tail {t u : State} : Reaches s t → Steps t u → Reaches s u

/-- No run from s stops: every state it reaches has a next one. -/
def NeverStops (s : State) : Prop := ∀ t, Reaches s t → ∃ u, Steps t u

/-- An invariant: every step keeps it. -/
def Kept (inv : State → Prop) : Prop := ∀ s t, inv s → Steps s t → inv t

/-! ### Frames -/

/-- Outside the contexts of the core c nothing differs: no unit, no other core, no byte of memory. -/
structure OnlyContextsOf (c : Nat) (s t : State) : Prop where
  package : { t with cores := [] } = { s with cores := [] }
  core : { t.core c with slots := [] } = { s.core c with slots := [] }
  others : ∀ d, d ≠ c → t.core d = s.core d

/-- Nothing but context k of core c differs. -/
structure OnlyContext (c k : Nat) (s t : State) : Prop extends OnlyContextsOf c s t where
  slots : ∀ j, j ≠ k → t.ctxAt c j = s.ctxAt c j

/-- Nothing but the issuing context differs. -/
def Alone (s t : State) : Prop := OnlyContext s.cur.1 s.cur.2 s t

/-- Nothing but the issuing context and the memory with the accesses in flight differs. -/
def AloneBut (mem : Mem) (s t : State) : Prop := t.mem = mem ∧ Alone { s with mem := mem } t

/-- A context without its general registers and their tags, its PC, INSTRET, and what the completion of its instruction
ends. -/
def Ctx.base (x : Ctx) : Ctx :=
  { x with
    g := [], gpsn := [], pc := 0, instret := 0, wait := none, barAwait := none, barResume := false, joining := false,
    await := none, answer := none, answerErr := none, asked := [], releasing := none, stalled := false, wskip := false }

/-- The instruction of context x is complete in y, which goes on at pc (R312, R332). -/
structure Completes (x y : Ctx) (pc : Word) : Prop where
  pc : y.pc = pc
  instret : y.instret = x.instret + 1
  wait : y.wait = none
  notStalled : y.stalled = false
  notAwaiting : y.await = none ∧ y.answer = none ∧ y.joining = false ∧ y.releasing = none

/-- Of the general registers only g[d] is written, with v and the tag p; g0 stays (R309). -/
def WritesReg (x y : Ctx) (d : Reg) (v : Word) (p : Bool) : Prop :=
  ∀ r, y.reg r = (if r = d ∧ r ≠ 0 then v else x.reg r) ∧ y.psn r = (if r = d ∧ r ≠ 0 then p else x.psn r)

/-- No general register is written. -/
def KeepsRegs (x y : Ctx) : Prop := ∀ r, y.reg r = x.reg r ∧ y.psn r = x.psn r

/-! ### When an instruction executes -/

/-- None of the registers it writes (w) or reads (r) is locked, nor is one it writes a source of an unretired MMA or MMAS
(R35, R128, R244, R384). -/
structure Unlocked (s : State) (w r : List Reg) : Prop where
  locks : s.ctx.anyLocked (w ++ r) = false
  sources : w.any s.writeLocked = false

/-- The instruction of s is complete in t at pc; no register is written and nothing but the issuing context differs. -/
def GoesTo (s t : State) (pc : Word) : Prop :=
  Alone s t ∧ t.ctx.base = s.ctx.base ∧ Completes s.ctx t.ctx pc ∧ KeepsRegs s.ctx t.ctx

/-- With no lock in its way the instruction completes, writes g[d] with v and the OR of its sources' tags, and changes
nothing else (R342). -/
def Computes (i : Instr) (d : Reg) (srcs : List Reg) (v : Ctx → Word) : Prop :=
  ∀ s, Unlocked s [d] srcs → ∃ t, exec i s = .next t ∧ Alone s t ∧ t.ctx.base = s.ctx.base ∧
    Completes s.ctx t.ctx (s.ctx.pc + 4) ∧ WritesReg s.ctx t.ctx d (v s.ctx) (srcs.any s.ctx.psn)

/-- The instruction completes at the next word and writes no register; beside its context the machine is as in u. -/
def EndsAs (i : Instr) (s u : State) : Prop :=
  ∃ t, exec i s = .next t ∧ Alone u t ∧ t.ctx.base = u.ctx.base ∧ Completes s.ctx t.ctx (s.ctx.pc + 4) ∧
    KeepsRegs s.ctx t.ctx

/-- The instruction completes at the next word and writes g[d] with v and the tag p; beside its context the machine is as
in u. -/
def WritesAs (i : Instr) (s u : State) (d : Reg) (v : Word) (p : Bool) : Prop :=
  ∃ t, exec i s = .next t ∧ Alone u t ∧ t.ctx.base = u.ctx.base ∧ Completes s.ctx t.ctx (s.ctx.pc + 4) ∧
    WritesReg s.ctx t.ctx d v p

/-- With no lock in its way the instruction completes and writes g[d] with the zero-extended bits and the OR of its sources'
tags; the flags are raised in FFLAGS and, on a compute core, in the cluster's CLFLAGS, in the instruction's own step, where R230
gives CLFLAGS up to 16 cycles (log 23: the model's choice); nothing else changes (R342, R228, R230). -/
def ComputesFloat (i : Instr) (d : Reg) (srcs : List Reg) (v : Ctx → Nat × Flags) : Prop :=
  ∀ s, Unlocked s [d] srcs → ∃ t, exec i s = .next t ∧ Alone { s with clusters := t.clusters } t ∧
    t.ctx.base = { s.ctx.base with fflags := s.ctx.fflags ||| (v s.ctx).2 } ∧
    (∀ n, t.cluster n = if n = clusterOf s.cur.1 ∧ s.cur.1 ≠ mgmtCore then
      { s.cluster n with clflags := (s.cluster n).clflags ||| (v s.ctx).2
                         newFlags := (s.cluster n).newFlags ||| (v s.ctx).2 } else s.cluster n) ∧
    Completes s.ctx t.ctx (s.ctx.pc + 4) ∧
    WritesReg s.ctx t.ctx d (BitVec.ofNat 64 (v s.ctx).1) (srcs.any s.ctx.psn)

/-- A two-operand form of Table 15-1 (R372). -/
def ComputesArith (i : Reg → Reg → Reg → FFmt → Rm → Instr) (op : FpFmt → RMode → Fp → Fp → Nat × Flags) : Prop :=
  ∀ d a b f r, ComputesFloat (i d a b f r) d [a, b] fun x =>
    op (fmtOf f) (rmMode r x.frm) (operand (fmtOf f) (x.reg a)) (operand (fmtOf f) (x.reg b))

/-- A fused form of Table 15-3, its product and its addend negated or not (R378). -/
def ComputesFused (i : Reg → Reg → Reg → Reg → Bool → Rm → Instr) (negProd negAdd : Bool) : Prop :=
  ∀ d a b c w r, ComputesFloat (i d a b c w r) d [a, b, c] fun x =>
    let f := if w then fp64 else fp32
    let x' := operand f (x.reg a)
    let z := operand f (x.reg c)
    fpFma f (rmMode r x.frm) (if negProd then x'.negate else x') (operand f (x.reg b)) (if negAdd then z.negate else z)

/-- A comparison: a NaN gives 0, with NV unless the form is quiet and the NaN is (R377, R227). -/
def ComputesTest (i : Reg → Reg → Reg → FFmt → Instr) (quiet : Bool) (ok : Ordering → Bool) : Prop :=
  ∀ d a b f, ComputesFloat (i d a b f) d [a, b] fun c =>
    let x := operand (fmtOf f) (c.reg a)
    let y := operand (fmtOf f) (c.reg b)
    if x.isNan || y.isNan then (0, if quiet && !(x.isSnan || y.isSnan) then 0 else flagNV)
    else (if ok (fpCmp x y) then 1 else 0, 0)

/-- A minimum or maximum: the operand that is no NaN; the canonical NaN for two NaNs (R379, R227). -/
def ComputesExtreme (i : Reg → Reg → Reg → FFmt → Instr) (isMax : Bool) : Prop :=
  ∀ d a b f, ComputesFloat (i d a b f) d [a, b] fun c =>
    let u := operandBits (fmtOf f) (c.reg a)
    let v := operandBits (fmtOf f) (c.reg b)
    let x := unpack (fmtOf f) u
    let y := unpack (fmtOf f) v
    let fl := if x.isSnan || y.isSnan then flagNV else 0
    if x.isNan then (if y.isNan then ((fmtOf f).nan, fl) else (v, fl))
    else if y.isNan then (u, fl) else fpMinMax (fmtOf f) isMax u v

/-- A branch whose operands are clean goes to its target where the condition holds and to the next word otherwise, and
changes nothing else (R350). -/
def BranchesOn (i : Reg → Reg → BitVec 16 → Instr) (taken : Word → Word → Bool) : Prop :=
  ∀ a b k s, Unlocked s [] [a, b] → s.ctx.psn a = false → s.ctx.psn b = false → ∃ t, exec (i a b k) s = .next t ∧
    GoesTo s t (if taken (s.ctx.reg a) (s.ctx.reg b) then s.ctx.pc + k.signExtend 64 * 4 else s.ctx.pc + 4)

/-! ### Rounding (R216, R222, R225, R228) -/

/-- The place of a below another rational, at it or above it. -/
def ordOf (a b : Rat) : Ordering := if a < b then .lt else if a = b then .eq else .gt

/-- The rational that a finite value is. -/
def Fp.toRat : Fp → Rat
  | .fin n m e => (if n then -1 else 1) * m * 2 ^ e
  | .nan _ | .inf _ => 0

/-- The magnitude that the exponent and mantissa bits b of a format stand for, where exponents go on beyond the format's
(R216). -/
def FpFmt.magnitude (f : FpFmt) (b : Nat) : Rat :=
  if b < 2 ^ f.mb then (b : Rat) * 2 ^ (1 - f.bias - f.mb)
  else ((2 ^ f.mb + b % 2 ^ f.mb : Nat) : Rat) * 2 ^ ((b / 2 ^ f.mb : Nat) - f.bias - f.mb)

/-- Of the neighbours lo and hi of a magnitude between them, hi is taken (Table 9-4): cmp places a rational against the
magnitude, neg is the result's sign, odd the last bit of lo. -/
def RMode.takesUpper (r : RMode) (neg odd : Bool) (lo hi : Rat) (cmp : Rat → Ordering) : Bool :=
  cmp lo != .eq && match r with
    | .rne => cmp ((lo + hi) / 2) == .lt || (cmp ((lo + hi) / 2) == .eq && odd)
    | .rna => cmp ((lo + hi) / 2) != .gt
    | .rtz => false
    | .rtp => !neg
    | .rtn => neg

/-- A magnitude is tiny: rounded to the format's precision with unbounded exponents it is not 0 and below the smallest normal
(R228). -/
def FpFmt.isTiny (f : FpFmt) (r : RMode) (neg : Bool) (cmp : Rat → Ordering) : Bool :=
  let normal : Rat := 2 ^ (1 - f.bias)
  let below : Rat := normal - 2 ^ (-f.bias - f.mb)
  cmp 0 == .lt && cmp normal == .gt && (cmp below != .lt || !r.takesUpper neg true below normal cmp)

/-- res is the exact result of sign neg, whose magnitude cmp places, rounded once to the format, with its flags: b holds the
bits of the magnitude next below or at it (R222, R225, R228, R232). -/
def RoundsTo (f : FpFmt) (r : RMode) (neg : Bool) (cmp : Rat → Ordering) (res : Nat × Flags) : Prop :=
  ∃ b, cmp (f.magnitude b) ≠ .gt ∧ cmp (f.magnitude (b + 1)) = .gt ∧
    let c := if r.takesUpper neg (b % 2 == 1) (f.magnitude b) (f.magnitude (b + 1)) cmp then b + 1 else b
    let sign := if neg then f.signBit else 0
    let inexact := cmp (f.magnitude c) ≠ .eq
    res = if f.maxFinite < c then
        (sign + (if f.special = .ieee ∧ overflowsToInf r neg = true then f.inf else f.maxFinite), flagOF ||| flagNX)
      else (sign + c, (if inexact then flagNX else 0) ||| (if inexact ∧ f.isTiny r neg cmp = true then flagUF else 0))

/-- res is the rational x rounded once to the format; an exact zero has the sign zeroNeg. -/
def RoundsRat (f : FpFmt) (r : RMode) (x : Rat) (zeroNeg : Bool) (res : Nat × Flags) : Prop :=
  RoundsTo f r (if x = 0 then zeroNeg else decide (x < 0)) (fun y => ordOf y (if x < 0 then -x else x)) res

/-- The sign of an exact zero sum of terms of signs a and b (R225). -/
def zeroSign (r : RMode) (a b : Bool) : Bool := if a = b then a else r == .rtn

/-- res is the rational x rounded to an integer and clamped to the range from lo to hi (R231). -/
def RoundsToInt (lo hi : Int) (r : RMode) (x : Rat) (res : Int × Flags) : Prop :=
  let cmp (y : Rat) : Ordering := ordOf y (if x < 0 then -x else x)
  ∃ k : Nat, cmp k ≠ .gt ∧ cmp (k + 1) = .gt ∧
    let c := if r.takesUpper (decide (x < 0)) (k % 2 == 1) k (k + 1) cmp then k + 1 else k
    let v : Int := if x < 0 then -(c : Int) else c
    res = if v < lo then (lo, flagNV) else if hi < v then (hi, flagNV) else (v, if cmp c = .eq then 0 else flagNX)

/-! ### Accesses -/

/-- An access of n bytes at va by the issuing context passes the checks of Table 7-3 and reaches the place p, which no
watchpoint guards, and awaits no answer that it goes on with (R166 to R175, R288). -/
structure Accesses (s : State) (va : Word) (n : Nat) (need : Need) (p : Place) : Prop where
  place : resolve s s.agent va n need true false = .ok p
  allowed : p.userBarred s.isSuper = false
  unwatched : watchOf s need va n = none
  unanswered : s.answered = none

/-- The place is memory or a device register of this package, which posted accesses reach. -/
def Place.posts : Place → Bool
  | .sram _ _ _ | .scratch _ _ _ | .global _ _ _ | .host _ _ _ | .device _ => true
  | .fifo _ _ _ | .other _ _ _ => false

/-- Every byte of memory but the n from key k is as before. -/
def BytesKeptOutside (s t : State) (k n : Nat) : Prop := ∀ j, j < k ∨ k + n ≤ j → t.mem.byte j = s.mem.byte j

/-- Every byte of memory is as before. -/
def BytesKept (s t : State) : Prop := ∀ j, t.mem.byte j = s.mem.byte j

/-- The cache of cluster n0 holds the line of a package offset, or its set has a way that holds none: a fill displaces no
line (R179). -/
def HasRoom (s : State) (n0 off : Nat) : Prop :=
  ((s.cluster n0).line off).isSome = true ∨ (s.cluster n0).emptyWays off ≠ []

/-- The byte at home of a package offset: of a host-aperture line that is not NC the slice's where the slice holds it (R181). -/
def homeByte (s : State) (off : Nat) (nc : Bool) : Byte :=
  s.mem.byte (if isAper off && !nc && (s.mem.aperPresent off).getLsbD (off % 128) then keyAper off else s.homeKey off true)

/-- A read of the place meets no CONST read that it could merge into, and no slice between it and its bytes (R76, R181). -/
def Place.direct : Place → Bool
  | .sram _ _ _ | .scratch _ _ _ => true
  | .global _ _ const => !const
  | .host _ nc const => nc && !const
  | .fifo _ _ _ | .device _ | .other _ _ _ => false

/-- The posted access that the issuing context makes (R384, R406), with the port by which one to another package leaves
(R80). -/
def postedBy (s : State) (va : Word) (p : Place) (n : Nat) (store : Bool) (data : Word) (psn : Bool) (d : Reg)
    (signed : Bool) : Req :=
  { id := s.mem.nextReq, core := s.cur.1, slot := s.cur.2, gen := s.ctx.gen, realm := s.agent.realm, va, place := p,
    size := n, store, data, psn, d := d.toNat, signed
    port := match p with
      | .other pkg _ _ => exitPort s s.cur.1 pkg
      | _ => 0 }

/-- Of the registers' locks only that of g[d] changes: it is set; g0 is never locked. -/
def LocksReg (x y : Ctx) (d : Reg) : Prop := ∀ r, y.locked r = (x.locked r || (r == d && r != 0))

/-- t is s with one more posted access, its instruction complete and g[lock] locked: no register and no byte of memory has
changed (R384, R406). -/
structure Posts (s t : State) (r : Req) (lock : Reg) : Prop where
  frame : AloneBut { s.mem with reqs := s.mem.reqs ++ [r], nextReq := s.mem.nextReq + 1 } s t
  base : { t.ctx.base with lock := [] } = { s.ctx.base with lock := [] }
  done : Completes s.ctx t.ctx (s.ctx.pc + 4)
  regs : KeepsRegs s.ctx t.ctx
  locks : LocksReg s.ctx t.ctx lock
  bytes : BytesKept s t

/-- t is s with one more posted access, for whose answer the issuing context waits at its instruction (R175). -/
structure Asks (s t : State) (r : Req) : Prop where
  frame : AloneBut { s.mem with reqs := s.mem.reqs ++ [r], nextReq := s.mem.nextReq + 1 } s t
  awaits : t.ctx.await = some r.id ∧ t.ctx.asked = [(r.va, r.place)] ∧ t.ctx.pc = s.ctx.pc ∧ t.ctx.instret = s.ctx.instret
  regs : KeepsRegs s.ctx t.ctx
  bytes : BytesKept s t

/-- The 16 posted stores of a ZEROL of the line at l, each to be performed after the one before it (R188). -/
def zeroStores (s : State) (va : Word) (l : Place) : List Req :=
  (List.range 16).map fun i =>
    { postedBy s (va + BitVec.ofNat 64 (8 * i)) (l.wordAt i) 8 true 0 false 0 false with
      id := s.mem.nextReq + i, chained := i ≠ 0 }

/-- The issuing context's request stands in the queue of the word at key k: behind those of earlier cycles, and of this cycle
behind those of lower cores, and of its core of lower slots (R214). -/
def Queued (s t : State) (k : Nat) (scope : Scope) (kind : FeKind) : Prop :=
  let first (z : FeSleeper) : Prop := z.since < s.cycle.toNat ∨
    (z.since = s.cycle.toNat ∧ 8 * z.core + z.slot ≤ 8 * s.cur.1 + s.cur.2)
  ∃ x y, s.mem.sleepers k = x ++ y ∧ (∀ z ∈ x, first z) ∧ (∀ z, y.head? = some z → ¬first z) ∧
    t.mem.sleepers k = x ++ [{ core := s.cur.1, slot := s.cur.2, scope, kind, since := s.cycle.toNat }] ++ y

/-- A form that touches the 128-byte line of va passes its checks and reaches p (R188). -/
structure AccessesLine (s : State) (va : Word) (need : Need) (p : Place) : Prop where
  place : resolve s s.agent va 1 need false false = .ok p
  allowed : p.userBarred s.isSuper = false
  unwatched : watchOf s need (lineBase va) 128 = none
  unanswered : s.answered = none

/-- What an ordered form waits for has happened: its own earlier accesses to the bytes, and the release of its order (R199,
R202). -/
def OrderMet (s : State) (o : MemOrder) (c : Scope) (p : Place) (n : Nat) : Prop :=
  match o with
  | .plain | .acq => settled s p n = true
  | .rel | .acqRel => releaseDone s c = true ∧ settled s p n = true

/-- s once the issuing cluster's cache has given up its copy of the line at p, so that its dirty bytes are at the home, and the
slice of a host-aperture line that is not NC holds it (R181, R206, R347). -/
def flushed (s : State) (p : Place) : State := toHome s p

/-- Beside the issuing context, memory, its notices and the clusters nothing differs. -/
def OnlyMemory (s t : State) : Prop := Alone { s with mem := t.mem, notes := t.notes, clusters := t.clusters } t

/-- The n bytes from key k are those of v, the lowest first. -/
def Holds (t : State) (k n : Nat) (v : Word) : Prop := ∀ j, j < n → t.mem.byte (k + j) = v.extractLsb' (8 * j) 8

/-- Every line of the issuing cluster's cache is marked stale when an acquire reaches beyond the cluster (R203). -/
def StaleAfter (s t : State) (acq : Bool) (c : Scope) : Prop :=
  acq = true → Scope.far c = true → s.cur.1 ≠ mgmtCore →
    ∀ p ∈ (t.cluster (clusterOf s.cur.1)).lines, ∀ l, p.2 = some l → l.stale = true

/-- The order of a form includes an acquire. -/
def acquiring : MemOrder → Bool
  | .acq | .acqRel => true
  | .plain | .rel => false

/-- A completed memory form that leaves every context register but g[d], FFLAGS and the observed set. -/
structure CompletesAt (s t : State) (fl : Flags) : Prop where
  frame : OnlyMemory s t
  base : { t.ctx.base with obs := 0, fflags := 0 } = { s.ctx.base with obs := 0, fflags := 0 }
  flags : t.ctx.fflags = s.ctx.fflags ||| fl
  done : Completes s.ctx t.ctx (s.ctx.pc + 4)

/-- An AMO form (R346, R347): it reads the n bytes at g[a], writes f of them, of g[b] and of g[d] in their place, and
answers the old value in g[d]; a poisoned word is not among its cases. -/
def Atomic (i : Reg → Reg → Reg → Scope → MemOrder → MSize → Instr) (cas zeroExt : Bool)
    (f : Nat → Word → Word → Word → Word) (fl : Nat → Word → Word → Flags) : Prop :=
  ∀ d a b c o z s p k, Unlocked s [d] [a, b] → s.ctx.psn a = false → s.ctx.psn b = false →
    (cas = true → s.ctx.psn d = false) → Accesses s (s.ctx.reg a) (mBytes z) needBoth p → p.key? s = some k →
    s.ctx.answer = none → OrderMet s o c p (mBytes z) → cacheWaits s s.cur.1 p = false →
    (flushed s p).mem.psn k = false →
    ∃ t, exec (i d a b c o z) s = .next t ∧
      let old := (flushed s p).mem.load k (mBytes z)
      CompletesAt s t (fl (mBytes z) old (s.ctx.reg b)) ∧
      WritesReg s.ctx t.ctx d (extendBytes old (mBytes z) (!zeroExt)) false ∧
      Holds t k (mBytes z) (f (mBytes z) old (s.ctx.reg b) (s.ctx.reg d)) ∧
      BytesKeptOutside (flushed s p) t k (mBytes z) ∧ StaleAfter s t (acquiring o) c

/-! ### Engines -/

/-- Slot 0 of a compute core may dispatch n instructions: no fault is pending and the queue has n free entries (R84, R241,
R245). -/
structure CanDispatch (s : State) (n : Nat) : Prop where
  slot : s.cur.2 = 0
  compute : s.cur.1 ≠ mgmtCore
  noFault : s.here.engine.fault = none
  room : s.here.engine.queue.length + n ≤ 16

/-- What the engine captures of a word at dispatch (R241, R244, R224): up to two source registers with their tags, the
result register, the registers held against writes, FRM and MATCFG. -/
def engineEntry (s : State) (w : IWord) (srcs : List Reg) (d : Option Reg) (hold : List Reg) : Entry :=
  let src (i : Nat) : Word × Bool := (srcs[i]?.map fun r => (s.ctx.reg r, s.ctx.psn r)).getD (0, false)
  let e := s.here.engine
  { seq := e.nextSeq, gen := s.ctx.gen, pc := s.ctx.pc, word := w, opA := (src 0).1, opB := (src 1).1, psnA := (src 0).2,
    psnB := (src 1).2, d, srcs := hold, mark := s.mem.nextReq, frm := s.ctx.frm, realm := s.ctx.realm, cfg0 := e.matcfg0,
    cfg1 := e.matcfg1, cfg2 := e.matcfg2, cfg3 := e.matcfg3 }

/-- Of the package only the issuing core's engine and context have changed, and of the engine only its queue, its numbering
and its ring. -/
structure OnlyDispatch (s t : State) : Prop where
  package : { t with cores := [] } = { s with cores := [] }
  core : { t.here with slots := [], engine := {} } = { s.here with slots := [], engine := {} }
  others : ∀ d, d ≠ s.cur.1 → t.core d = s.core d
  slots : ∀ j, j ≠ s.cur.2 → t.ctxAt s.cur.1 j = s.ctxAt s.cur.1 j
  engine : { t.here.engine with queue := [], ring := [], nextSeq := 0, last := none, rptHeld := none } =
    { s.here.engine with queue := [], ring := [], nextSeq := 0, last := none, rptHeld := none }
  base : { t.ctx.base with lock := [] } = { s.ctx.base with lock := [] }
  regs : KeepsRegs s.ctx t.ctx

/-- The context has dispatched its instruction and goes on at pc; INSTRET counts it when it retires (R241, R332). -/
structure Dispatched (x y : Ctx) (pc : Word) : Prop where
  uncounted : y.instret = x.instret
  passes : Completes x { y with instret := x.instret + 1 } pc

/-- The engine has taken the entry x at the tail of its queue, with the next number and a LIVE ring entry, and g[d] is locked
for its result; the context goes on, and INSTRET counts the instruction when it retires (R241, R244, R246, R332). -/
structure EngineTakes (s t : State) (x : Entry) : Prop where
  frame : OnlyDispatch s t
  queue : t.here.engine.queue = s.here.engine.queue ++ [x]
  number : t.here.engine.nextSeq = s.here.engine.nextSeq + 1 ∧ t.here.engine.last = some s.here.engine.nextSeq ∧
    t.here.engine.rptHeld = s.here.engine.rptHeld
  ring : ∀ k, k < 64 → fget t.here.engine.ring {} k =
    if k = x.seq.toNat % 64 then
      { seq := x.seq, state := .live, pc := x.pc, word := x.word, rep := 0, opA := x.opA, opB := x.opB }
    else fget s.here.engine.ring {} k
  locks : LocksReg s.ctx t.ctx (x.d.getD 0)
  dispatched : Dispatched s.ctx t.ctx (s.ctx.pc + 4)

/-- With room, no lock in its way and operands that satisfy ok, the instruction is dispatched with its word, its operands and
its result register (R241). -/
def Dispatches (i : Instr) (srcs : List Reg) (d : Option Reg) (hold : List Reg) (ok : Ctx → Prop) : Prop :=
  ∀ s w, CanDispatch s 1 → Unlocked s d.toList srcs → ok s.ctx → encode i = some w →
    ∃ t, exec i s = .next t ∧ EngineTakes s t (engineEntry s w srcs d hold)

/-- Nothing is asked of the operands. -/
def anyOperands (_ : Ctx) : Prop := True

/-- The registers of the list are clean. -/
def clean (l : List Reg) (x : Ctx) : Prop := ∀ r ∈ l, x.psn r = false

/-- The registers of the list are clean and multiples of n. -/
def aligned (l : List Reg) (n : Nat) (x : Ctx) : Prop := ∀ r ∈ l, x.psn r = false ∧ (x.reg r).toNat % n = 0

/-- The operands of a layer form are clean, and g[a] is the offset of a descriptor in local SRAM (R34). -/
def layerOperands (a b : Reg) (x : Ctx) : Prop :=
  x.psn a = false ∧ x.psn b = false ∧ (x.reg a).toNat < 0x80000 ∧ (x.reg a).toNat % 64 = 0

/-- The instruction i of the live task of slot 0 runs in a pipe of its core as the entry en, no frame word, and neither a
stop nor a scan is in its way. -/
structure Runs (s : State) (core : BitVec 12) (en : Entry) (i : Instr) : Prop where
  found : (s.engine core.toNat).running.find? (·.seq == en.seq) = some en
  word : decode en.word = .ok i
  single : en.frame = none
  own : (s.engine core.toNat).old = []
  going : (s.core core.toNat).stopped = false
  noScan : (s.engine core.toNat).scan = none
  live : taskLives s core.toNat en = true

/-- The entry has retired: it runs no more, INSTRET counts it unless it is a frame word, its flags stand in FFLAGS, its
result in g[d], whose lock is gone; no other context and no byte of memory differs (R229, R242, R244, R332). -/
structure RetiredWith (s t : State) (c : Nat) (en : Entry) (fl : Flags) (res : Option (Word × Bool)) : Prop where
  running : (t.engine c).running = takeSeq (s.engine c).running en.seq
  counted : (t.ctxAt c 0).instret = (s.ctxAt c 0).instret + if en.frame.isNone then 1 else 0
  flags : (t.ctxAt c 0).fflags = (s.ctxAt c 0).fflags ||| fl
  result : match en.d, res with
    | some d, some (v, p) => WritesReg (s.ctxAt c 0) (t.ctxAt c 0) d v p ∧ (t.ctxAt c 0).locked d = false
    | _, _ => KeepsRegs (s.ctxAt c 0) (t.ctxAt c 0)
  contexts : ∀ j, j ≠ 0 → t.ctxAt c j = s.ctxAt c j
  others : ∀ e, e ≠ c → t.core e = s.core e
  mem : t.mem = s.mem

/-! ### What vector forms leave (R309, R415) -/

/-- The instruction i, once it runs, retires and leaves what P says of the engine before and after, the entry, the flags and the
result; no byte of memory changes. -/
def RetiresTo (i : Instr) (P : Engine → Entry → Engine → Flags → Option (Word × Bool) → Prop) : Prop :=
  ∀ s core en, Runs s core en i → ∃ u fl res, exec (.engineRetire core en.seq) s = .next u ∧
    RetiredWith s u core.toNat en fl res ∧ P (s.engine core.toNat) en (u.engine core.toNat) fl res

/-- Of the engine's registers only vd differs: lane j of w bits holds v j, with the tag bits t j of its bytes. -/
structure LeavesVec (e e' : Engine) (d : VReg) (w : Nat) (v t : Nat → Nat) : Prop where
  lanes : ∀ j, j < 1024 / w → lane (e'.vec d) w j = v j ∧ laneTags (e'.tags d) w j = t j
  others : ∀ r, r ≠ d → e'.vec r = e.vec r ∧ e'.tags r = e.tags r
  masks : e'.m = e.m ∧ e'.mpsn = e.mpsn
  tiles : e'.acc = e.acc ∧ e'.accPsn = e.accPsn

/-- Of the engine's registers only m[p] differs, m0 never: bit j is v j, and the tag is set exactly where `tag` holds. -/
structure LeavesMask (e e' : Engine) (p : MReg) (v : Nat → Bool) (tag : Prop) : Prop where
  bits : p ≠ 0 → (∀ j, j < 128 → (e'.mask p).getLsbD j = v j) ∧ (e'.mtag p = true ↔ tag)
  others : ∀ r, r ≠ p → e'.mask r = e.mask r ∧ e'.mtag r = e.mtag r
  vectors : e'.v = e.v ∧ e'.vpsn = e.vpsn
  tiles : e'.acc = e.acc ∧ e'.accPsn = e.accPsn

/-- No engine register differs. -/
def KeepsEngine (e e' : Engine) : Prop :=
  e'.v = e.v ∧ e'.vpsn = e.vpsn ∧ e'.m = e.m ∧ e'.mpsn = e.mpsn ∧ e'.acc = e.acc ∧ e'.accPsn = e.accPsn

/-- fl is the OR of the flags g j of those j for which `at_` holds (R228). -/
def RaisesAny (fl : Flags) (at_ : Nat → Prop) (g : Nat → Flags) : Prop :=
  ∀ b, fl.getLsbD b = true ↔ ∃ j, at_ j ∧ (g j).getLsbD b = true

/-- A lane form: an active lane takes the value and flags of f, and its bytes the tag bits of p with the mask's tag; an
inactive lane becomes 0 with the mask's tag under z, and stays as it is without (R415). -/
def ComputesLanes (i : Instr) (d : VReg) (m : MReg) (t : VType) (z : Bool) (f : Engine → Entry → Nat → Nat × Flags)
    (p : Engine → Nat → Nat) : Prop :=
  RetiresTo i fun e en e' fl res =>
    let w := VType.width t
    let on (j : Nat) : Bool := (e.mask m).getLsbD j
    let mt := tagBits w (e.mtag m)
    res = none ∧ RaisesAny fl (fun j => j < lanesOf t ∧ on j = true) (fun j => (f e en j).2) ∧
      LeavesVec e e' d w (fun j => if on j then (f e en j).1 % 2 ^ w else if z then 0 else lane (e.vec d) w j)
        (fun j => if on j then p e j ||| mt else if z then mt else laneTags (e.tags d) w j)

/-- A lane form of two vector sources, in the rounding mode of FRM at dispatch. -/
def ComputesPairs (i : Instr) (d a b : VReg) (m : MReg) (t : VType) (z : Bool) (f : RMode → Nat → Nat → Nat × Flags) : Prop :=
  let w := VType.width t
  ComputesLanes i d m t z (fun e en j => f (.ofFrm en.frm) (lane (e.vec a) w j) (lane (e.vec b) w j))
    (fun e j => tagBits w (laneTag (e.tags a) w j || laneTag (e.tags b) w j))

/-- A lane form of one vector source. -/
def ComputesEach (i : Instr) (d a : VReg) (m : MReg) (t : VType) (z : Bool) (f : Nat → Nat × Flags) : Prop :=
  let w := VType.width t
  ComputesLanes i d m t z (fun e _ j => f (lane (e.vec a) w j)) (fun e j => tagBits w (laneTag (e.tags a) w j))

/-- An exact integer in w bits: its low bits, or with saturation the nearest value of the range (R220, R221). -/
def narrowed (sat signed : Bool) (w : Nat) (v : Int) : Nat :=
  let lo : Int := if signed then -(2 ^ (w - 1)) else 0
  let hi : Int := if signed then 2 ^ (w - 1) - 1 else 2 ^ w - 1
  ((if sat then max lo (min hi v) else v) % 2 ^ w).toNat

/-- A compare: bit j says whether lane j is active and holds; a NaN operand makes it false, with NV unless the form is quiet and
the NaN is (R420, R227). -/
def ComputesMask (i : Instr) (quiet : Bool) (ok : Ordering → Bool) (p : MReg) (a b : VReg) (m : MReg) (t : VType) : Prop :=
  RetiresTo i fun e _ e' fl res =>
    let w := VType.width t
    let on (j : Nat) : Bool := decide (j < lanesOf t) && (e.mask m).getLsbD j
    let test (j : Nat) : Bool × Flags :=
      let x := lane (e.vec a) w j
      let y := lane (e.vec b) w j
      match VType.fp t with
      | none => (ok (compare (intOf (VType.isSigned t) w x) (intOf (VType.isSigned t) w y)), 0)
      | some f =>
        let x := unpack f x
        let y := unpack f y
        if x.isNan || y.isNan then (false, if quiet && !(x.isSnan || y.isSnan) then 0 else flagNV) else (ok (fpCmp x y), 0)
    res = none ∧ RaisesAny fl (fun j => on j = true) (fun j => (test j).2) ∧
      LeavesMask e e' p (fun j => on j && (test j).1)
        (e.mtag m = true ∨ ∃ j, on j = true ∧ (laneTag (e.tags a) w j = true ∨ laneTag (e.tags b) w j = true))

/-- Element 0 of the 2^k combined level by level, element i of the lower half with element i of the upper (R233). -/
def treeFold (op : Nat → Nat → Nat × Flags) : Nat → (Nat → Nat) → Nat
  | 0, x => x 0
  | k + 1, x => treeFold op k fun i => (op (x i) (x (i + 2 ^ k))).1

/-- Some combination of the tree raises flag b (R233). -/
def treeRaises (op : Nat → Nat → Nat × Flags) : Nat → (Nat → Nat) → Nat → Prop
  | 0, _, _ => False
  | k + 1, x, b => (∃ i, i < 2 ^ k ∧ (op (x i) (x (i + 2 ^ k))).2.getLsbD b = true) ∨
      treeRaises op k (fun i => (op (x i) (x (i + 2 ^ k))).1) b

/-- A reduction: lane 0 takes the tree's result over the active lanes, the identity standing for the others, and the tags of
what it read and of the mask; every other lane is zero and clean (R233, R431). -/
def Reduces (i : Instr) (d a : VReg) (m : MReg) (t : VType) (identity : Nat) (op : RMode → Nat → Nat → Nat × Flags) : Prop :=
  RetiresTo i fun e en e' fl res =>
    let w := VType.width t
    let n := lanesOf t
    let on (j : Nat) : Bool := (e.mask m).getLsbD j
    let x (j : Nat) : Nat := if on j then lane (e.vec a) w j else identity
    let tag := e.mtag m || (List.range n).any fun j => on j && laneTag (e.tags a) w j
    res = none ∧ (∀ b, fl.getLsbD b = true ↔ treeRaises (op (.ofFrm en.frm)) (Nat.log2 n) x b) ∧
      LeavesVec e e' d w (fun j => if j = 0 then treeFold (op (.ofFrm en.frm)) (Nat.log2 n) x % 2 ^ w else 0)
        (fun j => if j = 0 then tagBits w tag else 0)

/-- k packed elements of wd bits: an active one takes the value and flags of f, an inactive one keeps its bits; what lies
above them is zero and clean. A byte's tag is the OR of p over the active elements in it, of the mask's tag, and of its old
tag where an inactive element shares it (R423). -/
def PacksElements (i : Instr) (d : VReg) (m : MReg) (wd k : Nat) (f : Engine → Entry → Nat → Nat × Flags)
    (p : Engine → Nat → Bool) : Prop :=
  RetiresTo i fun e en e' fl res =>
    let on (j : Nat) : Bool := (e.mask m).getLsbD j
    let within (j b : Nat) : Prop := j < k ∧ wd * j < 8 * b + 8 ∧ 8 * b < wd * j + wd
    res = none ∧ RaisesAny fl (fun j => j < k ∧ on j = true) (fun j => (f e en j).2) ∧
      (∀ j, j < k → slice (e'.vec d) (wd * j) wd = if on j then (f e en j).1 % 2 ^ wd else slice (e.vec d) (wd * j) wd) ∧
      slice (e'.vec d) (wd * k) (1024 - wd * k) = 0 ∧
      (∀ b, b < 128 → ((e'.tags d).testBit b = true ↔
        (∃ j, within j b ∧ on j = true ∧ (p e j = true ∨ e.mtag m = true)) ∨
        (∃ j, within j b ∧ on j = false ∧ (e.tags d).testBit b = true))) ∧
      (∀ r, r ≠ d → e'.vec r = e.vec r ∧ e'.tags r = e.tags r) ∧ e'.m = e.m ∧ e'.acc = e.acc

/-- One conversion of Table 17-1. -/
def converts (src dst : CvtFmt) (r : RMode) (x : Nat) : Nat × Flags :=
  match CvtFmt.fp src, CvtFmt.fp dst with
  | some f, some g => fpConvert g r (unpack f x)
  | some f, none =>
    let v := fpToInt (CvtFmt.isSigned dst) (CvtFmt.width dst) r (unpack f x)
    (narrowed false false (CvtFmt.width dst) v.1, v.2)
  | none, some g => intToFp g r (intOf (CvtFmt.isSigned src) (CvtFmt.width src) x)
  | none, none => (narrowed true (CvtFmt.isSigned dst) (CvtFmt.width dst) (intOf (CvtFmt.isSigned src) (CvtFmt.width src) x), 0)

/-- The FP32 lane x times 2^(127 − S); a quiet NaN under the scale 0xFF (R424). -/
def underScale (sc x : Nat) : Fp :=
  if sc = 255 then .nan false
  else
    match unpack fp32 x with
    | .fin n k e => .fin n k (e + 127 - sc)
    | y => y

/-- A merge form: out, for the windows of va and vb, fills vd, and the three counts vd + 1; a tag in either window tags
every byte of both (R257). -/
def Merges (i : Instr) (d : BitVec 3) (a b : VReg) (n32 : Bool) (ok : List Int → List Int → List Int → Prop) : Prop :=
  RetiresTo i fun e _ e' fl res =>
    let c := bounded (window n32 (e.vec a)) (window n32 (e.vec b))
    let tag := tagBits 32 (tagOf (e.tags a) 0 512 || tagOf (e.tags b) 0 512)
    res = none ∧ fl = 0 ∧ e'.m = e.m ∧ e'.acc = e.acc ∧
      (∀ r, r ≠ d ++ 0#1 → r ≠ d ++ 1#1 → e'.vec r = e.vec r ∧ e'.tags r = e.tags r) ∧
      ∃ out, ok c.1 c.2 out ∧ ∀ j, j < 32 →
        lane (e'.vec (d ++ 0#1)) 32 j = narrowed false false 32 (out.getD j 0) ∧
        lane (e'.vec (d ++ 1#1)) 32 j = [out.length, c.1.length, c.2.length].getD j 0 ∧
        laneTags (e'.tags (d ++ 0#1)) 32 j = tag ∧ laneTags (e'.tags (d ++ 1#1)) 32 j = tag

/-! ### What matrix, vector memory and event forms leave (R34 to R44, R233 to R237, R252 to R255, R427) -/

/-- The instruction i, once it runs and ok holds, retires with its flags and result, and P holds of the states before and after;
beside memory and its notices nothing but the engine and slot 0's context differs. -/
def RetiresWhen (i : Instr) (ok : State → Nat → Entry → Prop)
    (P : State → State → Nat → Entry → Flags → Option (Word × Bool) → Prop) : Prop :=
  ∀ s core en, Runs s core en i → ok s core.toNat en → ∃ u fl res, exec (.engineRetire core en.seq) s = .next u ∧
    RetiredWith { s with mem := u.mem, notes := u.notes } u core.toNat en fl res ∧ P s u core.toNat en fl res

/-- Memory and its notices are as before. -/
def KeepsMemory (s u : State) : Prop := u.mem = s.mem ∧ u.notes = s.notes

/-- The n bytes from va lie in the local SRAM of core c, whose owners grant the entry's realm the access (R166, R171). -/
structure InSram (s : State) (c : Nat) (en : Entry) (need : Need) (va : Word) (n : Nat) : Prop where
  owned : ownsCore s { core := c, realm := en.realm, super := false } c need = true
  fits : va.toNat + n ≤ 0x80000

/-- No arrival word of core c's local SRAM is armed, and no copy is to count at one (R211). -/
def NoArrivalWord (s : State) (c : Nat) : Prop :=
  ∀ b, b ∈ s.mem.armed ∨ (∃ x ∈ s.mem.copies, x.aw = some b) → b + 16 ≤ keySram c 0 ∨ keySram c 0x80000 ≤ b

/-- The element of w bits at bit x of the local SRAM's bytes from offset off, the lowest first (R219). -/
def State.sramElem (s : State) (c off x w : Nat) : Nat :=
  (s.mem.load (keySram c (off + x / 8)) ((x % 8 + w + 7) / 8)).toNat / 2 ^ (x % 8) % 2 ^ w

/-- A word of that element is poisoned. -/
def State.sramTag (s : State) (c off x w : Nat) : Bool :=
  s.mem.psn (keySram c (off + x / 8)) || s.mem.psn (keySram c (off + (x + w - 1) / 8))

/-- Of the engine's registers only the tile t differs: element (i, j) holds v i j, and its tag is set exactly where p holds. -/
structure LeavesTile (e e' : Engine) (t : Acc) (v : Nat → Nat → Nat) (p : Nat → Nat → Prop) : Prop where
  elems : ∀ i j, i < 64 → j < 64 → (e'.elem t i j).1 = v i j ∧ ((e'.elem t i j).2 = true ↔ p i j)
  others : ∀ r i j, r ≠ t → i < 64 → j < 64 → e'.elem r i j = e.elem r i j
  vectors : e'.v = e.v ∧ e'.vpsn = e.vpsn ∧ e'.m = e.m ∧ e'.mpsn = e.mpsn
  valid : e'.accValid = e.accValid ||| BitVec.ofNat 4 (2 ^ t.toNat)

/-- The product of two values, exact where both are finite. -/
def Fp.times : Fp → Fp → Fp
  | .nan q, _ | _, .nan q => .nan q
  | .inf a, .inf b => .inf (a != b)
  | .inf a, .fin b m _ | .fin b m _, .inf a => if m = 0 then .nan false else .inf (a != b)
  | .fin a m i, .fin b n j => .fin (a != b) (m * n) (i + j)

/-- x is the exact sum of the values of l: NaN where one is NaN or infinities of both signs meet, else an infinity where
there is one, else finite, with + for an exact zero (R234). -/
def ExactSum (l : List Fp) (x : Fp) : Prop :=
  match x with
  | .nan q => q = false ∧ ((∃ y ∈ l, y.isNan = true) ∨ (.inf true ∈ l ∧ .inf false ∈ l))
  | .inf n => .inf n ∈ l ∧ .inf (!n) ∉ l ∧ ∀ y ∈ l, y.isNan = false
  | .fin n m _ => (∀ y ∈ l, ∃ a k i, y = .fin a k i) ∧ x.toRat = (l.map Fp.toRat).sum ∧ (m = 0 → n = false)

/-- res is the FP32 word old plus the exact sum of the products of the pairs times 2^k, rounded once to nearest even, with
its flags; k is none where a scale is NaN. NV comes also from a signalling NaN, from 0 times infinity, and where infinities
of both signs meet (R234, R235). -/
def AddsSum (old : Nat) (l : List (Fp × Fp)) (k : Option Int) (res : Nat × Flags) : Prop :=
  let products := l.map fun p => p.1.times p.2
  ∃ x, ExactSum products x ∧
    let r := fpAdd fp32 .rne (f32 old) (match k, x with
      | none, _ => .nan false
      | some k, .fin n m e => .fin n m (e + k)
      | some _, x => x)
    res.1 = r.1 ∧ ∀ b, res.2.getLsbD b = true ↔ r.2.getLsbD b = true ∨ (flagNV.getLsbD b = true ∧
      ((∃ p ∈ l, p.1.isSnan = true ∨ p.2.isSnan = true ∨
          (p.1.isNan = false ∧ p.2.isNan = false ∧ (p.1.times p.2).isNan = true)) ∨
        (.inf true ∈ products ∧ .inf false ∈ products)))

/-- v 0 is x, and sum g of n takes v g to v (g + 1) with the flags r g. -/
def SumsInTurn (n x : Nat) (l : Nat → List (Fp × Fp)) (k : Nat → Option Int) (v : Nat → Nat) (r : Nat → Flags) : Prop :=
  v 0 = x ∧ ∀ g, g < n → AddsSum (v g) (l g) (k g) (v (g + 1), r g)

/-- What MMA and MMAS read from local SRAM by their entry and MATCFG (Table 10-4, R236, R237, R252). -/
structure MmaArea where
  s : State
  c : Nat
  en : Entry
  sparse : Bool
  fa : FpFmt
  fb : FpFmt

/-- A field of MATCFG0. -/
def MmaArea.f (x : MmaArea) (lo n : Nat) : Nat := (x.en.cfg0.extractLsb' lo n).toNat
/-- The groups of 16 of K. -/
def MmaArea.groups (x : MmaArea) : Nat := x.f 44 4 + 1
/-- Elements of a row of A in a group. -/
def MmaArea.n (x : MmaArea) : Nat := if x.sparse then 2 ^ (x.f 34 2 + 1) else 16
/-- Scales are used. -/
def MmaArea.scales (x : MmaArea) : Bool := x.en.cfg0.getLsbD 33
/-- The row strides of A and B in bytes. -/
def MmaArea.strideA (x : MmaArea) : Nat := 8 * x.f 12 12
def MmaArea.strideB (x : MmaArea) : Nat := 8 * x.f 0 12
/-- Where element k of row i of A starts, and element j of row k of B. -/
def MmaArea.rowA (x : MmaArea) (i : Nat) : Nat := x.en.opA.toNat + x.strideA * i
def MmaArea.rowB (x : MmaArea) (k : Nat) : Nat := x.en.opB.toNat + x.strideB * k
/-- The offset of a row's metadata word in a group, and its index p: its own position where A is dense. -/
def MmaArea.metaAt (x : MmaArea) (i g : Nat) : Nat := x.en.cfg1.toNat + 4 * (i * x.groups + g)
def MmaArea.metaWord (x : MmaArea) (i g : Nat) : Nat := (x.s.mem.load (keySram x.c (x.metaAt i g)) 4).toNat
def MmaArea.index (x : MmaArea) (i g p : Nat) : Nat := if x.sparse then x.metaWord i g / 16 ^ p % 16 else p
/-- The offsets of the scales of row i of A and of column j of B, which hold for two groups each. -/
def MmaArea.scaleA (x : MmaArea) (i g : Nat) : Nat := x.en.cfg2.toNat + i * (x.groups / 2) + g / 2
def MmaArea.scaleB (x : MmaArea) (j g : Nat) : Nat := x.en.cfg3.toNat + 64 * (g / 2) + j

/-- The pairs of group g for element (i, j). -/
def MmaArea.pairs (x : MmaArea) (i j g : Nat) : List (Fp × Fp) :=
  (List.range x.n).map fun p =>
    (unpack x.fa (x.s.sramElem x.c (x.rowA i) (x.fa.width * (x.n * g + p)) x.fa.width),
     unpack x.fb (x.s.sramElem x.c (x.rowB (16 * g + x.index i g p)) (x.fb.width * j) x.fb.width))

/-- The exponent of the scales' product; none where one is NaN (R235). -/
def MmaArea.exponent (x : MmaArea) (i j g : Nat) : Option Int :=
  if x.scales then
    let a := (x.s.mem.load (keySram x.c (x.scaleA i g)) 1).toNat
    let b := (x.s.mem.load (keySram x.c (x.scaleB j g)) 1).toNat
    if a = 255 ∨ b = 255 then none else some ((a : Int) + b - 254)
  else some 0

/-- What group g reads for element (i, j) is poisoned (R42, R252). -/
def MmaArea.poisoned (x : MmaArea) (i j g : Nat) : Prop :=
  (∃ p, p < x.n ∧ (x.s.sramTag x.c (x.rowA i) (x.fa.width * (x.n * g + p)) x.fa.width = true ∨
    x.s.sramTag x.c (x.rowB (16 * g + x.index i g p)) (x.fb.width * j) x.fb.width = true)) ∨
  (x.sparse = true ∧ x.s.mem.psn (keySram x.c (x.metaAt i g)) = true) ∨
  (x.scales = true ∧ (x.s.mem.psn (keySram x.c (x.scaleA i g)) = true ∨ x.s.mem.psn (keySram x.c (x.scaleB j g)) = true))

/-- MATCFG and the operands pass the checks of R252 and R237, and all that is read lies in local SRAM. -/
structure MmaArea.Good (x : MmaArea) : Prop where
  formats : [bf16, e4m3, e5m2, e3m2, e2m3, e2m1][x.f 40 4]? = some x.fa ∧
    [bf16, e4m3, e5m2, e3m2, e2m3, e2m1][x.f 36 4]? = some x.fb
  reserved : x.en.cfg0 &&& 0xF00000013F000000 = 0
  scaled : x.scales = true → x.groups % 2 = 0
  dense : x.sparse = true → x.f 34 2 ≠ 3 ∧ x.f 40 4 ∈ [1, 2] ∧ x.f 36 4 ∈ [1, 2]
  strides : x.groups * x.n * x.fa.width ≤ 8 * x.strideA ∧ 64 * x.fb.width ≤ 8 * x.strideB
  aligned : x.en.opA.toNat % 8 = 0 ∧ x.en.opB.toNat % 8 = 0 ∧ (x.sparse = true → x.en.cfg1.toNat % 4 = 0)
  areas : InSram x.s x.c x.en needRead x.en.opA (63 * x.strideA + (x.groups * x.n * x.fa.width + 7) / 8) ∧
    InSram x.s x.c x.en needRead x.en.opB ((16 * x.groups - 1) * x.strideB + 8 * x.fb.width) ∧
    (x.sparse = true → InSram x.s x.c x.en needRead x.en.cfg1 (256 * x.groups)) ∧
    (x.scales = true → InSram x.s x.c x.en needRead x.en.cfg2 (32 * x.groups) ∧
      InSram x.s x.c x.en needRead x.en.cfg3 (32 * x.groups))
  legal : x.sparse = true → ∀ i g, i < 64 → g < x.groups → x.metaWord i g < 16 ^ x.n ∧
    ∀ p, p + 1 < x.n → x.index i g p < x.index i g (p + 1)

/-- MMA and MMAS: each element takes one rounded sum per group in ascending order, with the poison of all that it reads;
MPROG is not valid afterwards (R234 to R237, R253). -/
def Multiplies (i : Instr) (sparse : Bool) (t : Acc) : Prop :=
  ∀ fa fb, RetiresWhen i (fun s c en => en.prog = 0 ∧ en.fl = 0 ∧ MmaArea.Good ⟨s, c, en, sparse, fa, fb⟩)
    fun s u c en fl res =>
      let x : MmaArea := ⟨s, c, en, sparse, fa, fb⟩
      res = none ∧ KeepsMemory s u ∧ (u.engine c).progValid = false ∧
      ∃ (v : Nat → Nat → Nat → Nat) (r : Nat → Nat → Nat → Flags),
        LeavesTile (s.engine c) (u.engine c) t (fun i j => v i j x.groups)
          (fun i j => ((s.engine c).elem t i j).2 = true ∨ ∃ g, g < x.groups ∧ x.poisoned i j g) ∧
        (∀ i j, i < 64 → j < 64 →
          SumsInTurn x.groups ((s.engine c).elem t i j).1 (x.pairs i j) (x.exponent i j) (v i j) (r i j)) ∧
        ∀ b, fl.getLsbD b = true ↔ ∃ i j g, i < 64 ∧ j < 64 ∧ g < x.groups ∧ (r i j g).getLsbD b = true

/-- The entry of seq becomes f of itself in its pipe, and goes on in a later step; nothing else of the core or the package
differs, but memory and its notices may. -/
structure GoesOn (s t : State) (c : Nat) (seq : BitVec 16) (f : Entry → Entry) : Prop where
  running : (t.engine c).running = (s.engine c).running.map fun x => if x.seq = seq then f x else x
  engine : { t.engine c with running := [] } = { s.engine c with running := [] }
  contexts : ∀ j, t.ctxAt c j = s.ctxAt c j
  others : ∀ d, d ≠ c → t.core d = s.core d

/-- A vector load: its active elements are read one by one in ascending order, each alone; after the last, their lanes hold what
was read and every other lane what it held (R194, R427, R428). -/
def LoadsLanes (i : Instr) (d : VReg) (m : MReg) (size n : Nat) (addr : Engine → Entry → Nat → Word)
    (ok : Engine → Nat → Bool) : Prop :=
  ∀ s core en, Runs s core en i →
    let c := core.toNat
    let e := s.engine c
    let act := (List.range n).filter (e.mask m).getLsbD
    let got := if en.prog = 0 then [] else en.popped
    let loaded (l : List (Word × Bool)) : Prop := ∃ u, exec (.engineRetire core en.seq) s = .next u ∧
      RetiredWith s u c en 0 none ∧
      LeavesVec e (u.engine c) d (8 * size)
        (fun j => match (act.idxOf? j).bind (l[·]?) with
          | some v => v.1.toNat
          | none => lane (e.vec d) (8 * size) j)
        (fun j => match (act.idxOf? j).bind (l[·]?) with
          | some v => tagBits (8 * size) v.2
          | none => laneTags (e.tags d) (8 * size) j)
    (act.drop got.length = [] → loaded got) ∧
    ∀ j rest, act.drop got.length = j :: rest → (addr e en j).toNat % size = 0 → ok e j = true →
      InSram s c en needRead (addr e en j) size →
      let k := keySram c (addr e en j).toNat
      let all := got ++ [(s.mem.load k size, s.mem.psn k)]
      (rest = [] → loaded all) ∧
      (rest ≠ [] → ∃ t, exec (.engineRetire core en.seq) s = .next t ∧ KeepsMemory s t ∧
        GoesOn s t c en.seq fun x => { x with prog := j + 1, fl := 0, popped := all })

/-- A vector store: its active elements are written one by one in ascending order, each alone, with the lane's tag (R194, R427,
R428). -/
def StoresLanes (i : Instr) (d : VReg) (m : MReg) (size n : Nat) (addr : Engine → Entry → Nat → Word)
    (ok : Engine → Nat → Bool) : Prop :=
  ∀ s core en, Runs s core en i →
    let c := core.toNat
    let e := s.engine c
    let left := ((List.range n).filter (e.mask m).getLsbD).filter (en.prog ≤ ·)
    (left = [] → ∃ u, exec (.engineRetire core en.seq) s = .next u ∧ RetiredWith s u c en 0 none ∧ KeepsEngine e (u.engine c)) ∧
    ∀ j rest, left = j :: rest → (addr e en j).toNat % size = 0 → ok e j = true → InSram s c en needWrite (addr e en j) size →
      NoArrivalWord s c → ∃ t, exec (.engineRetire core en.seq) s = .next t ∧
        let k := keySram c (addr e en j).toNat
        let psn := laneTag (e.tags d) (8 * size) j
        Holds t k size (BitVec.ofNat 64 (lane (e.vec d) (8 * size) j)) ∧ BytesKeptOutside s t k size ∧
        (∀ x, t.mem.psn x = (s.mem.psn x || (psn && wordKey x == wordKey k))) ∧
        (rest = [] → RetiredWith { s with mem := t.mem, notes := t.notes } t c en 0 none ∧ KeepsEngine e (t.engine c)) ∧
        (rest ≠ [] → GoesOn s t c en.seq fun x => { x with prog := j + 1, fl := 0 })

/-- Of the areas, given by offset and size, no two share a 64-bit word. -/
def Apart (l : List (Nat × Nat)) : Prop :=
  l.Pairwise fun p q => p.2 = 0 ∨ q.2 = 0 ∨ (p.1 + p.2 + 7) / 8 ≤ q.1 / 8 ∨ (q.1 + q.2 + 7) / 8 ≤ p.1 / 8

/-- A field of a layer descriptor (Table 2-2). -/
def layField (l : List Word) (i lo n : Nat) : Nat := ((l.getD i 0).extractLsb' lo n).toNat

/-- The clean words l of the entry's layer descriptor in local SRAM pass R31, its areas share no 64-bit word (R32, R276), and no
arrival word is in the way. -/
structure LayerAt (s : State) (c : Nat) (en : Entry) (l : List Word) (ring : Bool) : Prop where
  reads : InSram s c en needRead en.opA 64
  writes : InSram s c en needBoth en.opA 64
  aligned : en.opA.toNat % 64 = 0
  words : l = (List.range 8).map fun i => s.mem.load (keySram c (en.opA.toNat + 8 * i)) 8
  clean : ∀ i, i < 8 → s.mem.psn (keySram c (en.opA.toNat + 8 * i)) = false
  good : layMalformed l ring = false
  weights : s.usableCore (c / 4 * 4 + layField l 0 60 2) = true
  apart :
    let n := layField l 2 19 13
    Apart ([(en.opA.toNat, 64), (layField l 2 0 19, 4 * n), (layField l 2 32 19, 4 * n),
      (layField l 3 0 19, 4 * layField l 3 40 5 * n)] ++
      if layField l 0 60 2 = c % 4 then
        [(layField l 0 0 19, (layField l 1 0 22 - 1) * layField l 0 32 20 + n * if layField l 0 56 4 = 1 then 2 else 1)]
      else [])
  unarmed : NoArrivalWord s c

/-- The FP32 word at offset off i takes the sum of the exact value p i, rounded once, for each i below n; poison of the word
or of tag i stays in it; of the bytes that on_ picks, the others keep their value (R25, R42). fl are the flags raised. -/
structure AddsToWords (s u : State) (c n : Nat) (off : Nat → Nat) (p : Nat → Fp) (tag : Nat → Bool) (on_ : Nat → Prop)
    (fl : Flags) : Prop where
  sums : ∀ i, i < n → Holds u (keySram c (off i)) 4
    (BitVec.ofNat 64 (fpAdd fp32 .rne (f32 (s.mem.load (keySram c (off i)) 4).toNat) (p i)).1)
  others : ∀ k, on_ k → (∀ i, i < n → k < keySram c (off i) ∨ keySram c (off i) + 4 ≤ k) → u.mem.byte k = s.mem.byte k
  tags : ∀ k, on_ k → (u.mem.psn k = true ↔
    s.mem.psn k = true ∨ ∃ i, i < n ∧ tag i = true ∧ wordKey k = wordKey (keySram c (off i)))
  flags : RaisesAny fl (· < n) fun i => (fpAdd fp32 .rne (f32 (s.mem.load (keySram c (off i)) 4).toNat) (p i)).2

/-- VSCMAC, and VDRING with ring set: an event flit that is not for the layer, or too late for its ring, is skipped and
counted; any other adds its quanta times the column's weights to the accumulators or to the ring slot of its delay (R38). -/
def AppliesEvents (i : Instr) (ring : Bool) : Prop :=
  ∀ l, RetiresWhen i (fun s c en => en.prog = 0 ∧ en.fl = 0 ∧ LayerAt s c en l ring ∧
      let wc := c / 4 * 4 + layField l 0 60 2
      let col := layField l 0 0 19 + ((en.opB.extractLsb' 22 22).toNat - layField l 1 32 22) * layField l 0 32 20
      wc ≠ c → resolve s { core := c, realm := en.realm, super := false } (s.windowSram wc col) 1 needRead false true =
        .ok (.sram wc col true)) fun s u c en fl res =>
    let f := layField l
    let neuron := (en.opB.extractLsb' 22 22).toNat
    let n := (en.opB.extractLsb' 44 8).toInt
    let k := (en.opB.extractLsb' 52 4).toNat
    let status := if en.opB.extractLsb' 56 2 ≠ 0 then 8 else if neuron < f 1 32 22 ∨ f 1 32 22 + f 1 0 22 ≤ neuron then 2
      else if ring = true ∧ f 3 40 5 ≤ k then 4 else if n = 0 then 16 else 1
    res = some (BitVec.ofNat 64 status, false) ∧ KeepsEngine (s.engine c) (u.engine c) ∧
    (status ∈ [2, 4, 8] → fl = 0 ∧
      let at_ := keySram c (en.opA.toNat + 48)
      Holds u at_ 8 ((l.getD 6 0 &&& 0xFFFF0000FFFFFFFF) ||| BitVec.ofNat 64 (min (f 6 32 16 + 1) 0xFFFF * 2 ^ 32)) ∧
      Holds u (at_ + 8) 8 (l.getD 7 0 ||| if status = 4 then 4 else 1) ∧ BytesKeptOutside s u at_ 16 ∧
      ∀ x, u.mem.psn x = s.mem.psn x) ∧
    (status = 16 → fl = 0 ∧ KeepsMemory s u) ∧
    (status = 1 →
      let z := if f 0 56 4 = 1 then 2 else 1
      let wkey (i : Nat) : Nat := keySram (c / 4 * 4 + f 0 60 2) (f 0 0 19 + (neuron - f 1 32 22) * f 0 32 20 + i * z)
      let weight (i : Nat) : Fp :=
        let b := s.mem.load (wkey i) z
        match f 0 56 4 with
        | 0 => unpack e4m3 b.toNat
        | 1 => unpack bf16 b.toNat
        | _ => let v := (b.extractLsb' 0 8).toInt; .fin (decide (v < 0)) v.natAbs 0
      AddsToWords s u c (f 2 19 13)
        (fun i => if ring then f 3 0 19 + 4 * ((f 3 48 4 + k) % f 3 40 5 * f 2 19 13 + i) else f 2 0 19 + 4 * i)
        (fun i => Fp.times (.fin (decide (n < 0)) n.natAbs (BitVec.toInt ((l.getD 4 0).extractLsb' 16 8))) (weight i))
        (fun i => s.mem.psn (wkey i)) (fun _ => True) fl)

/-- VDTICK: the ring's current slot is added to the accumulators and cleared, T moves on, TICKS counts; without a ring only
TICKS counts (R41). -/
def ClosesStep (i : Instr) : Prop :=
  ∀ l, RetiresWhen i (fun s c en => en.prog = 0 ∧ en.fl = 0 ∧ LayerAt s c en l false) fun s u c en fl res =>
    let f := layField l
    let depth := f 3 40 5
    let n := if depth = 0 then 0 else f 2 19 13
    let slot (i : Nat) : Nat := keySram c (f 3 0 19 + 4 * (f 3 48 4 * f 2 19 13 + i))
    let at_ := keySram c en.opA.toNat
    res = some (if depth = 0 then 16 else BitVec.ofNat 64 (f 3 48 4), false) ∧ KeepsEngine (s.engine c) (u.engine c) ∧
    AddsToWords s u c n (fun i => f 2 0 19 + 4 * i) (fun i => f32 (s.mem.load (slot i) 4).toNat) (fun i => s.mem.psn (slot i))
      (fun k => (k < at_ ∨ at_ + 64 ≤ k) ∧ ∀ i, i < n → k < slot i ∨ slot i + 4 ≤ k) fl ∧
    (∀ i, i < n → Holds u (slot i) 4 0 ∧ u.mem.psn (slot i) = s.mem.psn (slot i)) ∧
    ∀ j, j < 8 → Holds u (at_ + 8 * j) 8 (
      if j = 3 ∧ depth ≠ 0 then (l.getD 3 0 &&& 0xFFF0FFFFFFFFFFFF) ||| BitVec.ofNat 64 ((f 3 48 4 + 1) % depth * 2 ^ 48)
      else if j = 6 then (l.getD 6 0 &&& 0xFFFFFFFFFFFF0000) ||| BitVec.ofNat 64 ((f 6 0 16 + 1) % 2 ^ 16)
      else l.getD j 0)

/-- MSTACC: row i of the tile stands from OPA on at i strides, each element in OFMT, FP32 as it is, BF16 or FP16 rounded to
nearest even; a word holds the poison of its elements (R254, Table 10-4). -/
def StoresTile (t : Acc) (a : Reg) : Prop :=
  RetiresWhen (.mstacc t a) (fun s c en =>
      let f (lo n : Nat) : Nat := (en.cfg0.extractLsb' lo n).toNat
      let row := if f 30 2 = 0 then 256 else 128
      en.prog = 0 ∧ en.fl = 0 ∧ en.cfg0 &&& 0xF00000013F000000 = 0 ∧ f 30 2 < 3 ∧ en.opA.toNat % 8 = 0 ∧ row ≤ 8 * f 48 12 ∧
      InSram s c en needWrite en.opA (63 * (8 * f 48 12) + row) ∧ NoArrivalWord s c) fun s u c en fl res =>
    let f (lo n : Nat) : Nat := (en.cfg0.extractLsb' lo n).toNat
    let z := if f 30 2 = 0 then 4 else 2
    let at_ (i j : Nat) : Nat := keySram c (en.opA.toNat + 8 * f 48 12 * i + z * j)
    let elem (i j : Nat) : Nat × Flags :=
      let x := ((s.engine c).elem t i j).1
      match f 30 2 with
      | 0 => (x, 0)
      | 1 => fpConvert bf16 .rne (f32 x)
      | _ => fpConvert fp16 .rne (f32 x)
    res = none ∧ KeepsEngine (s.engine c) (u.engine c) ∧
    (∀ i j, i < 64 → j < 64 → Holds u (at_ i j) z (BitVec.ofNat 64 (elem i j).1) ∧
      (u.mem.psn (at_ i j) = true ↔ ∃ k, k < 64 ∧ z * k / 8 = z * j / 8 ∧ ((s.engine c).elem t i k).2 = true)) ∧
    (∀ k, (∀ i, i < 64 → k < at_ i 0 ∨ at_ i 0 + 64 * z ≤ k) → u.mem.byte k = s.mem.byte k ∧ u.mem.psn k = s.mem.psn k) ∧
    ∀ b, fl.getLsbD b = true ↔ ∃ i j, i < 64 ∧ j < 64 ∧ (elem i j).2.getLsbD b = true

/-- MLDACC: element (i, j) is the FP32 word j of the row at i strides from OPA (R254). -/
def LoadsTile (t : Acc) (a : Reg) : Prop :=
  RetiresWhen (.mldacc t a) (fun s c en =>
      let stride := 8 * (en.cfg0.extractLsb' 48 12).toNat
      en.cfg0 &&& 0xF00000013F000000 = 0 ∧ en.opA.toNat % 8 = 0 ∧ 256 ≤ stride ∧
      InSram s c en needRead en.opA (63 * stride + 256)) fun s u c en fl res =>
    let at_ (i j : Nat) : Nat := keySram c (en.opA.toNat + 8 * (en.cfg0.extractLsb' 48 12).toNat * i + 4 * j)
    res = none ∧ fl = 0 ∧ KeepsMemory s u ∧
    LeavesTile (s.engine c) (u.engine c) t (fun i j => (s.mem.load (at_ i j) 4).toNat) (fun i j => s.mem.psn (at_ i j) = true)

/-- MXFORM: a transposition, a rotation of the rows with or without their reversal, or the sums of 2^AMT rows in groups of 16
(R255). -/
def TransformsTile (d t : Acc) (a : Reg) : Prop :=
  RetiresWhen (.mxform d t a) (fun _ _ en =>
      let op := (en.opA.extractLsb' 0 2).toNat
      op < 3 ∧ en.opA &&& 0xFFFFFFFFFFFF80FC = 0 ∧ (en.opA.getLsbD 14 = true → op = 1) ∧
      (op = 2 → (en.opA.extractLsb' 8 6).toNat ≤ 6)) fun s u c en fl res =>
    let x := (s.engine c).elem t
    let amt := (en.opA.extractLsb' 8 6).toNat
    let leaves := LeavesTile (s.engine c) (u.engine c) d
    res = none ∧ KeepsMemory s u ∧ match (en.opA.extractLsb' 0 2).toNat with
    | 0 => fl = 0 ∧ leaves (fun i j => (x j i).1) (fun i j => (x j i).2 = true)
    | 1 =>
      let row (i : Nat) : Nat := ((if en.opA.getLsbD 14 then 63 - i else i) + amt) % 64
      fl = 0 ∧ leaves (fun i j => (x (row i) j).1) (fun i j => (x (row i) j).2 = true)
    | _ =>
      let n := 2 ^ amt
      let groups := (n + 15) / 16
      ∃ (v : Nat → Nat → Nat → Nat) (r : Nat → Nat → Nat → Flags),
        leaves (fun i j => if i < 64 / n then v i j groups else 0)
          (fun i j => i < 64 / n ∧ ∃ k, k < n ∧ (x (n * i + k) j).2 = true) ∧
        (∀ i j, i < 64 / n → j < 64 → SumsInTurn groups 0
          (fun g => (List.range (min 16 (n - 16 * g))).map fun k => (.fin false 1 0, f32 (x (n * i + 16 * g + k) j).1))
          (fun _ => some 0) (v i j) (r i j)) ∧
        ∀ b, fl.getLsbD b = true ↔ ∃ i j g, i < 64 / n ∧ j < 64 ∧ g < groups ∧ (r i j g).getLsbD b = true

/-! ### Scans (R39, R40, R44) -/

/-- What a scan finds at element i of the layer l (R39): y is the activation of the accumulator, scaled where WFMT is 2; the
difference from the reconstruction h is truncated to quanta of 2^EOUT and clamped to −127 to 127. -/
def FindsQuanta (s : State) (c : Nat) (l : List Word) (i : Nat) : Prop :=
  let f := layField l
  let ka := keySram c (f 2 0 19 + 4 * i)
  let kh := keySram c (f 2 32 19 + 4 * i)
  let a0 := (s.mem.load ka 4).toNat
  let h := (s.mem.load kh 4).toNat
  let a := if f 0 56 4 = 2 then fpMul fp32 .rne (f32 a0) (f32 (f 4 32 32)) else (a0, 0)
  let y := if f 4 0 4 = 8 then (a.1, 0) else act ([.relu, .gelu, .silu, .exp2, .rcp, .rsq, .logi].getD (f 4 0 4) .tanh) a.1
  let x := examine s c l i
  x.psn = (s.mem.psn ka || s.mem.psn kh) ∧ x.h = h ∧ x.fl = (a.2 ||| y.2 ||| if x.undef then flagNV else 0) ∧
  (x.undef = true ↔ (f32 y.1).isNan = true ∨ (f32 h).isNan = true ∨ ∃ n, f32 y.1 = .inf n ∧ f32 h = .inf n) ∧
  (x.undef = true → x.n = 0) ∧
  (x.undef = false → x.n = max (-127) (min 127 x.t) ∧ match f32 y.1, f32 h with
    | .inf n, _ => x.t = if n then -(2 ^ 400) else 2 ^ 400
    | _, .inf n => x.t = if n then 2 ^ 400 else -(2 ^ 400)
    | p, q =>
      let d := (p.toRat - q.toRat) * 2 ^ (-(BitVec.toInt ((l.getD 4 0).extractLsb' 8 8)))
      x.t = if 0 ≤ d then d.floor else d.ceil)

/-- The entry scans as x: it begins, or goes on from where it stands without a flit. -/
def ScanStands (s : State) (c : Nat) (en : Entry) (x : Scan) : Prop :=
  LayerAt s c en x.words false ∧
  (((s.engine c).scan = some x ∧ x.flit = none) ∨
   ((s.engine c).scan = none ∧ en.opB.extractLsb' 32 31 = 0 ∧
    x = { words := x.words, elem := max en.prog (en.opB.extractLsb' 0 16).toNat, fl := en.fl
          moved := decide ((en.opB.extractLsb' 0 16).toNat < en.prog) }))

/-- One step of VSDSCAN: the elements are examined in ascending order up to the next that emits, the end of a 256-byte chunk
of the accumulators, or the end of the range; there the flit waits, or the scan halts or finishes. NAN is set in the
descriptor as it is met (R39, R40, R44). -/
def Scans (i : Instr) : Prop :=
  ∀ s core en x, let c := core.toNat
    Runs (s.modEngine c fun e => { e with scan := none }) core en i → ScanStands s c en x →
    let f := layField x.words
    let j0 := (en.opB.extractLsb' 0 16).toNat
    let m := (en.opB.extractLsb' 16 16).toNat
    let n := if m = 0 then f 2 19 13 else min (j0 + m) (f 2 19 13)
    let stop := max x.elem (min n (64 * (x.elem / 64 + 1)))
    let found := examine s c x.words
    let emits (j : Nat) : Prop := (found j).n ≠ 0 ∨ (found j).psn = true
    let word (kind delay q neuron : Nat) : Word := BitVec.ofNat 64
      (f 5 58 6 * 2 ^ 58 + kind * 2 ^ 56 + delay * 2 ^ 52 + q * 2 ^ 44 + neuron * 2 ^ 22 + f 5 0 22)
    let undef (k : Nat) : Prop := ∃ j, x.elem ≤ j ∧ j < k ∧ (found j).undef = true
    -- what has been examined up to k stands in y and in the descriptor
    let examined (t : State) (y : Scan) (k : Nat) : Prop :=
      y.emitted = x.emitted ∧ y.clamped = x.clamped ∧ y.psn = x.psn ∧ y.moved = x.moved ∧
      (y.nan = true ↔ x.nan = true ∨ undef k) ∧
      (undef k → y.words = x.words.set 7 (x.words.getD 7 0 ||| 8)) ∧ (¬undef k → y.words = x.words) ∧
      Holds t (keySram c (en.opA.toNat + 56)) 8 (y.words.getD 7 0) ∧ BytesKeptOutside s t (keySram c (en.opA.toNat + 56)) 8 ∧
      ∀ k, t.mem.psn k = s.mem.psn k
    let stands (t : State) (y : Scan) : Prop :=
      (t.engine c).scan = some y ∧ (t.engine c).running = (s.engine c).running ∧ ∀ j, t.ctxAt c j = s.ctxAt c j
    (∀ j, x.elem ≤ j → j < stop → emits j → (∀ k, x.elem ≤ k → k < j → ¬emits k) →
      let r := fpAdd fp32 .rne (f32 (found j).h)
        (.fin (decide ((found j).n < 0)) (found j).n.natAbs (BitVec.toInt ((x.words.getD 4 0).extractLsb' 8 8)))
      ∃ t y, exec (.engineRetire core en.seq) s = .next t ∧ stands t y ∧ examined t y (j + 1) ∧ y.elem = j ∧
        y.ticked = x.ticked ∧ y.flit = some
          { word := word 0 (f 5 52 4) ((found j).n % 256).toNat (f 5 22 22 + j), psn := (found j).psn
            recon := some (BitVec.ofNat 32 r.1), clamped := decide ((found j).n ≠ (found j).t) } ∧
        ∀ b, y.fl.getLsbD b = true ↔ x.fl.getLsbD b = true ∨ r.2.getLsbD b = true ∨
          ∃ k, x.elem ≤ k ∧ k ≤ j ∧ (found k).fl.getLsbD b = true) ∧
    ((∀ k, x.elem ≤ k → k < stop → ¬emits k) → ∃ t y, exec (.engineRetire core en.seq) s = .next t ∧ examined t y stop ∧
      (∀ b, y.fl.getLsbD b = true ↔ x.fl.getLsbD b = true ∨ ∃ k, x.elem ≤ k ∧ k < stop ∧ (found k).fl.getLsbD b = true) ∧
      y.elem = stop ∧
      (stop < n → y.flit = none ∧ stands t y) ∧
      (n ≤ stop → en.opB.getLsbD 63 = true → x.ticked = false → y.flit = some { word := word 1 0 0 0 } ∧ stands t y) ∧
      (n ≤ stop → en.opB.getLsbD 63 = false ∨ x.ticked = true → x.moved = false → (t.engine c).scan = none ∧
        RetiredWith { s with mem := t.mem, notes := t.notes } t c en y.fl (some (BitVec.ofNat 64 (
          y.emitted + y.clamped * 2 ^ 16 + (if y.nan then 2 ^ 32 else 0) + (if x.ticked then 2 ^ 33 else 0) + (if y.psn then 2 ^ 34 else 0)), false))))

/-- The network interface takes a scan's event flit: it enters the core's router on its class's channel, and only now the
element's reconstruction is written and counted; the scan goes on behind the element (R39, R40, R60). -/
def ScanFlitTaken (i : Instr) : Prop :=
  ∀ s core en x g v, let c := core.toNat
    Runs (s.modEngine c fun e => { e with scan := none }) core en i → (s.engine c).scan = some x → x.flit = some g →
    g.recon = some v → LayerAt s c en x.words false → x.elem < layField x.words 2 19 13 →
      s.mayInject c (scanVc s c x.words) = true →
    (s.engine c).running.find? (fun y => pipeOf y.word = 1) = some en →
    ∃ t, exec (.scanFlitAccepted core) s = .next t ∧
      (t.router (routerOf c)).inq = (s.router (routerOf c)).inq ++ [(.localPort (clusterOf c),
        ⟨scanVc s c x.words, [(g.word, g.psn)], s.package, BitVec.ofNat 13 c, none, none⟩)] ∧
      let f := layField x.words
      let kh := keySram c (f 2 32 19 + 4 * x.elem)
      let at_ := keySram c (en.opA.toNat + 48)
      let clamps := if g.clamped then min (f 6 16 16 + 1) 0xFFFF else f 6 16 16
      Holds t kh 4 (v.setWidth 64) ∧ (t.mem.psn kh = true ↔ s.mem.psn kh = true ∨ g.psn = true) ∧
      Holds t at_ 8 ((x.words.getD 6 0 &&& 0x0000FFFF0000FFFF) |||
        BitVec.ofNat 64 ((f 6 48 16 + 1) % 2 ^ 16 * 2 ^ 48 + clamps * 2 ^ 16)) ∧
      (∃ nan : Bool, Holds t (at_ + 8) 8 (x.words.getD 7 0 ||| (if g.clamped then 2 else 0) ||| (if g.psn then 16 else 0) |||
        (if nan then 8 else 0))) ∧
      (∀ k, (k < kh ∨ kh + 4 ≤ k) → (k < at_ ∨ at_ + 16 ≤ k) → t.mem.byte k = s.mem.byte k) ∧
      ∀ y, (t.engine c).scan = some y → x.elem + 1 ≤ y.elem

/-! ### Messages and tasks -/

/-- The packet waits at the core's network interface and the instruction at its place: no register and no byte of memory has
changed (R366, R401). -/
structure Offers (s t : State) (p : Packet) : Prop where
  frame : Alone s t
  base : { t.ctx.base with sending := none, obs := 0, bypass := 0 } = { s.ctx.base with sending := none, obs := 0, bypass := 0 }
  sending : t.ctx.sending = some p
  waits : t.ctx.pc = s.ctx.pc ∧ t.ctx.instret = s.ctx.instret ∧ t.ctx.wait = none
  regs : KeepsRegs s.ctx t.ctx

/-- A task has started in slot k of core c with the state of Table 4-1 (R87). -/
structure StartsTask (s t : State) (c k : Nat) (st : Start) : Prop where
  occupied : (t.ctxAt c k).occupied = true ∧ (t.ctxAt c k).frozen = false ∧ (t.ctxAt c k).wait = none
  gen : (t.ctxAt c k).gen = (s.ctxAt c k).gen + 1
  entry : (t.ctxAt c k).pc = st.entry ∧ (t.ctxAt c k).instret = 0 ∧ (t.ctxAt c k).fflags = 0
  limits : (t.ctxAt c k).tbudget = st.budget ∧ (t.ctxAt c k).prio = st.prio ∧ (t.ctxAt c k).waitlim = 0
  ids : (t.ctxAt c k).realm = st.realm ∧ (t.ctxAt c k).tinfo = st.tinfo ∧ (t.ctxAt c k).walkid = st.walkid ∧
    (t.ctxAt c k).nodeid = st.nodeid ∧ (t.ctxAt c k).launch = st.launch
  pointers : (t.ctxAt c k).reg 2 = ((fget (s.core c).sptop 0 k) ++ 0#4).signExtend 64 ∧ (t.ctxAt c k).reg 3 = st.tinfo
  args : st.args.length ≤ 28 → ∀ r : Reg, r ≠ 2 → r ≠ 3 →
    ((t.ctxAt c k).reg r, (t.ctxAt c k).psn r) = (if 4 ≤ r.toNat then st.args.getD (r.toNat - 4) (0, false) else (0, false))
  others : ∀ j, j ≠ k → t.ctxAt c j = s.ctxAt c j

/-- The tag lets the issuing context use it: it is enabled for the context's realm, and the context is a member (R106). -/
structure MayUseTag (s : State) (t : Tag) : Prop where
  enabled : (s.tag t.toNat).enable = true
  realm : (s.tag t.toNat).realm = s.ctx.realm
  member : s.ctx.inTag t = true

/-! ### Copies -/

/-- The instruction completes with one more copy posted in the context's open batch; no register and no byte of memory has
changed (R259, R262). -/
def PostsCopy (i : Instr) (s : State) (x : Copy) : Prop :=
  ∃ t, exec i s = .next t ∧
    AloneBut { s.mem with copies := s.mem.copies ++ [{ x with
      id := s.mem.nextReq, core := s.cur.1, slot := s.cur.2, gen := s.ctx.gen, realm := s.agent.realm,
      super := s.isSuper }], nextReq := s.mem.nextReq + 1 } s t ∧
    { t.ctx.base with openN := 0 } = { s.ctx.base with openN := 0 } ∧ t.ctx.openN = s.ctx.openN + 1 ∧
    Completes s.ctx t.ctx (s.ctx.pc + 4) ∧ KeepsRegs s.ctx t.ctx ∧ BytesKept s t

/-- A word of the descriptor at g[a]. -/
def descWord (s : State) (a : Reg) (i : Nat) : Word := s.mem.load (keySram s.cur.1 ((s.ctx.reg a).toNat + 8 * i)) 8

/-- A 32-byte descriptor in local SRAM may be read: its address is clean and aligned, the core's SRAM is the realm's, no
earlier store to it is in flight, and no word of it is poisoned (R260). -/
structure DescriptorAt (s : State) (a : Reg) : Prop where
  locks : Unlocked s [] [a]
  clean : s.ctx.psn a = false
  range : (s.ctx.reg a).toNat < 0x80000
  multiple : (s.ctx.reg a).toNat % 32 = 0
  compute : s.cur.1 ≠ mgmtCore
  owned : ownsCore s s.agent s.cur.1 needRead = true
  ready : settled s (.sram s.cur.1 (s.ctx.reg a).toNat false) 32 = true
  sound : ∀ i, i < 4 → s.mem.psn (keySram s.cur.1 ((s.ctx.reg a).toNat + 8 * i)) = false

/-- The addresses are canonical multiples of 8 (R260). -/
def GoodAddresses (s : State) (l : List Word) : Prop := ∀ v ∈ l, copyCanonical s v = true ∧ v.toNat % 8 = 0

/-! ### Traps (R268 to R273) -/

/-- The issuing context is a user context of a compute core whose supervisor handles no trap and has none waiting. -/
structure TakesTraps (s : State) : Prop where
  user : s.cur.2 < 7
  compute : s.cur.1 ≠ mgmtCore
  idle : (s.core s.cur.1).trap.active = false ∧ (s.core s.cur.1).trap.held = []

/-- Context k of core c is frozen at pc and the core's supervisor stands at its vector with the trap in its registers, marked
imprecise or not (R271, Table 11-3). -/
structure TrapsWith (imprec : Bool) (s t : State) (c k : Nat) (cause : BitVec 8) (pc val ctx : Word) : Prop where
  cause : (t.core c).trap.tcause = cause
  saved : (t.core c).trap.tpc = pc ∧ (t.core c).trap.tval = val ∧ (t.core c).trap.tctx = ctx
  status : (t.core c).trap.active = true ∧ (t.core c).trap.ctxv = true ∧
    (t.core c).trap.imprec = imprec ∧ (t.core c).trap.slot.toNat = k ∧ (t.core c).trap.gen = (s.ctxAt c k).gen
  kept : (t.core c).trap.tvec = (s.core c).trap.tvec ∧ (t.core c).trap.tscratch = (s.core c).trap.tscratch ∧
    (t.core c).trap.wskip = (s.core c).trap.wskip
  frozen : (t.ctxAt c k).frozen = true ∧ (t.ctxAt c k).pc = pc ∧ (t.ctxAt c k).occupied = (s.ctxAt c k).occupied
  regs : KeepsRegs (s.ctxAt c k) (t.ctxAt c k)
  handler : (t.ctxAt c 7).occupied = true ∧ (t.ctxAt c 7).pc = (s.core c).trap.tvec ++ 0#2 ∧
    KeepsRegs (s.ctxAt c 7) (t.ctxAt c 7)
  others : (∀ j, j ≠ k → j ≠ 7 → t.ctxAt c j = s.ctxAt c j) ∧ ∀ d, d ≠ c → t.core d = s.core d

/-- A precise trap of context k of core c. -/
def TrapsAt (s t : State) (c k : Nat) (cause : BitVec 8) (pc val ctx : Word) : Prop :=
  TrapsWith false s t c k cause pc val ctx

/-- The trap of the issuing context. -/
def TrapEntered (s t : State) (cause : BitVec 8) (pc val ctx : Word) : Prop := TrapsAt s t s.cur.1 s.cur.2 cause pc val ctx

/-- A supervisor's trap that no context is frozen for: WALK, or a notice (R271, R134, R290). -/
structure NoticeAt (s t : State) (c : Nat) (cause : BitVec 8) (val ctx : Word) : Prop where
  cause : (t.core c).trap.tcause = cause
  saved : (t.core c).trap.tpc = 0 ∧ (t.core c).trap.tval = val ∧ (t.core c).trap.tctx = ctx
  status : (t.core c).trap.active = true ∧ (t.core c).trap.ctxv = false ∧ (t.core c).trap.imprec = false
  handler : (t.ctxAt c 7).occupied = true ∧ (t.ctxAt c 7).pc = (s.core c).trap.tvec ++ 0#2 ∧
    KeepsRegs (s.ctxAt c 7) (t.ctxAt c 7)
  others : (∀ j, j ≠ 7 → t.ctxAt c j = s.ctxAt c j) ∧ ∀ d, d ≠ c → t.core d = s.core d

/-- The supervisor of core c has finished with its trap: ACTIVE is clear and slot 7 rests until the next one (R274). -/
structure HandlingEnds (s t : State) (c : Nat) : Prop where
  trap : (t.core c).trap = { (s.core c).trap with active := false, handled := none, wskip := (t.core c).trap.wskip }
  rests : (t.ctxAt c 7).occupied = false

/-- A request for an answer in g[d] is on its way: beside the issuing context the machine is as in u, and g[d] is locked
until the answer comes (R128, R164). -/
structure SendsRequest (s u t : State) (d : Reg) : Prop where
  frame : Alone u t
  base : { t.ctx.base with lock := [], obs := 0 } = { s.ctx.base with lock := [], obs := 0 }
  done : Completes s.ctx t.ctx (s.ctx.pc + 4)
  regs : KeepsRegs s.ctx t.ctx
  locks : LocksReg s.ctx t.ctx d

end Sys2Proof.Machine
end

