-- ==== Sys2Proof/Certificates/Slice0/Obligations.lean ====
section
/-!
DEFINITION. The statements for the provers. Each says which rules of spec/ it formalises; the terms Computes, Completes,
WritesReg, Alone and their like are in Sys2Proof/Safety.lean.
-/

open Sys2Proof Sys2Proof.Machine

/-! ### Integer results -/

/-- ADD, SUB, ADDI (R343, R411, R344): sums and differences modulo 2^64, or of the low words with the sign extended. The
logical forms (R349, R395, R436): register with register, or with a zero-extended immediate. The shifts (R402, R403): the
amount is the low five bits of g[b] in the .W forms and the low six otherwise, or the immediate's. Comparisons and minima
(R404, R390), signed and unsigned. -/
def Obligations.IntegerResults : Prop :=
  (
  (∀ d a b, Computes (.add d a b false) d [a, b] fun x => x.reg a + x.reg b) ∧
  (∀ d a b, Computes (.add d a b true) d [a, b] fun x => ((x.reg a + x.reg b).setWidth 32).signExtend 64) ∧
  (∀ d a b, Computes (.sub d a b false) d [a, b] fun x => x.reg a - x.reg b) ∧
  (∀ d a b, Computes (.sub d a b true) d [a, b] fun x => ((x.reg a - x.reg b).setWidth 32).signExtend 64) ∧
  (∀ d a i, Computes (.addi d a i) d [a] fun x => x.reg a + i.signExtend 64)) ∧ (
  (∀ d a b, Computes (.and d a b) d [a, b] fun x => x.reg a &&& x.reg b) ∧
  (∀ d a b, Computes (.or d a b) d [a, b] fun x => x.reg a ||| x.reg b) ∧
  (∀ d a b, Computes (.xor d a b) d [a, b] fun x => x.reg a ^^^ x.reg b) ∧
  (∀ d a i, Computes (.andi d a i) d [a] fun x => x.reg a &&& i.zeroExtend 64) ∧
  (∀ d a i, Computes (.ori d a i) d [a] fun x => x.reg a ||| i.zeroExtend 64) ∧
  (∀ d a i, Computes (.xori d a i) d [a] fun x => x.reg a ^^^ i.zeroExtend 64)) ∧ (
  (∀ d a b, Computes (.sll d a b false) d [a, b] fun x => x.reg a <<< ((x.reg b).setWidth 6).toNat) ∧
  (∀ d a b, Computes (.sll d a b true) d [a, b] fun x =>
    (((x.reg a).setWidth 32) <<< ((x.reg b).setWidth 5).toNat).signExtend 64) ∧
  (∀ d a b, Computes (.srl d a b false) d [a, b] fun x => x.reg a >>> ((x.reg b).setWidth 6).toNat) ∧
  (∀ d a b, Computes (.srl d a b true) d [a, b] fun x =>
    (((x.reg a).setWidth 32) >>> ((x.reg b).setWidth 5).toNat).signExtend 64) ∧
  (∀ d a b, Computes (.sra d a b false) d [a, b] fun x => (x.reg a).sshiftRight ((x.reg b).setWidth 6).toNat) ∧
  (∀ d a b, Computes (.sra d a b true) d [a, b] fun x =>
    (((x.reg a).setWidth 32).sshiftRight ((x.reg b).setWidth 5).toNat).signExtend 64) ∧
  (∀ d a k, Computes (.slli d a false k) d [a] fun x => x.reg a <<< k.toNat) ∧
  (∀ d a k, Computes (.slli d a true k) d [a] fun x => (((x.reg a).setWidth 32) <<< k.toNat).signExtend 64) ∧
  (∀ d a k, Computes (.srli d a false k) d [a] fun x => x.reg a >>> k.toNat) ∧
  (∀ d a k, Computes (.srli d a true k) d [a] fun x => (((x.reg a).setWidth 32) >>> k.toNat).signExtend 64) ∧
  (∀ d a k, Computes (.srai d a false k) d [a] fun x => (x.reg a).sshiftRight k.toNat) ∧
  (∀ d a k, Computes (.srai d a true k) d [a] fun x => (((x.reg a).setWidth 32).sshiftRight k.toNat).signExtend 64)) ∧ (
  (∀ d a b, Computes (.slt d a b) d [a, b] fun x => if (x.reg a).toInt < (x.reg b).toInt then 1 else 0) ∧
  (∀ d a b, Computes (.sltu d a b) d [a, b] fun x => if (x.reg a).toNat < (x.reg b).toNat then 1 else 0) ∧
  (∀ d a i, Computes (.slti d a i) d [a] fun x => if (x.reg a).toInt < i.toInt then 1 else 0) ∧
  (∀ d a i, Computes (.sltiu d a i) d [a] fun x => if (x.reg a).toNat < (i.signExtend 64).toNat then 1 else 0) ∧
  (∀ d a b, Computes (.min d a b) d [a, b] fun x => BitVec.ofInt 64 (Min.min (x.reg a).toInt (x.reg b).toInt)) ∧
  (∀ d a b, Computes (.max d a b) d [a, b] fun x => BitVec.ofInt 64 (Max.max (x.reg a).toInt (x.reg b).toInt)) ∧
  (∀ d a b, Computes (.minu d a b) d [a, b] fun x => BitVec.ofNat 64 (Min.min (x.reg a).toNat (x.reg b).toNat)) ∧
  (∀ d a b, Computes (.maxu d a b) d [a, b] fun x => BitVec.ofNat 64 (Max.max (x.reg a).toNat (x.reg b).toNat)))

/-- The multiplications (R393): the low half, or bits [127:64] of the signed or unsigned product. Division and remainder
(R365, R398, Table 9-3): a zero divisor gives all ones and the dividend; nothing traps. -/
def Obligations.ProductsAndQuotients : Prop :=
  (
  (∀ d a b, Computes (.mul d a b false) d [a, b] fun x => x.reg a * x.reg b) ∧
  (∀ d a b, Computes (.mul d a b true) d [a, b] fun x => ((x.reg a * x.reg b).setWidth 32).signExtend 64) ∧
  (∀ d a b, Computes (.mulh d a b) d [a, b] fun x =>
    ((x.reg a).signExtend 128 * (x.reg b).signExtend 128).extractLsb' 64 64) ∧
  (∀ d a b, Computes (.mulhu d a b) d [a, b] fun x =>
    ((x.reg a).zeroExtend 128 * (x.reg b).zeroExtend 128).extractLsb' 64 64)) ∧ (
  (∀ d a b, Computes (.div d a b false) d [a, b] fun x =>
    if x.reg b = 0 then BitVec.allOnes 64 else (x.reg a).sdiv (x.reg b)) ∧
  (∀ d a b, Computes (.div d a b true) d [a, b] fun x =>
    if (x.reg b).setWidth 32 = 0#32 then BitVec.allOnes 64
    else (((x.reg a).setWidth 32).sdiv ((x.reg b).setWidth 32)).signExtend 64) ∧
  (∀ d a b, Computes (.divu d a b false) d [a, b] fun x =>
    if x.reg b = 0 then BitVec.allOnes 64 else (x.reg a).udiv (x.reg b)) ∧
  (∀ d a b, Computes (.divu d a b true) d [a, b] fun x =>
    if (x.reg b).setWidth 32 = 0#32 then BitVec.allOnes 64
    else (((x.reg a).setWidth 32).udiv ((x.reg b).setWidth 32)).signExtend 64) ∧
  (∀ d a b, Computes (.rem d a b false) d [a, b] fun x =>
    if x.reg b = 0 then x.reg a else (x.reg a).srem (x.reg b)) ∧
  (∀ d a b, Computes (.rem d a b true) d [a, b] fun x =>
    if (x.reg b).setWidth 32 = 0#32 then ((x.reg a).setWidth 32).signExtend 64
    else (((x.reg a).setWidth 32).srem ((x.reg b).setWidth 32)).signExtend 64) ∧
  (∀ d a b, Computes (.remu d a b false) d [a, b] fun x =>
    if x.reg b = 0 then x.reg a else (x.reg a).umod (x.reg b)) ∧
  (∀ d a b, Computes (.remu d a b true) d [a, b] fun x =>
    if (x.reg b).setWidth 32 = 0#32 then ((x.reg a).setWidth 32).signExtend 64
    else (((x.reg a).setWidth 32).umod ((x.reg b).setWidth 32)).signExtend 64))

/-- CMOVNZ and CMOVZ (R358): taken, g[d] takes g[a] and the tags of g[a] and g[b]; not taken, g[d] keeps its value and its
tag gathers theirs. CLZ, CTZ, POPC (R357, R397): the zeros above the highest 1, the zeros below the lowest, the ones, of all
64 bits or of the low 32. LUI, ADDPC (R388, R345), the bit fields (R351) and CELLKEY (R355). The length of a field is l + 1.
-/
def Obligations.MovesCountsAndFields : Prop :=
  (
  ∀ (nz : Bool) (d a b : Reg) (s : State), Unlocked s [d] [a, b] →
    ∃ t, exec (if nz then .cmovnz d a b else .cmovz d a b) s = .next t ∧ Alone s t ∧ t.ctx.base = s.ctx.base ∧
      Completes s.ctx t.ctx (s.ctx.pc + 4) ∧
      let taken := (s.ctx.reg b != 0) == nz
      WritesReg s.ctx t.ctx d (if taken then s.ctx.reg a else s.ctx.reg d)
        ((!taken && s.ctx.psn d) || s.ctx.psn a || s.ctx.psn b)) ∧ (
  ∀ w : Bool, ∃ up down ones : Word → Word,
    (∀ d a, Computes (.clz d a w) d [a] fun x => down (x.reg a)) ∧
    (∀ d a, Computes (.ctz d a w) d [a] fun x => up (x.reg a)) ∧
    (∀ d a, Computes (.popc d a w) d [a] fun x => ones (x.reg a)) ∧
    ∀ x : Word, ∀ n, n = (if w then 32 else 64) →
      (down x).toNat ≤ n ∧ (∀ i, n ≤ i + (down x).toNat → i < n → x.getLsbD i = false) ∧
      ((down x).toNat < n → x.getLsbD (n - 1 - (down x).toNat) = true) ∧
      (up x).toNat ≤ n ∧ (∀ i, i < (up x).toNat → x.getLsbD i = false) ∧
      ((up x).toNat < n → x.getLsbD (up x).toNat = true) ∧
      (ones x).toNat = ((List.range n).filter fun i => x.getLsbD i).length) ∧ (
  (∀ d i, Computes (.lui d i) d [] fun _ => i.signExtend 64 * 2 ^ 16) ∧
  (∀ d i, Computes (.addpc d i) d [] fun x => x.pc + i.signExtend 64 * 4) ∧
  (∀ d a p l, p.toNat + l.toNat < 64 → Computes (.bextu d a p l) d [a] fun x =>
    BitVec.ofNat 64 ((x.reg a).toNat / 2 ^ p.toNat % 2 ^ (l.toNat + 1))) ∧
  (∀ d a p l, p.toNat + l.toNat < 64 → Computes (.bext d a p l) d [a] fun x =>
    BitVec.ofInt 64 (((x.reg a).extractLsb' p.toNat (l.toNat + 1)).toInt)) ∧
  (∀ d a p l, p.toNat + l.toNat < 64 → ∃ v : Word → Word → Word,
    Computes (.bins d a p l) d [d, a] (fun x => v (x.reg d) (x.reg a)) ∧
    ∀ x y : Word, ∀ i, i < 64 → (v x y).getLsbD i =
      if p.toNat ≤ i ∧ i ≤ p.toNat + l.toNat then y.getLsbD (i - p.toNat) else x.getLsbD i) ∧
  ∃ key : Word → Word, (∀ d a, Computes (.cellkey d a) d [a] fun x => key (x.reg a)) ∧
    ∀ x : Word, (key x).getLsbD 63 = false ∧ ∀ i, i < 21 → (key x).getLsbD (3 * i) = x.getLsbD i ∧
      (key x).getLsbD (3 * i + 1) = x.getLsbD (21 + i) ∧ (key x).getLsbD (3 * i + 2) = x.getLsbD (42 + i))

/-! ### Control flow -/

/-- The conditions of Table 14-2 (R350), operands clean. The jumps (R382): g[d] takes PC + 4 with a clear tag and the PC the
target, g[a] read first; JALR to an address that is no multiple of 4 raises ALIGN and leaves g[d]. A poisoned register
raises POISON with consumer kind 3, in a branch g[a] first (R277). -/
def Obligations.BranchesAndJumps : Prop :=
  (
  BranchesOn .beq (fun x y => x == y) ∧ BranchesOn .bne (fun x y => x != y) ∧
  BranchesOn .blt (fun x y => decide (x.toInt < y.toInt)) ∧ BranchesOn .bge (fun x y => decide (y.toInt ≤ x.toInt)) ∧
  BranchesOn .bltu (fun x y => decide (x.toNat < y.toNat)) ∧ BranchesOn .bgeu (fun x y => decide (y.toNat ≤ x.toNat))) ∧ (
  ∀ s,
    (∀ d k, Unlocked s [d] [] → ∃ t, exec (.jal d k) s = .next t ∧ Alone s t ∧ t.ctx.base = s.ctx.base ∧
      Completes s.ctx t.ctx (s.ctx.pc + k.signExtend 64 * 4) ∧ WritesReg s.ctx t.ctx d (s.ctx.pc + 4) false) ∧
    (∀ d a k, Unlocked s [d] [a] → s.ctx.psn a = false → (s.ctx.reg a + k.signExtend 64).toNat % 4 = 0 →
      ∃ t, exec (.jalr d a k) s = .next t ∧ Alone s t ∧ t.ctx.base = s.ctx.base ∧
        Completes s.ctx t.ctx (s.ctx.reg a + k.signExtend 64) ∧ WritesReg s.ctx t.ctx d (s.ctx.pc + 4) false) ∧
    (∀ d a k, Unlocked s [d] [a] → s.ctx.psn a = false → (s.ctx.reg a + k.signExtend 64).toNat % 4 ≠ 0 → TakesTraps s →
      ∃ t, exec (.jalr d a k) s = .next t ∧ Alone { s with cores := t.cores, clusters := t.clusters, mem := t.mem } t ∧
        BytesKept s t ∧
        (s.ctx.wait = none → t.clusters = s.clusters ∧ t.mem = { s.mem with walks := t.mem.walks }) ∧
        TrapEntered s t 0x03 s.ctx.pc (s.ctx.reg a + k.signExtend 64) 0)) ∧ (
  ∀ s, TakesTraps s →
    (∀ i ∈ [Instr.beq, .bne, .blt, .bge, .bltu, .bgeu], ∀ a b k r, Unlocked s [] [a, b] →
      r = (if s.ctx.psn a then a else b) → s.ctx.psn r = true →
      ∃ t, exec (i a b k) s = .next t ∧
        TrapEntered s t 0x09 s.ctx.pc (s.ctx.reg r) (BitVec.ofNat 64 (r.toNat * 256 + 3))) ∧
    (∀ d a k, Unlocked s [d] [a] → s.ctx.psn a = true → ∃ t, exec (.jalr d a k) s = .next t ∧
      TrapEntered s t 0x09 s.ctx.pc (s.ctx.reg a) (BitVec.ofNat 64 (a.toNat * 256 + 3))))

/-! ### Scalar floating point -/

/-- The two-operand and fused arithmetic, and the square root (R372, R378, Tables 15-1 and 15-3): the operands are the
format's low bits, the mode is the field's or FRM's; what the operations deliver is RoundedResults'. CLFLAGS takes the flags
in the same step (log 23: the model's choice). -/
def Obligations.ScalarFloatArithmetic : Prop :=
  ComputesArith .fadd fpAdd ∧ ComputesArith .fsub (fun f r x y => fpAdd f r x y.negate) ∧
  ComputesArith .fmul fpMul ∧ ComputesArith .fdiv fpDiv ∧
  (∀ d a f r, ComputesFloat (.fsqrt d a f r) d [a] fun x =>
    fpSqrt (fmtOf f) (rmMode r x.frm) (operand (fmtOf f) (x.reg a))) ∧
  ComputesFused .fma false false ∧ ComputesFused .fms false true ∧ ComputesFused .fnma true false ∧
  ComputesFused .fnms true true

/-- What the arithmetic delivers in the scalar formats: for finite operands the exact result rounded once in the mode, with the
sign of an exact zero and the flags OF, UF and NX (R222, R225, R228); DZ (R228); infinities; and NaNs, with NV exactly in R226's
cases (R217, R226). In every format of Table 9-1 the bits of a finite magnitude stand for it (R216). -/
def Obligations.RoundedResults : Prop :=
  (
  ∀ f ∈ [fp64, fp32, bf16, fp16, e4m3, e5m2, e3m2, e2m3, e2m1], ∀ b, b ≤ f.maxFinite →
    ∃ m e, unpack f b = .fin false m e ∧ (Fp.fin false m e).toRat = f.magnitude b) ∧ (
  ∀ (g : FFmt) (r : RMode) (a b c : Bool) (m n l : Nat) (i j k : Int),
    let f := fmtOf g
    let x := Fp.fin a m i
    let y := Fp.fin b n j
    let z := Fp.fin c l k
    RoundsRat f r (x.toRat + y.toRat) (zeroSign r a b) (fpAdd f r x y) ∧
    RoundsRat f r (x.toRat - y.toRat) (zeroSign r a !b) (fpSub f r x y) ∧
    RoundsRat f r (x.toRat * y.toRat) (a != b) (fpMul f r x y) ∧
    (n ≠ 0 → RoundsRat f r (x.toRat / y.toRat) (a != b) (fpDiv f r x y)) ∧
    (a = false ∨ m = 0 → RoundsTo f r a (fun v => ordOf (v * v) x.toRat) (fpSqrt f r x)) ∧
    RoundsRat f r (x.toRat * y.toRat + z.toRat) (zeroSign r (a != b) c) (fpFma f r x y z)) ∧ (
  ∀ (g : FFmt) (r : RMode) (a b : Bool) (m n : Nat) (i j : Int) (z : Fp),
    let f := fmtOf g
    let x := Fp.fin a m i
    let y := Fp.fin b n j
    let inf (s : Bool) : Nat × Flags := ((if s then f.signBit else 0) + f.inf, 0)
    let invalid : Nat × Flags := (f.nan, flagNV)
    fpDiv f r x (.fin b 0 j) = (if m = 0 then invalid else ((inf (a != b)).1, flagDZ)) ∧
    (a = true → m ≠ 0 → fpSqrt f r x = invalid) ∧ fpSqrt f r (.inf a) = (if a then invalid else inf false) ∧
    fpAdd f r (.inf a) y = inf a ∧ fpAdd f r y (.inf a) = inf a ∧
    fpAdd f r (.inf a) (.inf b) = (if a = b then inf a else invalid) ∧
    fpMul f r (.inf a) y = (if n = 0 then invalid else inf (a != b)) ∧
    fpMul f r y (.inf a) = (if n = 0 then invalid else inf (b != a)) ∧ fpMul f r (.inf a) (.inf b) = inf (a != b) ∧
    fpDiv f r (.inf a) y = inf (a != b) ∧ fpDiv f r y (.inf a) = ((if b != a then f.signBit else 0), 0) ∧
    fpDiv f r (.inf a) (.inf b) = invalid ∧
    (n = 0 → fpFma f r (.inf a) y z = invalid ∧ fpFma f r y (.inf a) z = invalid) ∧
    (∀ s, fpFma f r x y (.inf s) = inf s) ∧
    (n ≠ 0 → fpFma f r (.inf a) y x = inf (a != b) ∧
      ∀ s, fpFma f r (.inf a) y (.inf s) = if (a != b) = s then inf s else invalid)) ∧ (
  ∀ (g : FFmt) (r : RMode) (x y z : Fp),
    let f := fmtOf g
    (∀ op ∈ [fpAdd, fpSub, fpMul, fpDiv], x.isNan || y.isNan →
      op f r x y = (f.nan, if x.isSnan || y.isSnan then flagNV else 0)) ∧
    (x.isNan → fpSqrt f r x = (f.nan, if x.isSnan then flagNV else 0)) ∧
    (x.isNan || y.isNan || z.isNan →
      (fpFma f r x y z).1 = f.nan ∧ ((fpFma f r x y z).2 = flagNV ∨ (fpFma f r x y z).2 = 0) ∧
      (x.isNan || y.isNan → (fpFma f r x y z).2 = if x.isSnan || y.isSnan || z.isSnan then flagNV else 0)))

/-- Comparisons, minima, classes and signs (R377, R379, R373, R380, R227). The conversions (R374, R231, R232): a
floating-point result is rounded once, in every format of Table 9-1; an integer is rounded and clamped to its range, an
infinity gives the range's limit and a NaN 0; I32 results are sign-extended, others zero-extended. CLFLAGS takes the flags
in the same step (log 23: the model's choice). -/
def Obligations.ScalarTestsAndConversions : Prop :=
  (
  ComputesTest .feq true (fun o => o == .eq) ∧ ComputesTest .flt false (fun o => o == .lt) ∧
  ComputesTest .fle false (fun o => o == .lt || o == .eq) ∧
  ComputesExtreme .fmin false ∧ ComputesExtreme .fmax true ∧
  (∀ d a f, Computes (.fclass d a f) d [a] fun c => 2 ^ classBit (fmtOf f) (operandBits (fmtOf f) (c.reg a))) ∧
  (∀ d a b f m, ComputesFloat (.fsgn d a b f m) d [a, b] fun c =>
    let u := operandBits (fmtOf f) (c.reg a)
    let v := operandBits (fmtOf f) (c.reg b)
    let neg (z : Nat) : Bool := z / (fmtOf f).signBit % 2 == 1
    let s := match m with
      | .cpy => neg v
      | .neg => !neg v
      | .xor => neg u != neg v
    if (unpack (fmtOf f) u).isNan then ((fmtOf f).nan, if (unpack (fmtOf f) u).isSnan then flagNV else 0)
    else (u % (fmtOf f).signBit + (if s then (fmtOf f).signBit else 0), 0))) ∧ (
  (∀ d a t f r, ComputesFloat (.fcvtI d a t f r) d [a] fun c =>
    let n := fpToInt (itypeRange t).1 (itypeRange t).2 (rmMode r c.frm) (operand (fmtOf f) (c.reg a))
    ((BitVec.ofInt 64 n.1).toNat, n.2)) ∧
  (∀ d a t f r, ComputesFloat (.fcvtF d a t f r) d [a] fun c =>
    intToFp (fmtOf f) (rmMode r c.frm) (match t with
      | .i64 => (c.reg a).toInt
      | .n64 => (c.reg a).toNat
      | .i32 => ((c.reg a).extractLsb' 0 32).toInt
      | .n32 => ((c.reg a).extractLsb' 0 32).toNat)) ∧
  (∀ d a f g r, ComputesFloat (.fcvtFF d a f g r) d [a] fun c =>
    fpConvert (fmtOf g) (rmMode r c.frm) (operand (fmtOf f) (c.reg a))) ∧
  (∀ f ∈ [fp64, fp32, bf16, fp16, e4m3, e5m2, e3m2, e2m3, e2m1], ∀ (r : RMode) (a : Bool) (m : Nat) (e : Int) (v : Int),
    RoundsRat f r (Fp.fin a m e).toRat a (fpConvert f r (.fin a m e)) ∧ RoundsRat f r v false (intToFp f r v) ∧
    fpConvert f r (.nan a) = (f.nan, if a = true ∨ f.special = .none then flagNV else 0) ∧
    fpConvert f r (.inf a) = ((if a then f.signBit else 0) + (if f.special = .ieee then f.inf else f.maxFinite),
      if f.special = .ieee then 0 else flagNV)) ∧
  ∀ (t : IType) (r : RMode) (a : Bool) (m : Nat) (e : Int) (x : Fp),
    let cvt (x : Fp) : Int × Flags := fpToInt (itypeRange t).1 (itypeRange t).2 r x
    let lim : Int × Int := match t with
      | .i64 => (-2 ^ 63, 2 ^ 63 - 1)
      | .n64 => (0, 2 ^ 64 - 1)
      | .i32 => (-2 ^ 31, 2 ^ 31 - 1)
      | .n32 => (0, 2 ^ 32 - 1)
    RoundsToInt lim.1 lim.2 r (Fp.fin a m e).toRat (cvt (.fin a m e)) ∧
    cvt (.inf a) = (if a then lim.1 else lim.2, flagNV) ∧ (x.isNan = true → cvt x = (0, flagNV)) ∧
    lim.1 ≤ (cvt x).1 ∧ (cvt x).1 ≤ lim.2)

/-! ### Loads and stores -/

/-- LD, LDX, LDPC and an LDO that is no acquire (R383, R384, R386, R387, R385): the access is posted with g[d] locked, and
the context goes on. ST, STX and an STO that is no release (R405, R406, R410, R409): the access is posted with its data and
tag, and the context goes on; no byte has changed yet. Poisoned data may not leave the package (R278). -/
def Obligations.LoadsAndStoresArePosted : Prop :=
  (
  ∀ s p, p.posts = true →
    (∀ d a i z, Unlocked s [d] [a] → s.ctx.psn a = false →
      let va := s.ctx.reg a + i.signExtend 64 * BitVec.ofNat 64 (ldBytes z)
      Accesses s va (ldBytes z) needLoad p → ∃ t, exec (.ld d a i z) s = .next t ∧
        Posts s t (postedBy s va p (ldBytes z) false 0 false d (ldSigned z)) d) ∧
    (∀ d a b k z, Unlocked s [d] [a, b] → s.ctx.psn a = false → s.ctx.psn b = false →
      let va := s.ctx.reg a + s.ctx.reg b * BitVec.ofNat 64 (2 ^ k.toNat)
      Accesses s va (ldBytes z) needLoad p → ∃ t, exec (.ldx d a b k z) s = .next t ∧
        Posts s t (postedBy s va p (ldBytes z) false 0 false d (ldSigned z)) d) ∧
    (∀ d i, Unlocked s [d] [] → Accesses s (s.ctx.pc + i.signExtend 64 * 8) 8 needLoad p →
      ∃ t, exec (.ldpc d i) s = .next t ∧
        Posts s t (postedBy s (s.ctx.pc + i.signExtend 64 * 8) p 8 false 0 false d false) d) ∧
    (∀ d a c o z, Unlocked s [d] [a] → s.ctx.psn a = false → acquiring o = false →
      Accesses s (s.ctx.reg a) (mBytes z) needLdo p → ∃ t, exec (.ldo d a c o z) s = .next t ∧
        Posts s t (postedBy s (s.ctx.reg a) p (mBytes z) false 0 false d true) d)) ∧ (
  ∀ s p, p.posts = true →
    (∀ b a i z, Unlocked s [] [b, a] → s.ctx.psn a = false → (p.export = true → s.ctx.psn b = false) →
      let va := s.ctx.reg a + i.signExtend 64 * BitVec.ofNat 64 (stBytes z)
      Accesses s va (stBytes z) needStore p → ∃ t, exec (.st b a i z) s = .next t ∧
        Posts s t (postedBy s va p (stBytes z) true (s.ctx.reg b) (s.ctx.psn b) 0 false) 0) ∧
    (∀ v a b k z, Unlocked s [] [v, a, b] → s.ctx.psn a = false → s.ctx.psn b = false →
      (p.export = true → s.ctx.psn v = false) →
      let va := s.ctx.reg a + s.ctx.reg b * BitVec.ofNat 64 (2 ^ k.toNat)
      Accesses s va (stBytes z) needStore p → ∃ t, exec (.stx v a b k z) s = .next t ∧
        Posts s t (postedBy s va p (stBytes z) true (s.ctx.reg v) (s.ctx.psn v) 0 false) 0) ∧
    (∀ a b c o z, Unlocked s [] [a, b] → s.ctx.psn a = false → (o = .plain ∨ o = .acq) →
      (p.export = true → s.ctx.psn b = false) → Accesses s (s.ctx.reg a) (mBytes z) needSto p →
      ∃ t, exec (.sto a b c o z) s = .next t ∧
        Posts s t (postedBy s (s.ctx.reg a) p (mBytes z) true (s.ctx.reg b) (s.ctx.psn b) 0 false) 0))

/-- Accesses to another package (R175): issued, they are sent and the context waits at its instruction; issued again with
the answer to what it asked for, the instruction completes with it. The FIFO ports (R180): a load at +0x00 pops the oldest
entry, or sleeps on an empty FIFO; at +0x08 it reads the count; a store at +0x00 pushes, once its release is done, or sleeps
on a full one; at +0x08 it empties the FIFO; FIFO_PORT_WAKE completes the oldest sleeper once its entry or its room is
there. -/
def Obligations.OtherPackagesAndPorts : Prop :=
  (
  ∀ s d a i q pa w, Unlocked s [d] [a] → Unlocked s [] [d, a] → s.ctx.psn a = false →
    (∀ z, let va := s.ctx.reg a + i.signExtend 64 * BitVec.ofNat 64 (ldBytes z)
      (Accesses s va (ldBytes z) needLoad (.other q pa w) → s.ctx.answer = none → ∃ t, exec (.ld d a i z) s = .next t ∧
        Asks s t (postedBy s va (.other q pa w) (ldBytes z) false 0 false 0 false)) ∧
      (∀ v p, s.answered = some (.other q pa w) → s.ctx.answer = some (v, p) →
        WritesAs (.ld d a i z) s s d (extendBytes v (ldBytes z) (ldSigned z)) p)) ∧
    (∀ z, s.ctx.psn d = false → let va := s.ctx.reg a + i.signExtend 64 * BitVec.ofNat 64 (stBytes z)
      (Accesses s va (stBytes z) needStore (.other q pa w) → s.ctx.answer = none → ∃ t, exec (.st d a i z) s = .next t ∧
        Asks s t (postedBy s va (.other q pa w) (stBytes z) true (s.ctx.reg d) false 0 false)) ∧
      (s.answered = some (.other q pa w) → EndsAs (.st d a i z) s s))) ∧ (
  ∀ s d a i c b port, s.ctx.psn a = false →
    let va := s.ctx.reg a + i.signExtend 64 * 8
    let bank := s.bank c b
    bank.sleepers = [] →
    (Unlocked s [d] [a] → Accesses s va 8 needLoad (.fifo c b port) → settled s (.fifo c b port) 8 = true →
      (port = 8 → WritesAs (.ld d a i .d) s s d (BitVec.ofNat 64 bank.fifo.length) false) ∧
      (port = 0 → ∀ v p rest, bank.fifo = (v, p) :: rest → ∃ t, exec (.ld d a i .d) s = .next t ∧
        CompletesAt s t 0 ∧ WritesReg s.ctx t.ctx d v p ∧ t.bank c b = { bank with fifo := rest } ∧ t.mem = s.mem) ∧
      (port = 0 → bank.fifo = [] → ∃ t, exec (.ld d a i .d) s = .next t ∧ OnlyMemory s t ∧ t.mem = s.mem ∧
        t.bank c b = { bank with sleepers := [(s.cur.1, s.cur.2, none, d.toNat)] } ∧
        (t.ctx.wait.map fun w => (w.kind, w.val)) = some (.fifo, va) ∧ t.ctx.pc = s.ctx.pc ∧ KeepsRegs s.ctx t.ctx)) ∧
    (Unlocked s [] [d, a] → Accesses s va 8 needStore (.fifo c b port) →
      (port = 8 → settled s (.fifo c b port) 8 = true → ∃ t, exec (.st d a i .d) s = .next t ∧ CompletesAt s t 0 ∧
        KeepsRegs s.ctx t.ctx ∧ t.bank c b = { bank with fifo := [] } ∧ t.mem = s.mem) ∧
      (port = 0 → releaseDone s .cluster = true → bank.fifo.length < 65536 →
        ∃ t, exec (.st d a i .d) s = .next t ∧ CompletesAt s t 0 ∧ KeepsRegs s.ctx t.ctx ∧
          t.bank c b = { bank with fifo := bank.fifo ++ [(s.ctx.reg d, s.ctx.psn d)] } ∧ t.mem = s.mem))) ∧ (
  ∀ s (n : BitVec 8) (b : BitVec 4) c z rest,
    let x := s.bank n.toNat b.toNat
    let y := s.ctxAt c z
    (∀ e d, x.sleepers = (c, z, some e, d) :: rest → x.fifo.length < 65536 →
      ∃ t, exec (.fifoPortWake n b) s = .next t ∧ t.mem = s.mem ∧
        t.bank n.toNat b.toNat = { x with fifo := x.fifo ++ [e], sleepers := rest } ∧
        Completes y (t.ctxAt c z) (y.pc + 4) ∧ KeepsRegs y (t.ctxAt c z)) ∧
    (∀ d v p q, x.sleepers = (c, z, none, d) :: rest → x.fifo = (v, p) :: q →
      ∃ t, exec (.fifoPortWake n b) s = .next t ∧ t.mem = s.mem ∧
        t.bank n.toNat b.toNat = { x with fifo := q, sleepers := rest } ∧
        Completes y (t.ctxAt c z) (y.pc + 4) ∧ WritesReg y (t.ctxAt c z) (BitVec.ofNat 5 d) v p))

/-- LDO as an acquire and STO as a release (R385, R409, R202, R203): they act in their own step (log 12: the model's
choice), the load at the copy that the context reads, the store at the place itself, once the cluster's copy of the line is
written back and given up (log 20). A release's store is no plain write, so that an armed arrival word keeps its COUNT and
GEN (R211, log 75). -/
def Obligations.OrderedLoadsAndStores : Prop :=
  ∀ s a c o z p k, s.ctx.psn a = false → p.key? s = some k → cacheWaits s s.cur.1 p = false →
    (∀ d, Unlocked s [d] [a] → acquiring o = true → Accesses s (s.ctx.reg a) (mBytes z) needLdo p →
      settled s p (mBytes z) = true →
      ∃ t, exec (.ldo d a c o z) s = .next t ∧ Completes s.ctx t.ctx (s.ctx.pc + 4) ∧
        BytesKept (readNow p (mBytes z) s).2 t ∧
        ((usesCache s s.cur.1 p = false ∨ ∀ f, p.offset? = some f → HasRoom s (clusterOf s.cur.1) f) → BytesKept s t) ∧
        WritesReg s.ctx t.ctx d (extendBytes (readNow p (mBytes z) s).1.1 (mBytes z) true) (readNow p (mBytes z) s).1.2 ∧
        StaleAfter s t true c ∧
        (usesCache s s.cur.1 p = false → p.direct = true → k % mBytes z = 0 →
          CompletesAt s t 0 ∧ t.mem = s.mem ∧ (readNow p (mBytes z) s).1 = (s.mem.load k (mBytes z), s.mem.psn k))) ∧
    (∀ b, Unlocked s [] [a, b] → (o = .rel ∨ o = .acqRel) → Accesses s (s.ctx.reg a) (mBytes z) needSto p →
      (p.export = true → s.ctx.psn b = false) → s.ctx.answer = none → releaseDone s c = true →
      settled s p (mBytes z) = true →
      ∃ t, exec (.sto a b c o z) s = .next t ∧ CompletesAt s t 0 ∧ KeepsRegs s.ctx t.ctx ∧
        Holds t k (mBytes z) (s.ctx.reg b) ∧ BytesKeptOutside (giveUp s p) t k (mBytes z))

/-! ### Atomics and fences -/

/-- The operations of Table 14-1 (R346, R347): sums, logical operations, minima and maxima, the exchange. AMO.CAS and
AMO.FADD (R346, R348, Table 14-1): the operand where the old value equals g[d]; the sum in FP32 or FP64 rounded to nearest
even, answered zero-extended. An atomic acts in its own step (log 12) and is no plain write: an armed arrival word takes it too
(R211, log 75). -/
def Obligations.AtomicForms : Prop :=
  (
  Atomic .amoAdd false false (fun _ o v _ => o + v) (fun _ _ _ => 0) ∧
  Atomic .amoAnd false false (fun _ o v _ => o &&& v) (fun _ _ _ => 0) ∧
  Atomic .amoOr false false (fun _ o v _ => o ||| v) (fun _ _ _ => 0) ∧
  Atomic .amoXor false false (fun _ o v _ => o ^^^ v) (fun _ _ _ => 0) ∧
  Atomic .amoMin false false (fun n o v _ =>
    if (extendBytes v n true).toInt < (extendBytes o n true).toInt then v else o) (fun _ _ _ => 0) ∧
  Atomic .amoMax false false (fun n o v _ =>
    if (extendBytes o n true).toInt < (extendBytes v n true).toInt then v else o) (fun _ _ _ => 0) ∧
  Atomic .amoMinu false false (fun n o v _ =>
    if (extendBytes v n false).toNat < (extendBytes o n false).toNat then v else o) (fun _ _ _ => 0) ∧
  Atomic .amoMaxu false false (fun n o v _ =>
    if (extendBytes o n false).toNat < (extendBytes v n false).toNat then v else o) (fun _ _ _ => 0) ∧
  Atomic .amoSwap false false (fun _ _ v _ => v) (fun _ _ _ => 0)) ∧ (
  Atomic .amoCas true false (fun n o v e => if extendBytes o n false = extendBytes e n false then v else o)
    (fun _ _ _ => 0) ∧
  Atomic .amoFadd false true
    (fun n o v _ => let f := if n = 4 then fp32 else fp64
      BitVec.ofNat 64 (fpAdd f .rne (operand f o) (operand f v)).1)
    (fun n o v => let f := if n = 4 then fp32 else fp64
      (fpAdd f .rne (operand f o) (operand f v)).2))

/-- FENCE (R204, R207): an acquire completes once what it waits for has happened, a release once the release is done; the
next instruction follows, and no register and no byte changes. -/
def Obligations.Fences : Prop :=
  ∀ s c o sc,
    (o = .plain ∨ o = .acq → acquireReady s c = true →
      ∃ t, exec (.fence c o sc) s = .next t ∧ CompletesAt s t 0 ∧ KeepsRegs s.ctx t.ctx ∧ t.mem = s.mem ∧
        StaleAfter s t true c) ∧
    (o = .rel ∨ o = .acqRel → releaseDone s c = true →
      ∃ t, exec (.fence c o sc) s = .next t ∧ CompletesAt s t 0 ∧ KeepsRegs s.ctx t.ctx ∧
        t.mem = (passWindow s c).mem ∧ BytesKept s t ∧ StaleAfter s t (acquiring o) c) ∧
    (o = .rel ∨ o = .acqRel → releaseDone s c = false → ∃ t, exec (.fence c o sc) s = .next t ∧
      t.ctx.pc = s.ctx.pc ∧ t.ctx.instret = s.ctx.instret ∧ t.ctx.stalled = true ∧ KeepsRegs s.ctx t.ctx ∧ t.mem = s.mem)

/-! ### Full-empty words -/

/-- LDFE and LDFE.TAKE (R375, R213, R214): on a full word they complete with its value, and TAKE empties it; on an empty one
the context sleeps in the word's queue, in its place by cycle, core and slot. STFE and STFE.FILL (R407, R408): after their
release STFE writes an empty word and fills it, or sleeps on a full one; STFE.FILL writes and fills either. Their write is a
plain one: the word is no armed arrival word (R408). -/
def Obligations.FullEmptyAccesses : Prop :=
  (
  ∀ (take : Bool) s d a c p k, Unlocked s [d] [a] → s.ctx.psn a = false → s.cur.1 ≠ mgmtCore →
    inGlobal (s.ctx.reg a) = false → Accesses s (s.ctx.reg a) 8 (if take then needTake else needRead) p →
    p.key? s = some k → settled s p 8 = true → s.mem.feServed k = false →
    let i := if take then Instr.ldfeTake d a c else .ldfe d a c
    (s.mem.isFull k = true → ∃ t, exec i s = .next t ∧ CompletesAt s t 0 ∧
      WritesReg s.ctx t.ctx d (s.mem.load k 8) (s.mem.psn k) ∧ BytesKept s t ∧
      t.mem = (if take then s.mem.setFull k false else s.mem) ∧ StaleAfter s t true c) ∧
    (s.mem.isFull k = false → ∃ t, exec i s = .next t ∧ OnlyMemory s t ∧ BytesKept s t ∧ KeepsRegs s.ctx t.ctx ∧
      t.ctx.pc = s.ctx.pc ∧ (t.ctx.wait.map fun w => (w.kind, w.val)) = some (.fullEmpty, s.ctx.reg a) ∧
      Queued s t k c (if take then .take d.toNat else .ldfe d.toNat))) ∧ (
  ∀ (fill : Bool) s a b c p k, Unlocked s [] [a, b] → s.ctx.psn a = false → s.cur.1 ≠ mgmtCore →
    inGlobal (s.ctx.reg a) = false → Accesses s (s.ctx.reg a) 8 needWrite p → p.key? s = some k →
    (p.export = true → s.ctx.psn b = false) → s.ctx.answer = none → releaseDone s c = true → settled s p 8 = true →
    s.mem.feServed k = false →
    let i := if fill then Instr.stfeFill a b c else .stfe a b c
    (fill = true ∨ s.mem.isFull k = false → s.mem.isArmed (k - k % 16) = false →
      ∃ t, exec i s = .next t ∧ CompletesAt s t 0 ∧ KeepsRegs s.ctx t.ctx ∧ Holds t k 8 (s.ctx.reg b) ∧
        BytesKeptOutside s t k 8 ∧ t.mem.isFull k = true) ∧
    (fill = false → s.mem.isFull k = true → ∃ t, exec i s = .next t ∧ OnlyMemory s t ∧ BytesKept s t ∧
      KeepsRegs s.ctx t.ctx ∧ t.ctx.pc = s.ctx.pc ∧
      (t.ctx.wait.map fun w => (w.kind, w.val)) = some (.fullEmpty, s.ctx.reg a) ∧
      Queued s t k c (.stfe (s.ctx.reg b) (s.ctx.psn b))))

/-- FEEMPTY clears the bit and FEPROBE reads it; neither waits for it nor touches the data (R375, R376). FE_QUEUE_SERVICE
(R214), where no round has been served in this cycle: an LDFE at the head of a full word's queue completes with its value; a
TAKE completes with it, and empties the word; an STFE at the head of an empty word's queue completes, writes the word, which
is no armed arrival word, and fills it; after both the rest of the queue waits for the next cycle. -/
def Obligations.FullEmptyBitsAndService : Prop :=
  (
  ∀ s a p k, s.ctx.psn a = false → s.cur.1 ≠ mgmtCore → inGlobal (s.ctx.reg a) = false → p.key? s = some k →
    settled s p 8 = true → s.mem.feServed k = false →
    (Unlocked s [] [a] → Accesses s (s.ctx.reg a) 8 { needWrite with quiet := true } p →
      ∃ t, exec (.feempty a) s = .next t ∧ AloneBut (s.mem.setFull k false) s t ∧ t.ctx.base = s.ctx.base ∧
        Completes s.ctx t.ctx (s.ctx.pc + 4) ∧ KeepsRegs s.ctx t.ctx ∧ BytesKept s t ∧
        t.mem.isFull k = false) ∧
    (∀ d, Unlocked s [d] [a] → Accesses s (s.ctx.reg a) 8 { needRead with quiet := true } p →
      WritesAs (.feprobe d a) s s d (if s.mem.isFull k then 1 else 0) false)) ∧ (
  ∀ s k z rest, s.mem.sleepers k = z :: rest → (∀ y ∈ rest, (y.core, y.slot) ≠ (z.core, z.slot)) →
    isForeign z.core = false → (∀ y ∈ z :: rest, y.turn ≠ some s.cycle.toNat) →
    let x := s.ctxAt z.core z.slot
    let later := rest.map fun y => { y with turn := some s.cycle.toNat }
    (∀ d, z.kind = .ldfe d ∨ z.kind = .take d → s.mem.isFull k = true →
      ∃ t, exec (.feQueueService k) s = .next t ∧ Completes x (t.ctxAt z.core z.slot) (x.pc + 4) ∧
        WritesReg x (t.ctxAt z.core z.slot) (BitVec.ofNat 5 d) (s.mem.load k 8) (s.mem.psn k) ∧
        (z.kind = .take d → BytesKept s t ∧ t.mem.sleepers k = later ∧ t.mem.isFull k = false)) ∧
    (∀ v q, z.kind = .stfe v q → s.mem.isFull k = false → (placeOfKey k).key? s = some k →
      s.mem.isArmed (k - k % 16) = false → ∃ t, exec (.feQueueService k) s = .next t ∧
      Completes x (t.ctxAt z.core z.slot) (x.pc + 4) ∧
        KeepsRegs x (t.ctxAt z.core z.slot) ∧ Holds t k 8 v ∧ BytesKeptOutside s t k 8 ∧ t.mem.isFull k = true ∧
        t.mem.sleepers k = later))

/-! ### Cache lines and line transactions -/

/-- The CACHE forms (R188): PREF completes without a trap and brings the line in where the cluster's cache holds such lines,
a fill writing back the line it displaces (R179): in its own step (log 22) and with the translation that log 19 gives it,
the model's choices; CLEAN writes the cluster's copy of the line back; INVAL drops it; ZEROL posts 16 stores of 0, one for
each word of the line, of which each is performed after the one before it (log 39). -/
def Obligations.CacheForms : Prop :=
  ∀ s a, Unlocked s [] [a] →
    (s.ctx.psn a = true ∨ inGlobal (s.ctx.reg a) = false ∨ s.cur.1 = mgmtCore → EndsAs (.pref a) s s) ∧
    ((∀ p, resolve s s.agent (s.ctx.reg a) 1 {} false true = .ok p →
        cacheWaits s s.cur.1 p = false ∧ settled s p.lineStart 128 = true) →
      ∃ t, exec (.pref a) s = .next t ∧
        Alone { s with mem := t.mem, notes := t.notes, clusters := t.clusters, routers := t.routers, errs := t.errs,
                       mgmt := t.mgmt } t ∧
        t.ctx.base = s.ctx.base ∧ Completes s.ctx t.ctx (s.ctx.pc + 4) ∧ KeepsRegs s.ctx t.ctx ∧
        ((tlbLookup s s.cur.1 s.agent.realm (s.ctx.reg a)).isSome = true →
          (∀ p o, resolve s s.agent (s.ctx.reg a) 1 {} false true = .ok p → p.offset? = some o →
            HasRoom s (clusterOf s.cur.1) o) → BytesKept s t) ∧
        ∀ p o, s.ctx.psn a = false → inGlobal (s.ctx.reg a) = true →
          resolve s s.agent (s.ctx.reg a) 1 {} false true = .ok p → p.offset? = some o → usesCache s s.cur.1 p = true →
          ∃ l, (t.cluster (clusterOf s.cur.1)).line o = some l ∧ l.present = BitVec.allOnes 128) ∧
    (s.ctx.psn a = false → ∀ p, settled s p.lineStart 128 = true → cacheWaits s s.cur.1 p = false →
      (AccessesLine s (s.ctx.reg a) { rd := true, noOwner := true } p →
        (∀ o, p.offset? = some o →
          EndsAs (.clean a) s (if s.cur.1 = mgmtCore then s else writeBackLine s (clusterOf s.cur.1) o)) ∧
        (∀ c o w, p = .sram c o w ∨ p = .scratch c o w → EndsAs (.clean a) s s)) ∧
      (AccessesLine s (s.ctx.reg a) needWrite p →
        (∀ o, p.offset? = some o →
          EndsAs (.inval a) s (if s.cur.1 = mgmtCore then s else dropLine s (clusterOf s.cur.1) o)) ∧
        (∀ c o w, p = .sram c o w ∨ p = .scratch c o w → EndsAs (.inval a) s s) ∧
        ((∀ q x w, p ≠ .other q x w) →
          let posted := zeroStores s (lineBase (s.ctx.reg a)) p.lineStart
          ∃ t, exec (.zerol a) s = .next t ∧
            AloneBut { s.mem with reqs := s.mem.reqs ++ posted, nextReq := s.mem.nextReq + 16 } s t ∧
            t.ctx.base = s.ctx.base ∧ Completes s.ctx t.ctx (s.ctx.pc + 4) ∧ KeepsRegs s.ctx t.ctx ∧ BytesKept s t))) ∧
    ∀ r q, s.mem.reqs.find? (fun x => x.id == r.id) = some r → r.chained = true → q ∈ s.mem.reqs → q.id + 1 = r.id →
      q.done = false → exec (.sliceRequest (.access r.id)) s = .next s

/-- QREAD (R189, R190): it reads up to four whole lines of one home into the buffer in local SRAM, remembers them as the
context's reservation, and answers 0. QSTORE (R191, R192): it answers 2 without a reservation, 1 where another writer has
reached a line of it, and else 0 with its lines written together; the reservation ends. -/
def Obligations.QuadLines : Prop :=
  (
  ∀ s d a b k lines, Unlocked s [d] [a, b] → s.ctx.psn a = false → s.ctx.psn b = false → s.cur.1 ≠ mgmtCore →
    (s.ctx.reg a).toNat % 8 = 0 → (s.ctx.reg b).toNat % 128 = 0 →
    (s.ctx.reg a).toNat + 8 * (k.toNat + 1) ≤ 0x80000 → (s.ctx.reg b).toNat + 128 * (k.toNat + 1) ≤ 0x80000 →
    qreadLines s (s.ctx.reg a) (k.toNat + 1) [] = .inr lines → (∀ l ∈ lines, l.2.offset? ≠ none) →
    (∀ l ∈ lines, ∀ m ∈ lines, homeOf s l.2 = homeOf s m.2) → ownsCore s s.agent s.cur.1 needWrite = true →
    linesWatched s needRead (lines.map (·.1)) = none → (∀ l ∈ lines, cacheWaits s s.cur.1 l.2 = false) →
    s.ctx.answer = none → step1Done s .package = true → engineIdle s = true →
    settled s (.sram s.cur.1 (s.ctx.reg a).toNat false) (8 * (k.toNat + 1)) = true →
    ∃ t, exec (.qread d a b k) s = .next t ∧ Completes s.ctx t.ctx (s.ctx.pc + 4) ∧ WritesReg s.ctx t.ctx d 0 false ∧
      (t.mem.resvOf s.cur.1 s.cur.2 = some
        { core := s.cur.1, slot := s.cur.2, lines := lines.map fun l => (l.2.offset?).getD 0 / 128, k := k.toNat + 1,
          other := none, broken := false, vas := lines.map (·.1), nc := lines.filterMap fun l => match l.2 with
            | .host o true _ => some (o / 128)
            | _ => none }) ∧
      let at_ := keySram s.cur.1 (s.ctx.reg b).toNat
      ((∀ l ∈ lines, (s.cluster (clusterOf s.cur.1)).line ((l.2.offset?).getD 0) = none) →
        (∀ j, at_ ≤ j → j < at_ + 128 * (k.toNat + 1) → s.mem.isArmed j = false) →
        BytesKeptOutside s t at_ (128 * (k.toNat + 1)) ∧
        ∀ n l o nc c, lines[n]? = some l → l.2 = .global o nc c ∨ l.2 = .host o nc c → ∀ j, j < 128 →
          t.mem.byte (at_ + 128 * n + j) = homeByte s (o / 128 * 128 + j) nc)) ∧ (
  ∀ s d a, Unlocked s [d] [a] → s.ctx.psn a = false → s.cur.1 ≠ mgmtCore → (s.ctx.reg a).toNat % 128 = 0 →
    s.ctx.answer = none →
    (s.mem.resvOf s.cur.1 s.cur.2 = none → (s.ctx.reg a).toNat + 128 ≤ 0x80000 → step1Done s .package = true →
      WritesAs (.qstore d a) s s d 2 false) ∧
    (∀ r, s.mem.resvOf s.cur.1 s.cur.2 = some r → r.other = none → r.k ≤ 4 →
      (s.ctx.reg a).toNat + 128 * r.k ≤ 0x80000 → linesWatched s needWrite r.vas = none → releaseDone s .package = true →
      (r.broken = false → ownsCore s s.agent s.cur.1 needRead = true ∧ (s.cluster (clusterOf s.cur.1)).cacheBusy = false) →
      ∃ t, exec (.qstore d a) s = .next t ∧ Completes s.ctx t.ctx (s.ctx.pc + 4) ∧
        WritesReg s.ctx t.ctx d (if r.broken then 1 else 0) false ∧ t.mem.resvOf s.cur.1 s.cur.2 = none ∧
        (r.broken = true → BytesKept s t) ∧
        (r.broken = false → r.lines.Nodup → (∀ l ∈ r.lines, 128 * l < 2 ^ 42) →
          let home (l : Nat) : Nat := s.homeKey (128 * l) (r.nc.contains l)
          (∀ n l, r.lines[n]? = some l → ∀ j, j < 128 →
            t.mem.byte (home l + j) = s.mem.byte (keySram s.cur.1 (s.ctx.reg a).toNat + 128 * n + j)) ∧
          ∀ j, (∀ l ∈ r.lines, j < home l ∨ home l + 128 ≤ j) → t.mem.byte j = s.mem.byte j)))

/-! ### Posted accesses are performed and answered -/

/-- SLICE_REQUEST with a posted store (R181, R384, R276): at the home or the SRAM exactly its bytes change; in a cluster's
cache the line takes them, and no byte of memory changes. SLICE_REQUEST with a posted load of SRAM or scratch reads its
bytes and their tag (R181, R276); then LOAD_RESPONSE writes them, extended, to the register and unlocks it, and the answer
of a task that has ended is discarded (R384), but not the supervisor's, which has no task. WRITE_ACKNOWLEDGEMENT ends a
performed store (R202), and SLICE_REQUEST writes back or drops a line of a cluster's cache: its dirty bytes reach the home
and no other byte changes (R179, R181); with the link up a slice writes the dirty bytes of a host-aperture line to the host
(R181). -/
def Obligations.PostedAccessesPerform : Prop :=
  (
  ∀ s r k, s.mem.reqs.find? (fun q => q.id == r.id) = some r → mayPerform s r = true → hostGone s r = false →
    r.store = true → r.place.key? s = some k →
    (usesCache s r.core r.place = false → (r.place.export = true → r.psn = false) →
      s.mem.isArmed (k - k % 16) = false →
      ∃ t, exec (.sliceRequest (.access r.id)) s = .next t ∧ { t with mem := s.mem, notes := s.notes } = s ∧
        Holds t k r.size r.data ∧ BytesKeptOutside s t k r.size ∧
        t.mem.psn k = (r.psn || (r.size != 8 && s.mem.psn k)) ∧
        t.mem.reqs.find? (fun q => q.id == r.id) = some { r with done := true }) ∧
    (∀ o, r.place.offset? = some o → usesCache s r.core r.place = true → o % 128 + r.size ≤ 128 →
      ∃ t, exec (.sliceRequest (.access r.id)) s = .next t ∧
        { t with clusters := s.clusters, mem := s.mem, notes := s.notes } = s ∧
        (HasRoom s (clusterOf r.core) o → { t with clusters := s.clusters, mem := { t.mem with reqs := s.mem.reqs } } = s) ∧
        t.mem.reqs.find? (fun q => q.id == r.id) = none ∧
        ∃ l, (t.cluster (clusterOf r.core)).line o = some l ∧ ∀ j, j < r.size →
          l.data.extractLsb' (8 * (o % 128 + j)) 8 = r.data.extractLsb' (8 * j) 8 ∧
          l.dirty.getLsbD (o % 128 + j) = true ∧ l.present.getLsbD (o % 128 + j) = true)) ∧ (
  ∀ s r k, s.mem.reqs.find? (fun q => q.id == r.id) = some r → r.store = false →
    (∃ c o w, r.place = .sram c o w ∨ r.place = .scratch c o w) → r.place.key? s = some k →
    (mayPerform s r = true → ∃ t, exec (.sliceRequest (.access r.id)) s = .next t ∧
      { t with mem := { t.mem with reqs := s.mem.reqs } } = s ∧
      t.mem.reqs.find? (fun q => q.id == r.id) =
        some { r with data := s.mem.load k r.size, psn := s.mem.psn k, done := true }) ∧
    (r.done = true → ∀ e, ∃ t, exec (.loadResponse r.id e) s = .next t ∧
      t.mem = { s.mem with reqs := s.mem.reqs.filter fun q => q.id ≠ r.id } ∧
      OnlyContext r.core r.slot { s with mem := t.mem } t ∧
      let x := s.ctxAt r.core r.slot
      let y := t.ctxAt r.core r.slot
      let d := BitVec.ofNat 5 r.d
      (x.gen = r.gen → x.occupied = true ∨ r.slot = 7 → WritesReg x y d (extendBytes r.data r.size r.signed) r.psn ∧
        (∀ q, y.locked q = (x.locked q && q != d)) ∧
        { y with g := [], gpsn := [], lock := [] } = { x with g := [], gpsn := [], lock := [] }) ∧
      (x.gen ≠ r.gen ∨ (x.occupied = false ∧ r.slot ≠ 7) → y = x))) ∧ (
  ∀ s,
    (∀ r, s.mem.reqs.find? (fun q => q.id == r.id) = some r → r.store = true → r.done = true →
      exec (.writeAcknowledgement r.id) s =
        .next { s with mem := { s.mem with reqs := s.mem.reqs.filter fun q => q.id ≠ r.id } }) ∧
    (∀ n off l, (s.cluster n).line (128 * off) = some l → ∀ drop : Bool,
      ∃ t, exec (.sliceRequest (if drop then .evict n off else .writeBack n off)) s = .next t ∧
        { t with clusters := s.clusters, mem := s.mem, notes := s.notes } = s ∧
        (∀ j, j < 128 → t.mem.byte (s.homeKey (128 * off) false + j) =
          if l.dirty.getLsbD j then l.data.extractLsb' (8 * j) 8 else s.mem.byte (s.homeKey (128 * off) false + j)) ∧
        BytesKeptOutside s t (s.homeKey (128 * off) false) 128 ∧
        (t.cluster n).line (128 * off) = if drop then none else
          some (if l.dirty = 0 then l else { l with dirty := 0, writers := 0 })) ∧
    (∀ line, s.host.linkUp = true →
      let l := fget s.mem.aper {} line
      let home := keyHost (s.hostAddr (128 * line))
      ∃ t, exec (.sliceRequest (.hostWriteBack line)) s = .next t ∧ { t with mem := s.mem } = s ∧
        (∀ j, j < 128 → t.mem.byte (home + j) =
          s.mem.byte (if l.dirty.getLsbD j then keyAper (128 * line) + j else home + j)) ∧
        BytesKeptOutside s t home 128 ∧ (fget t.mem.aper {} line).dirty = 0))

/-! ### Traps of memory forms -/

/-- A failed check of Table 7-3 raises its cause with TVAL the address, and no byte changes; a poisoned address register
raises POISON with consumer kind 1 (R166, R268, R277). -/
def Obligations.AddressFaultsTrap : Prop :=
  ∀ s d a b c o z, TakesTraps s →
    (∀ e ∈ [(Instr.ldo d a c o z, [d], [a], needLdo, mBytes z), (.sto a b c o z, [], [a, b], needSto, mBytes z),
        (.amoAdd d a b c o z, [d], [a, b], needBoth, mBytes z), (.amoSwap d a b c o z, [d], [a, b], needBoth, mBytes z),
        (.amoCas d a b c o z, [d], [a, b], needBoth, mBytes z), (.amoFadd d a b c o z, [d], [a, b], needBoth, mBytes z),
        (.ld d a 0 .d, [d], [a], needLoad, 8), (.st b a 0 .d, [], [b, a], needStore, 8)],
      Unlocked s e.2.1 e.2.2.1 →
      (∀ x, s.ctx.psn a = false → s.answered = none → resolve s s.agent (s.ctx.reg a) e.2.2.2.2 e.2.2.2.1 true false = .bad x →
        ∃ t, exec e.1 s = .next t ∧ BytesKept s t ∧ TrapEntered s t x.code s.ctx.pc (s.ctx.reg a) 0) ∧
      (s.ctx.psn a = true → ∃ t, exec e.1 s = .next t ∧
        TrapEntered s t 0x09 s.ctx.pc (s.ctx.reg a) (BitVec.ofNat 64 (a.toNat * 256 + 1)))) ∧
    (Unlocked s [] [b, a] → s.ctx.psn a = false → s.ctx.psn b = true →
      ∀ p, p.export = true → Accesses s (s.ctx.reg a) 8 needStore p → ∃ t, exec (.st b a 0 .d) s = .next t ∧
        TrapEntered s t 0x09 s.ctx.pc (s.ctx.reg b) (BitVec.ofNat 64 (b.toNat * 256 + 5)))

/-! ### Engines -/

/-- The vector and merge forms whose operands are all engine registers are dispatched with their word (R241, R415). The
engine forms with general registers capture them, and lock the one that takes a result (R241, R244, R425, R392, R428, R34,
R251): addresses clean and, for strides and unit bases, aligned; layer operands as R34 asks; MWAIT answers the last number
once the engine is idle (R256). -/
def Obligations.EngineFormsDispatch : Prop :=
  (
  ∀ (d a b : VReg) (m : MReg) (t : VType) (z q : Bool) (r : Rm) (x y : CvtFmt) (k : ActCode) (p n1 n2 : MReg)
    (e : BitVec 3),
    ∀ i ∈ [Instr.vadd d a b m t z q, .vsub d a b m t z q, .vmul d a b m t z q, .vmin d a b m t z, .vmax d a b m t z,
      .vabs d a m t z, .vneg d a m t z, .vand d a b m t z, .vor d a b m t z, .vxor d a b m t z, .vshl d a b m t z,
      .vshr d a b m t z, .vcmpeq p a b m t, .vcmplt p a b m t, .vcmple p a b m t, .vsel d a b m t, .vmov d a m t z,
      .vfma d a b m t z, .vfms d a b m t z, .vfnma d a b m t z, .mand p n1 n2, .mor p n1 n2, .mxor p n1 n2, .mnot p n1,
      .vredadd d a m t, .vredmax d a m t, .vredmin d a m t, .vperm d a b m t z, .vrot d a b m t z, .vcompress d a m t,
      .vcvt d a x m y r, .vquant d a b m y r, .vact d a m z k, .isect e a b q, .union e a b q, .merge e a b q],
      Dispatches i [] none [] anyOperands) ∧ (
  (∀ v g i t, Dispatches (.vsplat v g t) [g] none [] anyOperands ∧ Dispatches (.vext v g i t) [i] (some g) [] anyOperands ∧
    Dispatches (.vins v g i t) [g, i] none [] anyOperands) ∧
  (∀ v g t, Dispatches (.mpopc v g t) [] (some g) [] anyOperands ∧ Dispatches (.msetn v g t) [g] none [] anyOperands) ∧
  (∀ d b r v m e, Dispatches (.vld d b m e) [b] none [] (aligned [b] (eBytes e)) ∧
    Dispatches (.vst d b m e) [b] none [] (aligned [b] (eBytes e)) ∧
    Dispatches (.vlds d b r m e) [b, r] none [] (aligned [b, r] (eBytes e)) ∧
    Dispatches (.vsts d b r m e) [b, r] none [] (aligned [b, r] (eBytes e)) ∧
    Dispatches (.vldx d b v m e) [b] none [] (aligned [b] (eBytes e)) ∧
    Dispatches (.vstx d b v m e) [b] none [] (aligned [b] (eBytes e))) ∧
  (∀ d a b, Dispatches (.vscmac d a b) [a, b] (some d) [] (layerOperands a b) ∧
    Dispatches (.vdring d a b) [a, b] (some d) [] (layerOperands a b) ∧
    Dispatches (.vsdscan d a b) [a, b] (some d) [] (layerOperands a b) ∧
    Dispatches (.vdtick d a) [a] (some d) [] (layerOperands a 0)) ∧
  (∀ c k a b, Dispatches (.mma c a b) [a, b] none [a, b] (clean [a, b]) ∧
    Dispatches (.mmas c a b) [a, b] none [a, b] (clean [a, b]) ∧ Dispatches (.mzero c) [] none [] anyOperands ∧
    Dispatches (.mldacc c a) [a] none [] (clean [a]) ∧ Dispatches (.mstacc c a) [a] none [] (clean [a]) ∧
    (∀ s w, CanDispatch s 1 → Unlocked s [] [b] → s.ctx.psn b = false → encode (.mxform c k b) = some w →
      ∃ t, exec (.mxform c k b) s = .next t ∧ EngineTakes s t (engineEntry s w [b] none []))) ∧
  (∀ d s, s.cur.2 = 0 → s.cur.1 ≠ mgmtCore → s.here.engine.fault = none → Unlocked s [d] [] → engineIdle s = true →
    WritesAs (.mwait d) s s d ((s.here.engine.last.getD 0).setWidth 64) false))

/-- EVPOPV pops up to 16 flits of an event class into the entry it dispatches (R371); RPT dispatches its frame, an entry for
each of its words, and the context goes on behind it (R248, R241, R332). -/
def Obligations.PopsAndFramesDispatch : Prop :=
  (∀ s v a w, CanDispatch s 1 → Unlocked s [] [a] → s.ctx.psn a = false → encode (.evpopv v a) = some w →
    let x := s.ctx.reg a
    let r := s.here.cls x.toNat
    x.toNat < 62 → classDenied s x = false → r.isQueue = true →
    ∃ t, exec (.evpopv v a) s = .next t ∧ Dispatched s.ctx t.ctx (s.ctx.pc + 4) ∧ KeepsRegs s.ctx t.ctx ∧ t.mem = s.mem ∧
      (t.here.cls x.toNat).tail = r.tail + BitVec.ofNat 17 (Min.min 16 r.fill) ∧
      ∃ y, t.here.engine.queue = s.here.engine.queue ++ [y] ∧ y.word = w ∧ y.popped.length = 16 ∧
        ∀ j, j < 16 → y.popped[j]? = some (if j < Min.min 16 r.fill then
          let k := keySram s.cur.1 (r.slot (r.tail + BitVec.ofNat 17 j))
          (s.mem.load k 8, s.mem.psn k) else (BitVec.allOnes 64, false))) ∧
  (∀ s k n sd sa sb ws, CanDispatch s (k.toNat + 1) → s.here.engine.rptHeld = none →
    frameWords s (k.toNat + 1) 0 = .inr ws →
    ∃ t, exec (.rpt k n sd sa sb) s = .next t ∧ OnlyDispatch s t ∧
      t.ctx.pc = s.ctx.pc + BitVec.ofNat 64 (4 * (k.toNat + 2)) ∧
      t.ctx.instret = s.ctx.instret + BitVec.ofNat 64 (k.toNat + 2) ∧
      t.here.engine.rptHeld = some s.here.engine.nextSeq ∧
      t.here.engine.nextSeq = s.here.engine.nextSeq + BitVec.ofNat 16 (k.toNat + 2) ∧
      ∃ l, t.here.engine.queue = s.here.engine.queue ++ l ∧ l.map (·.word) = ws ∧ l.length = k.toNat + 1 ∧
        ∀ j y, l[j]? = some y → y.frame = some (n, sd, sa, sb) ∧ y.rep = 0 ∧
          y.seq = s.here.engine.nextSeq + BitVec.ofNat 16 (j + 1) ∧ y.pc = s.ctx.pc + BitVec.ofNat 64 (4 * (j + 1)))

/-- ENGINE_GRANT moves the head of the queue that a free pipe grants into it (R243); ENGINE_RETIRE gives an instruction's
flags and result to slot 0 (R242, R244), a fault is recorded and discards what has not issued after it (R245), and
COPROC_RAISE raises it once every lower number has retired (R245, R269). -/
def Obligations.EnginesRun : Prop :=
  ∀ (s : State) (core : BitVec 12),
    let c := core.toNat
    let e := s.engine c
    (∀ h q, e.queue = h :: q → h.frame = none → pipeFree s c (pipeOf h.word) = true →
      nextGranted s c (pipeOf h.word) = some c → ∃ t, exec (.engineGrant core) s = .next t ∧
        t.engine c = { e with queue := q, running := e.running ++ [h] } ∧ (∀ k, t.ctxAt c k = s.ctxAt c k) ∧
        t.mem = s.mem ∧ ∀ d, d ≠ c → t.core d = s.core d) ∧
    (∀ en i fl res u, Runs s core en i → effect none i c en s = .ok (some (fl, res), u) → (u.engine c).old = [] →
      taskLives u c en = true → ∃ t, exec (.engineRetire core en.seq) s = .next t ∧ RetiredWith u t c en fl res) ∧
    (∀ en i v prog fl u, Runs s core en i → effect none i c en s = .error (.fault v prog fl u) → (u.engine c).fault = none →
      taskLives u c en = true → ∃ t, exec (.engineRetire core en.seq) s = .next t ∧
        (t.engine c).fault = some (en.seq, v) ∧ (t.engine c).running = takeSeq (u.engine c).running en.seq ∧
        (t.engine c).queue = (u.engine c).queue.filter (fun x => !(u.engine c).earlier en.seq x.seq) ∧
        (∀ k, t.ctxAt c k = u.ctxAt c k) ∧ t.mem = u.mem) ∧
    (∀ q v, e.fault = some (q, v) → coprocReady e = true → e.raised = false → (s.core c).stopped = false →
      let x := s.ctxAt c 0
      x.occupied = true → x.frozen = false → x.joining = false → x.pauseLeft = 0 → x.answer = none →
      x.await = none ∨ x.wait ≠ none → (s.core c).trap.active = false → (s.core c).trap.held = [] →
      ∃ t, exec (.coprocRaise core) s = .next t ∧ t.engine c = { e with raised := true } ∧
        (t.core c).trap.tcause = 0x0B ∧ (t.core c).trap.tpc = x.pc ∧ (t.core c).trap.tval = v ∧
        (t.core c).trap.tseq = q ∧ (t.core c).trap.imprec = true ∧ (t.core c).trap.active = true ∧
        (t.ctxAt c 0).frozen = true ∧ KeepsRegs x (t.ctxAt c 0) ∧
        (t.ctxAt c 7).occupied = true ∧ (t.ctxAt c 7).pc = (s.core c).trap.tvec ++ 0#2 ∧ BytesKept s t) ∧
    (∀ x en f, e.scan = some x → e.running.find? (fun y => pipeOf y.word = 1) = some en → en.frame = none →
      (s.core c).stopped = false → e.old = [] → taskLives s c en = true → x.flit = some f → f.recon = none →
      scanEnd x.words en.opB ≤ x.elem → x.nan = false → x.emitted = 0 → x.moved = false →
      s.mayInject c (scanVc s c x.words) = true →
      ∃ t, exec (.scanFlitAccepted core) s = .next t ∧ (t.engine c).scan = none ∧
        RetiredWith s t c en x.fl (some (scanStatus { x with flit := none, ticked := true }, false)) ∧
        (t.router (routerOf c)).inq = (s.router (routerOf c)).inq ++ [(.localPort (clusterOf c),
          ⟨scanVc s c x.words, [(f.word, f.psn)], s.package, BitVec.ofNat 13 c, none, none⟩)])

/-- What vector and merge forms leave when they retire (R415 to R426, R429 to R432, R233, R257, R389, R392): values, tags
and flags, with every other register as it was. Integers wrap, or saturate in the SAT forms; floating-point lanes round once
in the mode of dispatch. -/
def Obligations.VectorResults : Prop :=
  (
  ∀ (d a b : VReg) (m : MReg) (t : VType) (z : Bool),
    let w := VType.width t
    let sg := Machine.VType.isSigned t
    let int (x : Nat) : Int := intOf sg w x
    (VType.fp t = none →
      (∀ sat,
        ComputesPairs (.vadd d a b m t z sat) d a b m t z (fun _ x y => (narrowed sat sg w (int x + int y), 0)) ∧
        ComputesPairs (.vsub d a b m t z sat) d a b m t z (fun _ x y => (narrowed sat sg w (int x - int y), 0)) ∧
        ComputesPairs (.vmul d a b m t z sat) d a b m t z (fun _ x y => (narrowed sat sg w (int x * int y), 0))) ∧
      ComputesPairs (.vand d a b m t z) d a b m t z (fun _ x y => (x &&& y, 0)) ∧
      ComputesPairs (.vor d a b m t z) d a b m t z (fun _ x y => (x ||| y, 0)) ∧
      ComputesPairs (.vxor d a b m t z) d a b m t z (fun _ x y => (x ^^^ y, 0)) ∧
      ComputesPairs (.vshl d a b m t z) d a b m t z (fun _ x y => (x * 2 ^ (y % w), 0)) ∧
      ComputesPairs (.vshr d a b m t z) d a b m t z (fun _ x y => (narrowed false false w (int x / 2 ^ (y % w)), 0)) ∧
      ComputesPairs (.vmin d a b m t z) d a b m t z (fun _ x y => (if int y < int x then y else x, 0)) ∧
      ComputesPairs (.vmax d a b m t z) d a b m t z (fun _ x y => (if int x < int y then y else x, 0)) ∧
      (sg = true → ComputesEach (.vabs d a m t z) d a m t z (fun x => (narrowed false false w (int x).natAbs, 0)) ∧
        ComputesEach (.vneg d a m t z) d a m t z (fun x => (narrowed false false w (-int x), 0)))) ∧
    (∀ f, VType.fp t = some f →
      let each (nan : Nat → Nat) (x : Nat) : Nat × Flags :=
        match unpack f x with
        | .nan snan => (f.nan, if snan then flagNV else 0)
        | _ => (nan x, 0)
      ComputesPairs (.vadd d a b m t z false) d a b m t z (fun r x y => fpAdd f r (unpack f x) (unpack f y)) ∧
      ComputesPairs (.vsub d a b m t z false) d a b m t z (fun r x y => fpSub f r (unpack f x) (unpack f y)) ∧
      ComputesPairs (.vmul d a b m t z false) d a b m t z (fun r x y => fpMul f r (unpack f x) (unpack f y)) ∧
      ComputesPairs (.vmin d a b m t z) d a b m t z (fun _ x y => fpMinMax f false x y) ∧
      ComputesPairs (.vmax d a b m t z) d a b m t z (fun _ x y => fpMinMax f true x y) ∧
      ComputesEach (.vabs d a m t z) d a m t z (each fun x => x % f.signBit) ∧
      ComputesEach (.vneg d a m t z) d a m t z (each fun x => (x + f.signBit) % 2 ^ w) ∧
      (let fused (i : Instr) (p q : Fp → Fp) : Prop :=
         ComputesLanes i d m t z
           (fun e en j => fpFma f (.ofFrm en.frm) (p (unpack f (lane (e.vec a) w j))) (unpack f (lane (e.vec b) w j))
             (q (unpack f (lane (e.vec d) w j))))
           (fun e j => tagBits w (laneTag (e.tags a) w j || laneTag (e.tags b) w j || laneTag (e.tags d) w j))
       fused (.vfma d a b m t z) id id ∧ fused (.vfms d a b m t z) id Fp.negate ∧ fused (.vfnma d a b m t z) Fp.negate id)) ∧
    ComputesEach (.vmov d a m t z) d a m t z (fun x => (x, 0)) ∧
    (∀ k, ComputesEach (.vact d a m z k) d a m .fp32 z (fun x => act k x)) ∧
    ComputesLanes (.vperm d a b m t z) d m t z (fun e _ j => (lane (e.vec a) w (lane (e.vec b) w j % lanesOf t), 0))
      (fun e j => laneTags (e.tags a) w (lane (e.vec b) w j % lanesOf t) ||| tagBits w (laneTag (e.tags b) w j)) ∧
    ComputesLanes (.vrot d a b m t z) d m t z (fun e _ j => (lane (e.vec a) w ((j + lane (e.vec b) w 0) % lanesOf t), 0))
      (fun e j => tagBits w (laneTag (e.tags a) w ((j + lane (e.vec b) w 0) % lanesOf t) || laneTag (e.tags b) w 0))) ∧ (
  ∀ (d a b : VReg) (m p q : MReg) (t : VType) (g i : Reg),
    let w := VType.width t
    let n := lanesOf t
    RetiresTo (.vsel d a b m t) (fun e _ e' fl res => res = none ∧ fl = 0 ∧
      let from_ (j : Nat) : VReg := if (e.mask m).getLsbD j then a else b
      LeavesVec e e' d w (fun j => lane (e.vec (from_ j)) w j)
        (fun j => laneTags (e.tags (from_ j)) w j ||| tagBits w (e.mtag m))) ∧
    RetiresTo (.vcompress d a m t) (fun e _ e' fl res => res = none ∧ fl = 0 ∧
      let l := (List.range n).filter (e.mask m).getLsbD
      LeavesVec e e' d w (fun j => ((l[j]?).map (lane (e.vec a) w)).getD 0)
        (fun j => ((l[j]?).map (laneTags (e.tags a) w)).getD 0 ||| tagBits w (e.mtag m))) ∧
    RetiresTo (.vsplat d g t) (fun e en e' fl res => res = none ∧ fl = 0 ∧
      LeavesVec e e' d w (fun _ => en.opA.toNat % 2 ^ w) (fun _ => tagBits w en.psnA)) ∧
    RetiresTo (.vins d g i t) (fun e en e' fl res => res = none ∧ fl = 0 ∧
      let at_ := en.opB.toNat % n
      LeavesVec e e' d w (fun j => if j = at_ then en.opA.toNat % 2 ^ w else lane (e.vec d) w j)
        (fun j => if j = at_ then tagBits w (en.psnA || en.psnB) else laneTags (e.tags d) w j)) ∧
    RetiresTo (.vext d g i t) (fun e en e' fl res => fl = 0 ∧ KeepsEngine e e' ∧
      let at_ := en.opA.toNat % n
      res = some (BitVec.ofInt 64 (intOf (Machine.VType.isSigned t) w (lane (e.vec d) w at_)),
        laneTag (e.tags d) w at_ || en.psnA)) ∧
    (let compares (f : MReg → VReg → VReg → MReg → VType → Instr) (quiet : Bool) (ok : Ordering → Bool) : Prop :=
       ComputesMask (f p a b m t) quiet ok p a b m t
     compares .vcmpeq true (fun o => o == .eq) ∧ compares .vcmplt false (fun o => o == .lt) ∧
       compares .vcmple false (fun o => o != .gt)) ∧
    (let logic (f : Instr) (op : Bool → Bool → Bool) : Prop :=
       RetiresTo f fun e _ e' fl res => res = none ∧ fl = 0 ∧
         LeavesMask e e' p (fun j => op ((e.mask m).getLsbD j) ((e.mask q).getLsbD j)) (e.mtag m = true ∨ e.mtag q = true)
     logic (.mand p m q) (· && ·) ∧ logic (.mor p m q) (· || ·) ∧ logic (.mxor p m q) (· != ·)) ∧
    RetiresTo (.mnot p m) (fun e _ e' fl res => res = none ∧ fl = 0 ∧
      LeavesMask e e' p (fun j => !(e.mask m).getLsbD j) (e.mtag m = true)) ∧
    RetiresTo (.mpopc m g t) (fun e _ e' fl res => fl = 0 ∧ KeepsEngine e e' ∧
      res = some (BitVec.ofNat 64 ((List.range n).countP (e.mask m).getLsbD), e.mtag m)) ∧
    RetiresTo (.msetn p g t) (fun e en e' fl res => res = none ∧ fl = 0 ∧
      LeavesMask e e' p (fun j => decide (j < en.opA.toNat) && decide (j < n)) (en.psnA = true)) ∧
    (VType.fp t = none →
      let int (x : Nat) : Int := intOf (Machine.VType.isSigned t) w x
      let least : Nat := if Machine.VType.isSigned t then 2 ^ (w - 1) else 0
      let most : Nat := if Machine.VType.isSigned t then 2 ^ (w - 1) - 1 else 2 ^ w - 1
      Reduces (.vredadd d a m t) d a m t 0 (fun _ x y => ((x + y) % 2 ^ w, 0)) ∧
      Reduces (.vredmax d a m t) d a m t least (fun _ x y => (if int x < int y then y else x, 0)) ∧
      Reduces (.vredmin d a m t) d a m t most (fun _ x y => (if int y < int x then y else x, 0))) ∧
    (∀ f, VType.fp t = some f →
      Reduces (.vredadd d a m t) d a m t f.signBit (fun r x y => fpAdd f r (unpack f x) (unpack f y)) ∧
      Reduces (.vredmax d a m t) d a m t (f.signBit + f.inf) (fun _ x y => fpMinMax f true x y) ∧
      Reduces (.vredmin d a m t) d a m t f.inf (fun _ x y => fpMinMax f false x y)) ∧
    (∀ (src dst : CvtFmt) (r : Rm),
      let ws := CvtFmt.width src
      let wd := CvtFmt.width dst
      PacksElements (.vcvt d a src m dst r) d m wd (1024 / max ws wd)
        (fun e en j => converts src dst (rmMode r en.frm) (slice (e.vec a) (ws * j) ws))
        (fun e j => tagOf (e.tags a) (ws * j) ws)) ∧
    (∀ (dst : CvtFmt) (r : Rm),
      PacksElements (.vquant d a b m dst r) d m (CvtFmt.width dst) 32
        (fun e en j =>
          let v := underScale (slice (e.vec b) 0 8) (lane (e.vec a) 32 j)
          match CvtFmt.fp dst with
          | some g => fpConvert g (rmMode r en.frm) v
          | none => let y := fpToInt true 8 (rmMode r en.frm) v; (narrowed false false 8 y.1, y.2))
        (fun e j => laneTag (e.tags a) 32 j || (e.tags b).testBit 0)) ∧
    (∀ (v : BitVec 3) n32,
      Merges (.isect v a b n32) v a b n32 (fun ca cb out => out = ca.filter fun x => decide (x ∈ cb)) ∧
      Merges (.union v a b n32) v a b n32 (fun ca cb out => out.Pairwise (· < ·) ∧ ∀ x, x ∈ out ↔ x ∈ ca ∨ x ∈ cb) ∧
      Merges (.merge v a b n32) v a b n32 (fun ca cb out => out.Pairwise (· ≤ ·) ∧ out.Perm (ca ++ cb))))

/-- What matrix, vector memory and pop forms leave when they retire (R234 to R237, R252 to R255, R371, R427, R428, Table
10-4), their operands in the core's own SRAM: MMA and MMAS the old element with one rounded exact sum added per group, MZERO
zeros, MLDACC and MSTACC the tile and memory, MXFORM the rearranged or reduced tile; a vector load or store one active
element a step (R194). -/
def Obligations.MatrixAndMemoryResults : Prop :=
  (
  ∀ (t d : Acc) (a b : Reg),
    Multiplies (.mma t a b) false t ∧ Multiplies (.mmas t a b) true t ∧
    RetiresTo (.mzero t) (fun e _ e' fl res => res = none ∧ fl = 0 ∧ LeavesTile e e' t (fun _ _ => 0) (fun _ _ => False)) ∧
    LoadsTile t a ∧ StoresTile t a ∧ TransformsTile d t a) ∧ (
  ∀ (v x : VReg) (b g : Reg) (m : MReg) (z : ESize),
    let size := match z with
      | .b => 1
      | .h => 2
      | .w => 4
    let unit (_ : Engine) (en : Entry) (j : Nat) : Word := en.opA + BitVec.ofNat 64 (j * size)
    let strided (_ : Engine) (en : Entry) (j : Nat) : Word := en.opA + BitVec.ofNat 64 j * en.opB
    let indexed (e : Engine) (en : Entry) (j : Nat) : Word := en.opA + (BitVec.ofNat 32 (lane (e.vec x) 32 j)).signExtend 64
    let clean (e : Engine) (j : Nat) : Bool := !laneTag (e.tags x) 32 j
    LoadsLanes (.vld v b m z) v m size (128 / size) unit (fun _ _ => true) ∧
    LoadsLanes (.vlds v b g m z) v m size (128 / size) strided (fun _ _ => true) ∧
    LoadsLanes (.vldx v b x m z) v m size (min (128 / size) 32) indexed clean ∧
    StoresLanes (.vst v b m z) v m size (128 / size) unit (fun _ _ => true) ∧
    StoresLanes (.vsts v b g m z) v m size (128 / size) strided (fun _ _ => true) ∧
    StoresLanes (.vstx v b x m z) v m size (min (128 / size) 32) indexed clean ∧
    RetiresTo (.evpopv v g) (fun e en e' fl res => res = none ∧ fl = 0 ∧
      let w (j : Nat) : Word × Bool := en.popped.getD j (BitVec.allOnes 64, false)
      LeavesVec e e' v 64 (fun j => (w j).1.toNat) (fun j => tagBits 64 (w j).2)))

/-- What VSCMAC, VDRING and VDTICK add to the accumulators and the ring, what they skip and count (R31, R32, R38, R41, R42),
what VSDSCAN finds at an element, how it goes from flit to flit, and what an accepted flit writes (R39, R40, R44, R60, Table
2-4). -/
def Obligations.EventResults : Prop :=
  ∀ (d a b : Reg),
    AppliesEvents (.vscmac d a b) false ∧ AppliesEvents (.vdring d a b) true ∧ ClosesStep (.vdtick d a) ∧
    (∀ s c l i, FindsQuanta s c l i) ∧ Scans (.vsdscan d a b) ∧ ScanFlitTaken (.vsdscan d a b)

/-! ### Messages -/

/-- EMIT, SEND and SENDR whose checks pass hand their packet to the network interface (R366, R399, R400, R401, R68), once
the release of their REL is done (R215). PACKET_ACCEPTED (R366, R401, R94): the packet enters the core's router, a SEND's
with a retry-buffer entry that keeps its copy, and the instruction completes. -/
def Obligations.MessagesAreSent : Prop :=
  (
  ∀ s a b r n,
    (Unlocked s [] [a] → s.ctx.psn a = false →
      let f := s.ctx.reg a
      let cls := (f.extractLsb' 58 6).toNat
      let pkg := (f.extractLsb' 12 10).toNat
      messageCheck s false cls pkg 1 = none → (r = true → releaseDone s (messageScope s cls pkg) = true) →
      ∃ t, exec (.emit a r) s = .next t ∧ Offers s t
        { vc := (s.entry (routerOf s.cur.1) cls).vc.toNat, flits := [(f, false)], srcPkg := s.package,
          srcCore := BitVec.ofNat 13 s.cur.1, entry := none, via := none }) ∧
    (Unlocked s [] (a :: (payload s.ctx b n).map (·.1)) → s.ctx.psn a = false →
      let w := s.ctx.reg a
      let cls := (w.extractLsb' 58 6).toNat
      let l := (payload s.ctx b n).map (·.2)
      let send (tok : Bool) (pkg core : Nat) (t : State) : Prop := Offers s t
        { vc := 2, srcPkg := s.package, srcCore := BitVec.ofNat 13 s.cur.1, entry := none, via := none,
          flits := (BitVec.ofNat 64 (cls * 2 ^ 58 + n.toNat * 2 ^ 56 + (if r then 2 ^ 55 else 0) + pkg * 4096 + core) |||
            (if tok then 0x0040000000000000 ||| ((w.extractLsb' 0 11).setWidth 64 <<< 43) else 0), false) :: l }
      (∀ pkg, pkg = (w.extractLsb' 12 10).toNat → messageCheck s true cls pkg (n.toNat + 2) = none →
        (pkg ≠ s.package.toNat → ∀ v ∈ l, v.2 = false) → retryFull s.here = false →
        (r = true → releaseDone s (messageScope s cls pkg) = true) →
        ∃ t, exec (.send a b r n) s = .next t ∧ send false pkg (w.extractLsb' 0 12).toNat t) ∧
      (∀ pkg, pkg = (w.extractLsb' 23 10).toNat → messageCheck s true cls pkg (n.toNat + 2) = none →
        (pkg ≠ s.package.toNat → ∀ v ∈ l, v.2 = false) →
        (r = true → releaseDone s (messageScope s cls pkg) = true) →
        ∃ t, exec (.sendr a b r n) s = .next t ∧ send true pkg (w.extractLsb' 11 12).toNat t))) ∧ (
  ∀ (s : State) (core : BitVec 13) (slot : BitVec 3) p,
    let c := core.toNat
    let k := slot.toNat
    let x := s.ctxAt c k
    x.sending = some p → s.mayInject c p.vc = true →
    (p.vc ≠ 2 ∨ pktTok p = true → ∃ t, exec (.packetAccepted core slot) s = .next t ∧
      OnlyContext c k { s with routers := t.routers } t ∧ Completes x (t.ctxAt c k) (x.pc + 4) ∧
      KeepsRegs x (t.ctxAt c k) ∧ (t.ctxAt c k).sending = none ∧
      (t.router (routerOf c)).inq = (s.router (routerOf c)).inq ++ [(.localPort (clusterOf c), p)]) ∧
    (p.vc = 2 → pktTok p = false → ∀ e, e < 4 → fget (s.core c).retry none e = none →
      (∀ j, j < e → (fget (s.core c).retry none j).isSome = true) →
      ∃ t, exec (.packetAccepted core slot) s = .next t ∧ Completes x (t.ctxAt c k) (x.pc + 4) ∧
        KeepsRegs x (t.ctxAt c k) ∧ (t.ctxAt c k).sending = none ∧ t.mem = s.mem ∧
        (t.router (routerOf c)).inq =
          (s.router (routerOf c)).inq ++ [(.localPort (clusterOf c), { p with entry := some e })] ∧
        fget (t.core c).retry none e = some { packet := { p with entry := some e }, order := (s.core c).retryOrder }))

/-- EVPOP, RCMASK, RCUNMASK and CTXTOK (R370, R96, R103): a pop takes the oldest flit of the class's ring, or answers all
ones; the class is disabled or enabled at the core; the token names the package, the core, the slot and its generation. -/
def Obligations.ClassesAndTokens : Prop :=
  ∀ s d a, s.ctx.psn a = false →
    let v := s.ctx.reg a
    let r := s.here.cls v.toNat
    (Unlocked s [d] [a] → v.toNat < 62 → classDenied s v = false →
      (r.isQueue = true → r.head ≠ r.tail → ∃ t, exec (.evpop d a) s = .next t ∧
        Completes s.ctx t.ctx (s.ctx.pc + 4) ∧ t.mem = s.mem ∧
        WritesReg s.ctx t.ctx d (s.mem.load (keySram s.cur.1 (r.slot r.tail)) 8)
          (s.mem.psn (keySram s.cur.1 (r.slot r.tail))) ∧
        (∀ c, t.here.cls c = if c = v.toNat then { r with tail := r.tail + 1 } else s.here.cls c)) ∧
      (r.isQueue = false ∨ r.head = r.tail → WritesAs (.evpop d a) s s d (BitVec.allOnes 64) false)) ∧
    (Unlocked s [d] [a] → v.toNat = 62 ∨ v.toNat = 63 → WritesAs (.evpop d a) s s d (BitVec.allOnes 64) false) ∧
    (Unlocked s [] [a] → v.toNat < 62 → classDenied s v = false →
      (∃ t, exec (.rcmask a) s = .next t ∧ Completes s.ctx t.ctx (s.ctx.pc + 4) ∧ KeepsRegs s.ctx t.ctx ∧ t.mem = s.mem ∧
        ∀ c, t.here.cls c = if c = v.toNat then { r with enabled := false } else s.here.cls c) ∧
      (r.pending = false → ∃ t, exec (.rcunmask a) s = .next t ∧ Completes s.ctx t.ctx (s.ctx.pc + 4) ∧
        KeepsRegs s.ctx t.ctx ∧ t.mem = s.mem ∧
        ∀ c, t.here.cls c = if c = v.toNat then { r with enabled := true } else s.here.cls c)) ∧
    (Unlocked s [d] [] → s.cur.1 < 4096 → s.cur.2 < 8 → WritesAs (.ctxtok d) s s d
      (BitVec.ofNat 64 (s.package.toNat * 2 ^ 23 + s.cur.1 * 2 ^ 11 + s.cur.2 * 2 ^ 8 + s.ctx.gen.toNat)) false)

/-- The fabric (R57, R67, R69, R59, R61, R71): a class packet is routed in the order of its stream: at its target's router
to the target's local port, elsewhere to the next router; discarded and counted where its class is not valid. An output
takes the channel that is its turn where the receiver has room, and hands the packet to the next router, to the cores or to
the Wiolo port; an uncorrectable error poisons the flit it strikes and is counted, also on the link from a cluster or an I/O
die. Route-class entries and MSGMAX are written under R65 and R73. -/
def Obligations.FabricMovesPackets : Prop :=
  ∀ (s : State) (router : BitVec 6) i,
    let r := router.toNat
    (∀ from_ p, (s.router r).inq[i]? = some (from_, p) → firstOfStream ((s.router r).inq.map (·.2)) i = true →
      unitWaits s r from_ p.vc = false → p.vc ≠ 1 → p.vc ≠ 3 →
      let e := s.entry r (pktCls p)
      (e.valid = false → ∃ t, exec (.routerPacketArrival router i) s = .next t ∧ t.mem = s.mem ∧
        (t.router r).outq = (s.router r).outq ∧
        (p.entry = none ∨ p.srcPkg = s.package → (t.router r).inq = (s.router r).inq.eraseIdx i ∧
          fget (t.router r).counters 0 1 = fget (s.router r).counters 0 1 + 1)) ∧
      (e.valid = true → e.cast = false ∨ p.vc = 2 → e.coal = false → from_.atSource = false ∨ p.vc = 2 ∨ e.vc ≠ 2 →
        pktPkg p = s.package.toNat →
        let f : Packet := if from_.atSource && p.vc ≠ 2 then { p with vc := e.vc.toNat } else p
        let sent (o : OutPort) : Prop :=
          ∃ t, exec (.routerPacketArrival router i) s = .next t ∧ t.mem = s.mem ∧ t.cores = s.cores ∧
            (t.router r).inq = (s.router r).inq.eraseIdx i ∧
            (t.router r).outq = (s.router r).outq ++ [{ out := o, p := f, src := from_, id := (s.router r).nextCopy }]
        (pktCore p / 64 = r → s.usableCore (pktCore p) = true →
          sent (.cluster (pktCore p / 16) (BitVec.ofNat 16 (2 ^ (pktCore p % 16))))) ∧
        (pktCore p / 64 ≠ r → sent (.router (nextHop r (pktCore p / 64)))))) ∧
    (∀ g q, (s.router r).outq[i]? = some g → linkVc s r g.out = some g.p.vc → outRoom s r g = true →
      ((s.router r).outq.take i).all (fun h => !(h.out.key == g.out.key && sameStream h.p g.p)) = true →
      let p := strike q g.p
      (∀ j f, g.p.flits[j]? = some f → p.flits[j]? = some (f.1, f.2 || flitOutcome q j == .uncorrectable)) ∧
      ∃ t, exec (.linkFlitReceive router i q) s = .next t ∧
        ((∀ n, g.out ≠ .wiolo n) ∨ pktPoisoned p = false ∨ s.errs.en = false → t.mem = s.mem) ∧
        (t.router r).outq = (s.router r).outq.eraseIdx i ∧
        (∀ m, g.out = .router m → m ≠ r → t.cores = s.cores ∧
          (t.router m).inq = (s.router m).inq ++ [(hopFrom r m, p)] ∧
          fget (t.router m).counters 0 6 = fget (s.router m).counters 0 6 + BitVec.ofNat 64
            ((List.range g.p.flits.length).filter fun j => flitOutcome q j == .uncorrectable).length) ∧
        (∀ c m, g.out = .cluster c m → ∀ k, k < 16 → (t.core (16 * c + k)).arrivals =
          (s.core (16 * c + k)).arrivals ++ if m.getLsbD k then [p] else []) ∧
        ∀ n, g.out = .wiolo n →
          let x := fget s.wioloPorts {} n
          let y := fget t.wioloPorts {} n
          if x.state = 2 ∧ x.held = [] then
            y.held = [] ∧ y.replay.map (·.packets) = x.replay.map (·.packets) ++ [[p]]
          else y.held = x.held ++ [p] ∧ y.replay = x.replay) ∧
    (∀ j o p q, (s.router r).inq[j]? = some (o, p) → (∃ n, o = .localPort n ∨ o = .wiolo n) →
      i = (s.router r).outq.length + j →
      ∃ t, exec (.linkFlitReceive router i q) s = .next t ∧ t.mem = s.mem ∧ t.cores = s.cores ∧
        (t.router r).inq = (s.router r).inq.set j (o, strike q p) ∧
        fget (t.router r).counters 0 6 = fget (s.router r).counters 0 6 + BitVec.ofNat 64
          ((List.range p.flits.length).filter fun j => flitOutcome q j == .uncorrectable).length) ∧
    (∀ cls hi v, cls.toNat < 62 → ∃ t, exec (.routeClassWrite router cls hi v) s = .next t ∧
      { t with routers := s.routers } = s ∧
      fget (t.router r).entries {} cls.toNat =
        let e := fget (s.router r).entries {} cls.toNat
        if hi then { e with localmask := v } else e.write v) ∧
    (∀ v : Word, 2 ≤ v.toNat % 32 → v.toNat % 32 ≤ 16 →
      exec (.msgmaxWrite v) s = .next { s with msgmax := v.setWidth 5 })

/-- The way of an event flit (R69, R61, R51 to R55): its target's router hands it to the target's local port, the port to the
core's network interface; there a flit that arrives, or waits in the VC 4 buffer, is written at the head of its class's ring
when there is room, and a droppable one is counted when there is none. -/
def Obligations.EventFlitsReachRings : Prop :=
  (
  ∀ (s : State) (router : BitVec 6) i,
    let r := router.toNat
    (∀ from_ p, (s.router r).inq[i]? = some (from_, p) → firstOfStream ((s.router r).inq.map (·.2)) i = true →
      p.vc = 4 ∨ p.vc = 5 → from_.atSource = false →
      let e := s.entry r (pktCls p)
      e.valid = true → e.cast = false → e.coal = false → pktPkg p = s.package.toNat → pktCore p / 64 = r →
      s.usableCore (pktCore p) = true →
      ∃ t, exec (.routerPacketArrival router i) s = .next t ∧ t.mem = s.mem ∧ t.cores = s.cores ∧
        (t.router r).inq = (s.router r).inq.eraseIdx i ∧
        (t.router r).outq = (s.router r).outq ++
          [{ out := .cluster (pktCore p / 16) (BitVec.ofNat 16 (2 ^ (pktCore p % 16))), p, src := from_,
             id := (s.router r).nextCopy }]) ∧
    (∀ g q c m, (s.router r).outq[i]? = some g → g.out = .cluster c m → linkVc s r g.out = some g.p.vc →
      outRoom s r g = true →
      ((s.router r).outq.take i).all (fun h => !(h.out.key == g.out.key && sameStream h.p g.p)) = true →
      ∃ t, exec (.linkFlitReceive router i q) s = .next t ∧ t.mem = s.mem ∧
        (t.router r).outq = (s.router r).outq.eraseIdx i ∧
        ∀ k, k < 16 → (t.core (16 * c + k)).arrivals =
          (s.core (16 * c + k)).arrivals ++ if m.getLsbD k then [strike q g.p] else [])) ∧ (
  ∀ (s : State) (core : BitVec 12),
    let c := core.toNat
    let x := s.core c
    let written (p : Packet) (t : State) : Prop :=
      let r := x.cls (pktCls p)
      let k := keySram c (r.slot r.head)
      Holds t k 8 (pktHead p) ∧ BytesKeptOutside s t k 8 ∧ t.mem.psn k = pktPoisoned p ∧
      ((t.core c).cls (pktCls p)).head = r.head + 1 ∧ ((t.core c).cls (pktCls p)).tail = r.tail ∧
      (t.core c).writes = x.writes + 1
    (∀ i p, x.arrivals[i]? = some p → firstOfStream x.arrivals i = true → p.vc ≠ 2 → (pktHead p).getLsbD 57 = false →
      let r := x.cls (pktCls p)
      let k := keySram c (r.slot r.head)
      r.isQueue = true →
      (r.full = false → p.vc = 5 ∨ x.waits (pktCls p) = false → s.mem.isArmed (k - k % 16) = false →
        ∃ t, exec (.eventFlitArrival core i) s = .next t ∧ written p t ∧ (t.core c).arrivals = x.arrivals.eraseIdx i) ∧
      (r.full = true → p.vc = 5 → r.thresh = 0 → x.droplogCount.toNat = 64 →
        ∃ t, exec (.eventFlitArrival core i) s = .next t ∧ t.mem = s.mem ∧ (t.core c).arrivals = x.arrivals.eraseIdx i ∧
          ((t.core c).cls (pktCls p)).dropf = satInc r.dropf ∧ ((t.core c).cls (pktCls p)).head = r.head)) ∧
    (∀ p rest, x.vc4buf = p :: rest →
      let r := x.cls (pktCls p)
      let k := keySram c (r.slot r.head)
      r.isQueue = true → r.full = false → s.mem.isArmed (k - k % 16) = false →
      ∃ t, exec (.vc4BufferDrain core) s = .next t ∧ written p t ∧ (t.core c).vc4buf = rest))

/-- Task messages, replies and slots (R92, R93, R104, R86, R87): a message whose class is enabled starts a task in the
lowest free slot of its kind, or is refused and its sender listed; a reply for a live context fills its window; a slot that
has freed goes to the task that waits, and where none does a FREE notice goes to the senders that were refused one. That a task
message's ti.DROP is its class's EVDROP is log 67, that a reply reaches slot 7 as a live context log 68. -/
def Obligations.MessagesStartTasks : Prop :=
  ∀ (s : State) (core : BitVec 12) i p,
    let c := core.toNat
    let x := s.core c
    let r := x.cls (pktCls p)
    (x.arrivals[i]? = some p → firstOfStream x.arrivals i = true →
      (p.vc = 2 → pktTok p = false → r.isTask = true → r.enabled = true →
        (∀ k, freeSlot s c (handlerEngine r.handler) = some k → p.flits.length ≤ 5 →
          ∃ t, exec (.taskMessageArrival core i) s = .next t ∧ StartsTask s t c k (messageStart r p) ∧
            (t.core c).arrivals = x.arrivals.eraseIdx i ∧ t.mem = s.mem) ∧
        (freeSlot s c (handlerEngine r.handler) = none → x.refusals.length < 8 →
          x.refusals.contains (p.srcPkg, p.srcCore, handlerEngine r.handler) = false →
          ∃ t, exec (.taskMessageArrival core i) s = .next t ∧ (∀ k, t.ctxAt c k = s.ctxAt c k) ∧
            (t.core c).refusals = x.refusals ++ [(p.srcPkg, p.srcCore, handlerEngine r.handler)] ∧ t.mem = s.mem)) ∧
      (pktTok p = true → r.isTask = true →
        let k := ((pktHead p).extractLsb' 51 3).toNat
        let at_ := keySram c (0x7FF00 + 32 * k)
        let y := s.ctxAt c k
        (y.occupied = true → y.gen = (pktHead p).extractLsb' 43 8 → p.flits.length ≤ 5 →
          (∀ j, at_ ≤ j → j < at_ + 32 → s.mem.isArmed j = false) →
          ∃ t, exec (.replyDelivery core i) s = .next t ∧ (t.core c).arrivals = x.arrivals.eraseIdx i ∧
            BytesKeptOutside s t at_ (8 * (p.flits.length - 1)) ∧
            ∀ j f, p.flits[j + 1]? = some f → Holds t (at_ + 8 * j) 8 f.1 ∧ t.mem.isFull (at_ + 8 * j) = true) ∧
        (y.occupied = false ∨ y.gen ≠ (pktHead p).extractLsb' 43 8 → ∃ t, exec (.replyDelivery core i) s = .next t ∧
          (t.core c).orphans = satInc x.orphans ∧ t.mem = s.mem))) ∧
    (∀ engine k, (∀ cls, cls < 62 → handlerWaits x cls = false) →
      let freed : Prop := freedSlot s c engine = some k ∧ (s.ctxAt c k).occupied = false ∧ s.usableCore c = true
      (∀ st, x.starts = [st] → st.engine = engine →
        (freedSlot s c engine = none ∧ freeSlot s c engine = some k) ∨ (freed ∧ freeSlot s c engine = none) →
        ∃ t, exec (.slotFree core engine) s = .next t ∧ StartsTask s t c k st ∧ (t.core c).starts = [] ∧ t.mem = s.mem) ∧
      (∀ q, x.starts = [] → freed → x.refusals = [(s.package, q, engine)] → x.refusalOverflow = false →
        ∃ t, exec (.slotFree core engine) s = .next t ∧ (t.ctxAt c k).freed = none ∧ (t.core c).refusals = [] ∧
          t.notes = s.notes ++ [.free (s.package.toNat * 4096 + c) (some q.toNat)] ∧ t.mem = s.mem))

/-- Notices (R94, R290): an acceptance frees the retry-buffer entry it names, a REFUSE marks it, and a FREE has the refused
packets for the freeing core sent again, where the source router has room for them; a WATCH notice raises WATCH at its core's
supervisor, is held while the core is stopped (R283), and at a core that is marked out it is a dead target (R20). -/
def Obligations.NoticesArrive : Prop :=
  ∀ s i,
    (∀ c e, s.notes[i]? = some (.acceptance c e) → ∃ t, exec (.acceptance i) s = .next t ∧
      t.notes = s.notes.eraseIdx i ∧ fget (t.core c).retry none e = none ∧ t.mem = s.mem ∧ ∀ d, d ≠ c → t.core d = s.core d) ∧
    (∀ c e q, s.notes[i]? = some (.refuse c e) → fget (s.core c).retry none e = some q →
      ∃ t, exec (.refuseNotice i) s = .next t ∧ t.notes = s.notes.eraseIdx i ∧ t.mem = s.mem ∧
        fget (t.core c).retry none e = some { q with refused := true } ∧ ∀ d, d ≠ c → t.core d = s.core d) ∧
    (∀ c src, s.notes[i]? = some (.free src (some c)) → (∀ q ∈ refusedFor (s.core c) src, q.2.packet.vc = 2) →
      (∀ n, n < (refusedFor (s.core c) src).length →
        roomAfter (routerOf c) 2 ((s.router (routerOf c)).buffered (.localPort (clusterOf c)) 2 + n) = true) →
      ∃ t, exec (.freeNotice i) s = .next t ∧
      t.notes = s.notes.eraseIdx i ∧ t.mem = s.mem ∧
      (t.router (routerOf c)).inq = (s.router (routerOf c)).inq ++
        (refusedFor (s.core c) src).map (fun q => (.localPort (clusterOf c), q.2.packet)) ∧
      refusedFor (t.core c) src = []) ∧
    (∀ c h a, s.notes[i]? = some (.watch c h a) → (h.extractLsb' 12 10).toNat = s.package.toNat →
      s.usableCore c = true → (s.core c).stopped = false → (s.core c).trap.active = false → (s.core c).trap.held = [] →
      ∃ t, exec (.watchNoticeArrival i) s = .next t ∧ t.notes = s.notes.eraseIdx i ∧ t.mem = s.mem ∧
        (t.core c).trap.tcause = 0x0F ∧ (t.core c).trap.tval = a ∧ (t.core c).trap.tctx = h ∧
        (t.core c).trap.ctxv = false ∧ (t.core c).trap.active = true ∧ (t.ctxAt c 7).occupied = true ∧
        (t.ctxAt c 7).pc = (s.core c).trap.tvec ++ 0#2 ∧ ∀ k, k ≠ 7 → t.ctxAt c k = s.ctxAt c k) ∧
    (∀ c h a, s.notes[i]? = some (.watch c h a) → (h.extractLsb' 12 10).toNat = s.package.toNat →
      s.usableCore c = true → (s.core c).stopped = true → (s.core c).trap.held = [] →
      ∃ t, exec (.watchNoticeArrival i) s = .next t ∧ t.notes = s.notes.eraseIdx i ∧ (∀ k, t.ctxAt c k = s.ctxAt c k) ∧
        { (t.core c).trap with held := [] } = (s.core c).trap ∧ (t.core c).trap.held.length = 1) ∧
    (∀ c h a, s.notes[i]? = some (.watch c h a) → (h.extractLsb' 12 10).toNat = s.package.toNat →
      s.usableCore c = false → ∃ t, exec (.watchNoticeArrival i) s = .next t ∧ t.notes = s.notes.eraseIdx i ∧
        t.mem = s.mem ∧ t.cores = s.cores ∧
        fget (t.router (routerOf c)).counters 0 0 = fget (s.router (routerOf c)).counters 0 0 + 1)

/-! ### Barrier tags -/

/-- The BAR family at a context (R106, R107, Table 4-9): with two arrivals not yet released BAR and BARARR sleep and act
anew; a tag that is not enabled raises BARRIER. The tree (R105, R107 to R109, R439): an operation takes effect, and a JOIN
completes on its own alone; a generation completes, its release lets every context that sleeps for it go on or act anew;
flits of other packages are sent and kept (the moment of a release with XDOM: log 76); the tag registers are written under
R105. -/
def Obligations.Barriers : Prop :=
  (
  ∀ s (g : Tag),
    let arrived (t : State) : Prop := t.treeOps = s.treeOps ++ [⟨s.cur.1, s.cur.2, g.toNat, .arrive, none⟩] ∧
      t.ctx.barArr = s.ctx.barArr + BitVec.ofNat 16 (4 ^ g.toNat) ∧ KeepsRegs s.ctx t.ctx ∧
        t.mem = (passWindow s (tagScope (s.tag g.toNat).scope)).mem
    let asleep (n : Nat) (anew : Bool) (t : State) : Prop := t.ctx.pc = s.ctx.pc ∧ t.ctx.barAwait = some (n, anew) ∧
      (t.ctx.wait.map fun w => (w.kind, w.val)) = some (.barrier, BitVec.ofNat 64 (n % 2 ^ 32 * 2 ^ 32 + g.toNat))
    ((s.tag g.toNat).enable = true → (s.tag g.toNat).realm = s.ctx.realm →
      (s.ctx.inTag g = true → EndsAs (.join g) s s) ∧
      (s.ctx.inTag g = false → s.ctx.joining = false → ∃ t, exec (.join g) s = .next t ∧
        t.treeOps = s.treeOps ++ [⟨s.cur.1, s.cur.2, g.toNat, .join, some s.ctx.gen⟩] ∧ t.ctx.joining = true ∧
        t.ctx.pc = s.ctx.pc ∧
        KeepsRegs s.ctx t.ctx ∧ t.mem = s.mem)) ∧
    (MayUseTag s g → s.ctx.barResume = false →
      (releaseDone s (tagScope (s.tag g.toNat).scope) = true →
        (∃ t, exec (.leave g) s = .next t ∧ Completes s.ctx t.ctx (s.ctx.pc + 4) ∧ KeepsRegs s.ctx t.ctx ∧
          t.mem = (passWindow s (tagScope (s.tag g.toNat).scope)).mem ∧ t.ctx.inTag g = false ∧ t.ctx.arr g = 0 ∧
          t.treeOps = s.treeOps ++ [⟨s.cur.1, s.cur.2, g.toNat, .leave, none⟩]) ∧
        (s.ctx.arr g < 2 →
          (∃ t, exec (.bar g) s = .next t ∧ arrived t ∧ asleep (myGen s g + s.ctx.arr g) false t) ∧
          (∃ t, exec (.bararr g) s = .next t ∧ arrived t ∧ Completes s.ctx t.ctx (s.ctx.pc + 4))) ∧
        (2 ≤ s.ctx.arr g → ∀ i ∈ [Instr.bar g, .bararr g], ∃ t, exec i s = .next t ∧ asleep (myGen s g) true t ∧
          KeepsRegs s.ctx t.ctx ∧ t.ctx.barArr = s.ctx.barArr ∧ t.treeOps = s.treeOps)) ∧
      (s.ctx.arr g = 0 → EndsAs (.bwait g) s s) ∧
      (s.ctx.arr g ≠ 0 → ∃ t, exec (.bwait g) s = .next t ∧ asleep (myGen s g + s.ctx.arr g - 1) false t ∧
        KeepsRegs s.ctx t.ctx ∧ t.treeOps = s.treeOps)) ∧
    (TakesTraps s → (s.tag g.toNat).enable = false → ∀ i ∈ [Instr.join g, .leave g, .bar g, .bararr g, .bwait g],
      ∃ t, exec i s = .next t ∧ TrapEntered s t 0x0A s.ctx.pc (BitVec.ofNat 64 (2 * 256 + g.toNat)) 0)) ∧ (
  ∀ s (g : Tag),
    let x := s.tag g.toNat
    (∀ o, s.treeOps = [o] → o.tag = g.toNat → slotOwes s o.core o.slot = false →
      (∀ t, t < 8 → (s.tag t).completes = false) →
      ∃ t, exec .barrierTreeApply s = .next t ∧ t.treeOps = [] ∧ t.tag g.toNat = x.apply o ∧ t.mem = s.mem ∧
        let y := s.ctxAt o.core o.slot
        let z := t.ctxAt o.core o.slot
        (o.kind = .join → y.joining = true → o.asker = some y.gen →
          Completes y z (y.pc + 4) ∧ z.inTag g = true ∧ z.arr g = 0) ∧
        (o.kind ≠ .join ∨ y.joining = false ∨ o.asker ≠ some y.gen → z = y)) ∧
    (x.completes = true → ∃ t, exec (.barrierGenComplete g) s = .next t ∧ { t with tags := s.tags } = s ∧
      t.tag g.toNat = { x with done := x.done + 1, completed := x.completed ++ [(x.done, s.cycle.toNat)] }) ∧
    (∀ n c rest due, x.completed = (n, c) :: rest → releaseDue s x = some due → due ≤ s.cycle.toNat →
      (x.members.map fun m => (m.core, m.slot)).Nodup →
      ∃ t, exec (.barrierRelease g) s = .next t ∧ (t.tag g.toNat).gen = n + 1 ∧ (t.tag g.toNat).completed = rest ∧
        t.mem = s.mem ∧ ∀ m ∈ x.members, m.first ≤ n →
          let y := s.ctxAt m.core m.slot
          let z := t.ctxAt m.core m.slot
          z.arr g = y.arr g - 1 ∧ KeepsRegs y z ∧
          (∀ w, y.wait = some w → w.kind = .barrier → w.val.toNat % 8 = g.toNat →
            (y.barAwait = some (n, false) → Completes y z (y.pc + 4)) ∧
            (y.barAwait = some (n, true) → z.wait = none ∧ z.barAwait = none ∧ z.pc = y.pc ∧ z.instret = y.instret))) ∧
    (∀ pkg n, flitOwed s x pkg.toNat = some n → ∃ t, exec (.barrierFlitSend g pkg) s = .next t ∧
      (t.tag g.toNat).sent = x.sent ++ [(n, pkg.toNat)] ∧ t.mem = s.mem ∧ t.cores = s.cores) ∧
    (∀ n p, n < 2 ^ 32 → p < 1024 → n = x.gen % 2 ^ 32 ∨ n = (x.gen + 1) % 2 ^ 32 → x.pkgmap.getLsbD p = true →
      x.flits.any (fun h => h.1 == n && h.2.1 == p) = false →
      ∃ t, exec (.barrierFlitArrival (BitVec.ofNat 64 (4 * 2 ^ 60 + g.toNat * 2 ^ 57 + n * 2 ^ 22 + p * 2 ^ 12))) s =
        .next t ∧ { t with tags := s.tags } = s ∧ t.tag g.toNat = { x with flits := x.flits ++ [(n, p, s.cycle.toNat)] }) ∧
    (∀ v : Word,
      (x.members = [] → (v.extractLsb' 60 3 : BitVec 3).toNat ∈ [1, 2, 3, 4] →
        (v.getLsbD 59 = true → v.extractLsb' 60 3 = 4#3) → ∃ t, exec (.tagWrite g 0 v) s = .next t ∧
          { t with tags := s.tags } = s ∧ t.tag g.toNat =
            { x with enable := v.getLsbD 63, scope := v.extractLsb' 60 3, xdom := v.getLsbD 59, realm := v.setWidth 12 }) ∧
      (x.members ≠ [] → exec (.tagWrite g 0 v) s = .next s)))

/-! ### Copies -/

/-- CCOPY, CCOPY2D, CGATHER and CSCATTER whose checks pass post a copy with the addresses, lengths, strides and counts of
their operands (R353, R354, R356, R259, R260). -/
def Obligations.CopiesArePosted : Prop :=
  ∀ s,
    (∀ d a b, Unlocked s [] [d, a, b] → s.ctx.psn d = false → s.ctx.psn a = false → s.ctx.psn b = false →
      let v := s.ctx.reg b
      v.toNat < 2 ^ 32 → v.toNat % 8 = 0 → GoodAddresses s [s.ctx.reg d, s.ctx.reg a] →
      PostsCopy (.ccopy d a b) s { Copy.blank .linear 0 with
        dst := toWindow s (s.ctx.reg d), src := toWindow s (s.ctx.reg a), rowBytes := v.toNat }) ∧
    (∀ a, DescriptorAt s a →
      let w := descWord s a
      let v := w 3
      let dstride := ((w 2).extractLsb' 32 32).signExtend 64
      let sstride := ((w 2).extractLsb' 0 32).signExtend 64
      (v.getLsbD 47 = false → v.toNat % 8 = 0 → (w 2).toNat % 8 = 0 → (w 2).toNat / 2 ^ 32 % 8 = 0 →
        GoodAddresses s [w 0, w 1] → PostsCopy (.ccopy2d a) s { Copy.blank .linear 1 with
          dst := toWindow s (w 0), src := toWindow s (w 1), rowBytes := v.toNat % 2 ^ 28,
          rows := v.toNat / 2 ^ 48 + 1, dstride, sstride }) ∧
      (∀ u z, v.extractLsb' 32 8 = 0#8 → v.getLsbD 59 = false → (v.extractLsb' 61 3).toNat ≤ 4 →
        let n := (v.extractLsb' 0 32).toNat
        let isz := if v.getLsbD 60 then 8 else 4
        let esz := 8 * 2 ^ (v.extractLsb' 61 3).toNat
        GoodAddresses s [w 0, w 2] → copyCanonical s (w 1) = true → (w 1).toNat % isz = 0 →
        inCluster s (w 1) = some u → inCluster s (w 2) = some z → u.off + n * isz ≤ u.size → z.off + n * esz ≤ z.size →
        let x (k : CopyKind) (fn : Nat) := { Copy.blank k fn with
          dst := toWindow s (w 2), src := toWindow s (w 0), idx := toWindow s (w 1), esize := esz,
          iw64 := v.getLsbD 60, count := n }
        PostsCopy (.cgather a) s (x .gather 2) ∧ PostsCopy (.cscatter a) s (x .scatter 3)))

/-- COPY_EXECUTE moves the next word of a copy, or reads one word of it that it writes later, and INDIRECT_COPY_CHUNK moves
the element that an index picks (R209, R261, R267): exactly the destination word changes; a finished copy is gone. Batches
and arrival words (R262, R263, R359, R364, R265): CSEAL numbers the open batch, a batch without copies finishes, CWAIT goes
on once at most n are unfinished and raises the fault of the oldest faulted one; SYNCARM sets the target and arms the word.
-/
def Obligations.CopiesRun : Prop :=
  (
  ∀ s x p q k l, s.mem.copies.find? (fun y => y.id == x.id) = some x → x.fault = none → x.aw = none → s.stop.phase = 0 →
    p.direct = true → p.key? s = some k → q.key? s = some l → s.mem.psn k = false → s.mem.isArmed (l - l % 16) = false →
    (x.kind = .linear → x.rows = 1 → x.prog < x.rowBytes / 8 → x.ahead = [] → fget x.got none x.prog = none →
      let o := BitVec.ofNat 64 (8 * x.prog)
      x.inRow 0 (x.src + o) = false → resolve s x.agent (x.src + o) 8 needRead true true = .ok p →
      resolve (noteWalk s x.agent (x.src + o)) x.agent (x.dst + o) 8 needWrite true true = .ok q →
      ∃ t, exec (.copyExecute x.id (.run 1)) s = .next t ∧ Holds t l 8 (s.mem.load k 8) ∧ BytesKeptOutside s t l 8 ∧
        t.cores = s.cores ∧ (t.mem.copies.filter fun y => y.id ≠ x.id) = (s.mem.copies.filter fun y => y.id ≠ x.id) ∧
        if x.prog + 1 = x.rowBytes / 8 then t.mem.copy? x.id = none
        else ∃ z, t.mem.copy? x.id = some z ∧ { z with prog := x.prog, got := x.got } = x ∧ z.prog = x.prog + 1 ∧
          fget z.got none x.prog = none) ∧
    (∀ j, x.kind = .linear → x.rows = 1 → x.done j = false → j < x.rowBytes / 8 → fget x.got none j = none →
      let a := x.src + BitVec.ofNat 64 (8 * j)
      x.inRow 0 a = false → resolve s x.agent a 8 needRead true true = .ok p →
      ∃ t, exec (.copyExecute x.id (.read j)) s = .next t ∧ BytesKept s t ∧ t.cores = s.cores ∧
        t.mem.copy? x.id = some { x with got := fset x.got none j (some (s.mem.load k 8, false)) }) ∧
    (x.kind = .gather → x.count = 1 → x.esize = 8 → x.prog = 0 → x.iw64 = true → x.pending = [] → x.got = [] → ∀ r i,
      let a := x.src + s.mem.load i 8 * 8
      inGlobal x.idx = false → inGlobal x.dst = false →
      resolve s x.agent x.idx 8 needRead true true = .ok r → r.direct = true → r.key? s = some i → s.mem.psn i = false →
      resolve s x.agent a 8 needRead true true = .ok p → (noteWalk s x.agent a).mem = s.mem →
      resolve (noteWalk s x.agent a) x.agent x.dst 8 needWrite true true = .ok q →
      ∃ t, exec (.indirectCopyChunk { work := x.id }) s = .next t ∧ Holds t l 8 (s.mem.load k 8) ∧ BytesKeptOutside s t l 8 ∧
        t.cores = s.cores ∧ t.mem.copies = s.mem.copies.filter fun y => y.id ≠ x.id)) ∧ (
  ∀ s,
    (∀ d, Unlocked s [d] [] → s.ctx.batches.length < 16 →
      ∃ t, exec (.cseal d) s = .next t ∧ Completes s.ctx t.ctx (s.ctx.pc + 4) ∧
        let n : BitVec 16 := if s.ctx.cseq + 1 = 0 then 1 else s.ctx.cseq + 1
        WritesReg s.ctx t.ctx d (n.setWidth 64) false ∧ t.ctx.cseq = n ∧ t.ctx.openN = 0 ∧
        t.ctx.batches = s.ctx.batches ++ [{ num := n, fault := s.ctx.openFault }] ∧ BytesKept s t ∧
        ∀ x ∈ t.mem.copies, x.by s.cur.1 s.cur.2 s.ctx.gen = true → x.batch ≠ none) ∧
    (∀ a, Unlocked s [] [a] → s.ctx.psn a = false →
      ((∀ b ∈ s.ctx.batches, b.fault = none) → s.ctx.batches.length ≤ Min.min (s.ctx.reg a).toNat 16 →
        ∃ t, exec (.cwait a) s = .next t ∧ CompletesAt s t 0 ∧ KeepsRegs s.ctx t.ctx ∧ t.mem = s.mem ∧
          StaleAfter s t true .package) ∧
      (∀ b e, TakesTraps s → s.ctx.batches = [b] → b.fault = some e → s.ctx.reg a = 0 →
        ∃ t, exec (.cwait a) s = .next t ∧ BytesKept s t ∧ TrapEntered s t e.cause.code s.ctx.pc e.addr
          (b.num.setWidth 64 ||| BitVec.ofNat 64 (e.fn * 2 ^ 16)))) ∧
    (∀ (core : BitVec 13) (slot : BitVec 3) b rest, (s.ctxAt core.toNat slot.toNat).batches = b :: rest → b.fault = none →
      s.mem.copies.any (fun y => y.by core.toNat slot.toNat (s.ctxAt core.toNat slot.toNat).gen && y.batch = some b.num) =
        false → ∃ t, exec (.batchFinish core slot) s = .next t ∧ OnlyContext core.toNat slot.toNat s t ∧
        t.ctxAt core.toNat slot.toNat = { s.ctxAt core.toNat slot.toNat with batches := rest }) ∧
    (∀ a b lv l p k, Unlocked s [] [a, b] → s.ctx.psn a = false → s.ctx.psn b = false → s.cur.1 ≠ mgmtCore →
      let va := s.ctx.reg a
      let v := s.ctx.reg b
      inGlobal va = false → va.toNat % 16 = 0 → v ≠ 0 → v.toNat < 2 ^ 32 →
      resolve s { s.agent with super := true } va 1 needWrite false false = .ok p →
      resolve s s.agent va 1 needWrite false false = .ok p → p.key? s = some k → settled s p 16 = true →
      ∃ t, exec (.syncarm a b lv l) s = .next t ∧ Completes s.ctx t.ctx (s.ctx.pc + 4) ∧ KeepsRegs s.ctx t.ctx ∧
        Holds t k 8 (v <<< 32) ∧ BytesKeptOutside s t k 16 ∧ t.mem.armed.contains k = true ∧
        Holds t (k + 8) 8 ((s.mem.load (k + 8) 8 &&& 0xFFFFFFFF00000000) ||| 0x80 ||| (if lv then 0x10 else 0) |||
          l.setWidth 64)))

/-! ### Walkers -/

/-- WLAUNCH, WSPLIT, WPERMIT, NSPAWN, NSTAT and NTOKEN whose checks pass send their request and lock g[d] until it is
answered (R128, R434, R164, R153): WLAUNCH and NTOKEN once their release is done. -/
def Obligations.RequestsAreSent : Prop :=
  ∀ s d a b, s.ctx.psn a = false →
    let x (fn : Nat) (v w : Word) (n : Option Nat) : WReq :=
      { core := s.cur.1, slot := s.cur.2, gen := s.ctx.gen, d := d.toNat, realm := s.agent.realm, fn, opA := v, opB := w,
        issuer := n }
    let walk (i : Instr) (q : WReq) : Prop :=
      ∃ t, exec i s = .next t ∧ SendsRequest s { s with wreqs := s.wreqs ++ [{ q with time := s.cycle.toNat }] } t d
    let graph (i : Instr) (fn : Nat) (w : Word) : Prop :=
      ∃ t, exec i s = .next t ∧ SendsRequest s { s with eph := { s.eph with requests := s.eph.requests ++
        [x fn (s.ctx.reg a) w (if tiKind s.ctx.tinfo = 3 then some s.ctx.nodeid.toNat else none)] } } t d
    let page (v : Word) : Prop := ∃ p, resolve s s.agent v 1 needRead false false = .ok p
    (Unlocked s [d] [a] →
      (let va := s.ctx.reg a
       let last := (va + 255) &&& ~~~0xFFFF
       va.toNat % 64 = 0 → inGlobal va = true → page va → (va.toNat < last.toNat → page last) →
       releaseDone s .package = true → walk (.wlaunch d a) (x 0 va 0 none)) ∧
      walk (.wsplit d a) (x 1 (s.ctx.reg a) 0 none) ∧ graph (.nstat d a) 2 0 ∧
      (releaseDone s .package = true → graph (.ntoken d a) 3 0)) ∧
    (Unlocked s [d] [a, b] → s.ctx.psn b = false →
      walk (.wpermit d a b) (x 2 (s.ctx.reg a) (s.ctx.reg b) none) ∧ graph (.nspawn d a b) 0 (s.ctx.reg b))

/-- A router serves the requests that reach it, of those of one kind and cycle the lowest core's first (R129, R130, R434,
R435): a good record takes a walker slot in LOAD with its physical address, a malformed one answers refusal 9 with the
offset of its bad word; a split gives the later half of the victim's range to a new part; a permit adds the core's sets. A
router serves one launch in a cycle and a victim one split. The answer is written to the locked register (R128). The victim
of a split that names none is the one by the counts of that moment (log 34). -/
def Obligations.WalkerRequestsAreServed : Prop :=
  ∀ (s : State) i q, s.stop.phase = 0 →
    let t0 : State :=
      noteWalk (launchServed { s with wreqs := s.wreqs.eraseIdx i } q) (walkAgent (routerOf q.core) q.realm) q.opA
    let answers (t : State) (m : Mem) (v : Word) : Prop :=
      t.wreqs = s.wreqs.eraseIdx i ∧ t.mem = m ∧ t.cores = s.cores ∧
        t.answers = s.answers ++ [{ core := q.core, slot := q.slot, gen := q.gen, d := q.d, val := v }]
    (s.wreqs[i]? = some q → firstRequest s i = true →
      (∀ o, q.fn = 0 → launchDue s q = true → checkRecord t0 (routerOf q.core) q.realm q.opA none = .malformed o →
        ∃ t, exec (.launchRequest i) s = .next t ∧ answers t t0.mem (BitVec.ofNat 64 (0x89 * 2 ^ 56 + o))) ∧
      (∀ pa w n, q.fn = 0 → launchDue s q = true → checkRecord t0 (routerOf q.core) q.realm q.opA none = .good pa w →
        placeRoot t0 w = some n →
        ∃ t, exec (.launchRequest i) s = .next t ∧ t.wreqs = s.wreqs.eraseIdx i ∧ t.mem = t0.mem ∧ t.cores = s.cores ∧
          t.answers = s.answers ∧ (t.walker n).state = .load ∧ (t.walker n).sgen = (s.walker n).sgen + 1 ∧
          (t.walker n).realm = q.realm ∧ (t.walker n).record = q.opA ∧ (t.walker n).phys = pa ∧
          ∀ m, m ≠ n → t.walker m = s.walker m) ∧
      (∀ v n, q.fn = 1 → splitVictim s q = .inr v → hasDecided s v = true → (s.walker v).state = .run →
        (s.walker v).splitCycle ≠ some s.cycle.toNat →
        let w := s.walker v
        2 * recMinSplit w.words ≤ w.end_ - w.cur → freeWalker s (routerOf q.core) = some n →
        let mid := w.cur + (w.end_ - w.cur + 1) / 2
        ∃ t, exec (.splitServe i) s = .next t ∧ answers t s.mem ((t.inst n).setWidth 64) ∧
          (t.walker v).end_ = mid ∧ (t.walker v).children = w.children + 1 ∧ (t.walker v).cur = w.cur ∧
          (t.walker n).state = .run ∧ (t.walker n).cur = mid ∧ (t.walker n).end_ = w.end_ ∧
          (t.walker n).parent = s.inst v ∧ (t.walker n).root = w.root ∧ (t.walker n).words = w.words ∧
          (t.walker n).mask = [clusterOf q.core]) ∧
      (let n := walkerOf (q.opA.setWidth 16)
       let w := s.walker n
       q.fn = 2 → permitDue s q = true → q.opA.toNat < 2 ^ 16 → s.holds (q.opA.setWidth 16) = true → w.realm = q.realm →
       ownedBy s q.core w.realm = true → w.state = .run ∨ w.state = .fault → w.frozen = false →
       w.mask.contains (clusterOf q.core) = true → q.opB.toNat < 2 ^ recSets w.words →
       let m : BitVec 16 := fget w.permits 0 q.core ||| q.opB.setWidth 16
       ∃ t, exec (.permitServe i) s = .next t ∧ answers t s.mem (m.setWidth 64) ∧ fget (t.walker n).permits 0 q.core = m)) ∧
    (∀ x, s.answers[i]? = some x →
      let u : State := { s with answers := s.answers.eraseIdx i }
      let y := s.ctxAt x.core x.slot
      (y.occupied = true → y.gen = x.gen → x.graphTrap = false →
        ∃ t, exec (.walkerAnswer i) s = .next t ∧ OnlyContext x.core x.slot u t ∧
          WritesReg y (t.ctxAt x.core x.slot) (BitVec.ofNat 5 x.d) x.val false ∧
          (t.ctxAt x.core x.slot).locked (BitVec.ofNat 5 x.d) = false) ∧
      (y.occupied = false ∨ y.gen ≠ x.gen → exec (.walkerAnswer i) s = .next u))

/-- An instance loads its record, assigns its tiles in turn and reports when its part is done (R117, R119, R132, R133). -/
def Obligations.WalkersRun : Prop :=
  ∀ (s : State) (inst : BitVec 16), s.holds inst = true →
    let n := walkerOf inst
    let w := s.walker n
    w.frozen = false →
    (∀ pa rw c k g d, w.state = .load → w.asker = some (c, k, g, d) →
      checkRecord s (walkRouter n) w.realm w.record w.node = .good pa rw →
      ∃ t, exec (.walkerLoadDone inst) s = .next t ∧ t.mem = s.mem ∧ t.cores = s.cores ∧
        t.answers = s.answers ++ [{ core := c, slot := k, gen := g, d, val := inst.setWidth 64 }] ∧
        let x := t.walker n
        x.state = .run ∧ x.words = rw ∧ x.phys = pa ∧ x.cur = 0 ∧ x.end_ = recTiles rw ∧ x.mask = targets s rw ∧
          x.permits = if recIpermit rw then initialPermits s rw w.realm else []) ∧
    (∀ c, walkTurn s (walkRouter n) = some n → (s.router (walkRouter n)).walkCycle ≠ some s.cycle.toNat →
      chooseCore s w = some c →
      let m := fget w.permits 0 c
      let set := lowestBit m
      ∃ t, exec (.walkerDispatch inst) s = .next t ∧ t.mem = s.mem ∧ t.cores = s.cores ∧
        let x := t.walker n
        x.cur = w.cur + 1 ∧ x.state = (if w.cur + 1 = w.end_ then .drain else .run) ∧ x.lastCore = c ∧
          x.tiles = w.tiles ++ [{ index := w.cur, core := c, set, phase := .fetching }] ∧
          fget x.permits 0 c = m &&& ~~~(BitVec.ofNat 16 (2 ^ set)) ∧ ∀ k, k ≠ n → t.walker k = s.walker k) ∧
    (w.cancelPending = true → w.state = .run ∨ w.state = .drain ∨ w.state = .fault →
      ∃ t, exec (.launchCancel inst) s = .next t ∧ t.mem = s.mem ∧ (∀ c k, t.ctxAt c k = s.ctxAt c k) ∧
        (t.walker n).state = .cancel ∧ (t.walker n).flags = w.flags ||| 0x80 ∧ (t.walker n).cancelPending = false ∧
        ∀ c, ∀ x ∈ (t.core c).starts ++ (t.core c).incoming, tiKind x.tinfo = 2 → x.walkid.extractLsb' 0 16 ≠ inst) ∧
    (w.state = .drain ∨ w.state = .cancel → w.tiles = [] → w.children = 0 →
      let freed (t : State) : Prop := exec (.partDone inst) s = .next t ∧ (t.walker n).state = .free ∧
        (t.walker n).sgen = w.sgen ∧ t.cores = s.cores
      (w.parent ≠ 0 → ∃ t, freed t ∧ t.mem = s.mem ∧
        t.dones = s.dones ++ [{ inst := w.parent, node := none, status := w.status }]) ∧
      (∀ k, w.parent = 0 → w.node = some k → ∃ t, freed t ∧ t.mem = s.mem ∧
        t.dones = s.dones ++ [{ inst := 0, node := some k, status := w.status }]) ∧
      (∀ u c, w.parent = 0 → w.node = none → doneUnit s (recDone w.words) = some u → u.core = some c →
        u.pkg = s.package.toNat → ownsUnit s u w.realm = true → s.mem.isArmed (u.key u.off - u.key u.off % 16) = false →
        ∃ t, freed t ∧ Holds t (u.key u.off) 8 w.status ∧ BytesKeptOutside s t (u.key u.off) 8 ∧
          t.mem.isFull (u.key u.off) = true))

/-- A tile is fetched, starts at its core, retires with its write-back, and a failed fetch or write-back raises WALK at its
core's supervisor (R125, R126, R118, R134). -/
def Obligations.TilesRun : Prop :=
  ∀ (s : State) (inst : BitVec 16) tile x, s.tile? inst tile = some x →
    let n := walkerOf inst
    let w := s.walker n
    let r := x.record w
    (x.fault = none → x.moved = [] → x.got = [] →
      (∀ l, x.phase = .fetching → tileChecks s inst x false = .places l →
        clipped r (tileCoords r x.index) = false →
        ∃ t, exec (.footprintFetchDone inst { work := tile }) s = .next t ∧
          t.tile? inst tile = some { x with phase := .starting, moved := [], got := [] } ∧
          (t.core x.core).incoming = (s.core x.core).incoming ++ [tileStartOf s inst x] ∧
          (∀ c k, t.ctxAt c k = s.ctxAt c k) ∧ (l = [] → t.mem = s.mem) ∧
          ∀ b p k, l = [(8, b, p)] → p.direct = true → p.key? s = some k →
            let at_ := keySram x.core b
            bufferOverlap r b 8 = false → setShared s inst x = false → (noteMoves s inst x false).mem = s.mem →
            s.mem.isArmed (at_ - at_ % 16) = false →
            Holds t at_ 8 (s.mem.load k 8) ∧ BytesKeptOutside s t at_ 8) ∧
      (x.phase = .writingBack →
        let retired (t : State) : Prop := exec (.tileRetire inst { work := tile }) s = .next t ∧ t.tile? inst tile = none ∧
          fget (t.walker n).permits 0 x.core = fget w.permits 0 x.core ||| BitVec.ofNat 16 (2 ^ x.set) ∧ t.cores = s.cores
        (x.noWrite = true → ∃ t, retired t ∧ t.mem = s.mem ∧ (t.walker n).retired = w.retired) ∧
        (∀ l, x.noWrite = false → storesPending s x = false → tileChecks s inst x true = .places l → ∃ t, retired t ∧
          (t.walker n).retired = w.retired + 1 ∧ (l = [] → t.mem = s.mem) ∧
          ∀ b o nc k, l = [(8, b, .global o nc k)] → s.mem.psn (keySram x.core b) = false →
            outOverlap s w.root w.part x.index (keyGlobal o) 8 = false → (noteMoves s inst x true).mem = s.mem →
            Holds t (keyGlobal o) 8 (s.mem.load (keySram x.core b) 8) ∧ BytesKeptOutside s t (keyGlobal o) 8))) ∧
    (∀ f, tileFault s inst x = some f → (s.core x.core).trap.active = false → (s.core x.core).trap.held = [] →
      (s.core x.core).stopped = false →
      ∃ t, exec (.walkerFault inst tile) s = .next t ∧
        t.mem = (if x.fault.isNone then noteMoves s inst x f.2.1 else s).mem ∧
        NoticeAt s t x.core 0x13 f.2.2.2 (walkTctx inst tile f) ∧
        t.tile? inst tile = some { x with fault := some f, raised := true } ∧
        (t.walker n).state = if w.state = .run ∨ w.state = .drain then .fault else w.state) ∧
    (∀ (core : BitVec 12) i st, (s.core core.toNat).incoming[i]? = some st → st.walkid.extractLsb' 0 16 = inst →
      (st.walkid.extractLsb' 32 32).toNat = tile →
      (setBusy s inst x = true → ∃ t, exec (.tileStart core i) s = .next t ∧ t.mem = s.mem ∧
        (t.core core.toNat).incoming = (s.core core.toNat).incoming.eraseIdx i ∧
        t.tile? inst tile = some { x with phase := .fetching, fault := some (5, false, 0, 0) }) ∧
      (setBusy s inst x = false →
        (∀ k, freeSlot s core.toNat st.engine = some k → ∃ t, exec (.tileStart core i) s = .next t ∧ t.mem = s.mem ∧
          StartsTask s t core.toNat k st ∧ t.tile? inst tile = some { x with phase := .started }) ∧
        (freeSlot s core.toNat st.engine = none → ∃ t, exec (.tileStart core i) s = .next t ∧ t.mem = s.mem ∧
          (t.core core.toNat).starts = (s.core core.toNat).starts ++ [st] ∧
          t.tile? inst tile = some { x with phase := .started })))

/-! ### The Ephemeris -/

/-- Bindings (R144, R145, R162): a write that the host may make (R291, R305) is taken unless the bound graph runs, its check
binds the graph or names the first bad word, and a CANCEL sends a running graph to its cancel sweep. A trigger's effect (R160,
R147): refused with code 1 where nothing is bound; held while the graph runs; else the run starts: INSTANCE counts, the
header becomes RUNNING and every root READY. What the check takes as malformed beyond R145's list is log 82, and that a CANCEL
acts at once during a stop log 84. -/
def Obligations.BindingsAndTriggers : Prop :=
  (
  ∀ (s : State) (k : BitVec 15) v,
    let b := s.binding k.toNat
    let h := b.graph.toNat
    let only (t : State) (x : Binding) : Prop := { t with eph := s.eph } = s ∧ t.binding k.toNat = x ∧
      (∀ j, j ≠ k.toNat → t.binding j = s.binding j)
    (hostReaches s = true → v.getLsbD 62 = false → (b.bstat = 2 → isRunning s h = false ∧ hHeld s h = false) →
      ∃ t, exec (.bind k v) s = .next t ∧ only t
        { enable := v.getLsbD 63, bstat := if v.getLsbD 63 then 1 else 0, realm := v.extractLsb' 48 12,
          graph := v.setWidth 32 }) ∧
    (v.getLsbD 62 = false → b.bstat = 2 → isRunning s h = true ∨ hHeld s h = true → exec (.bind k v) s = .next s) ∧
    (b.bstat = 1 →
      (checkGraph s h b.realm = none → ∃ t, exec (.bindCheckDone k) s = .next t ∧ only t { b with bstat := 2 }) ∧
      (∀ n o, checkGraph s h b.realm = some (n, o) → ∃ t, exec (.bindCheckDone k) s = .next t ∧ only t { b with bstat := 3 } ∧
        t.eph.badnode = BitVec.ofNat 32 n ∧ t.eph.badoff = BitVec.ofNat 8 o)) ∧
    (hostReaches s = true → v.getLsbD 62 = true → isBound s h = true → isRunning s h = true →
      fget s.eph.heldTrigger none h = none →
      ∃ t, exec (.graphCancel k v) s = .next t ∧ exec (.bind k v) s = .next t ∧ nStatus t h = 2 ∧
        (t.sweep h).cancelling = true ∧ (t.sweep h).queue = [] ∧ (t.sweep h).pend = [] ∧ t.cores = s.cores ∧
        t.walkers = s.walkers ∧ BytesKeptOutside s t (nodeKey h 0) 128)) ∧ (
  ∀ (s : State) (k : BitVec 15) (v : Word), s.stop.phase = 0 → hostReaches s = true →
    let b := s.binding k.toNat
    let h := b.graph.toNat
    let seq := (v.extractLsb' 0 16).toNat
    let low (t : State) : Prop := (fget t.host.trigseq 0 k.toNat).extractLsb' 0 16 = v.extractLsb' 0 16
    (b.bstat ≠ 2 → s.host.queue.length < 256 → ∃ t, exec (.trigger k v) s = .next t ∧ t.mem = s.mem ∧ t.eph = s.eph ∧
      t.host.queue = s.host.queue ++ [⟨k.toNat, recordWord1 seq 1 0 0 1 k.toNat, BitVec.ofNat 64 h, 0, none⟩]) ∧
    (b.bstat = 2 → isRunning s h = true → hHeld s h = false → ∃ t, exec (.trigger k v) s = .next t ∧ hHeld t h = true ∧
      nget t h 3 32 16 = seq ∧ nget t h 4 0 52 = (v.extractLsb' 16 48).toNat * 16 ∧ low t ∧
      BytesKeptOutside s t (nodeKey h 0) 128 ∧ fget t.eph.heldTrigger none h = some k.toNat) ∧
    (b.bstat = 2 → isRunning s h = false → v.extractLsb' 16 48 = 0#48 →
      ∃ t, exec (.trigger k v) s = .next t ∧ hInstance t h = (hInstance s h + 1) % 2 ^ 32 ∧ low t ∧
        (let roots := hRoots s h
         let list := nget s h 1 0 32
         list + 4 * nget s h 1 48 16 ≤ 128 * h ∨ 128 * (h + 1 + (extent s h).nodes) ≤ list →
         (∀ n ∈ roots, inGraph s h n = true ∧ nTemplate s n = false) →
         nStatus t h = 1 ∧ ∀ n ∈ roots, nStatus t n = 2 ∧ t.eph.ready.any (fun r => r.1 == n) = true)))

/-- Nodes run (R148 to R151): a token counts down and the last one makes its node READY; a decision starts a TASK node's
task at its core; a body that ends makes its node DONE and sends tokens to its successors, or WAITS for its children. A
token goes only to a record of the node's own graph (log 74). -/
def Obligations.NodesRun : Prop :=
  ∀ s, s.stop.phase = 0 →
    (∀ i n, s.eph.tokens[i]? = some n → (s.eph.tokens.take i).any (fun m => m % 16 = n % 16) = false → nStatus s n = 1 →
      let left := nget s n 1 32 32
      let taken (t : State) : Prop := exec (.tokenDelivery i) s = .next t ∧ t.eph.tokens = s.eph.tokens.eraseIdx i ∧
        nget t n 1 32 32 = left - 1 ∧ t.cores = s.cores
      (1 < left → ∃ t, taken t ∧ nStatus t n = 1 ∧ t.eph.ready = s.eph.ready) ∧
      (left = 1 → ∃ t, taken t ∧ nStatus t n = 2 ∧ t.eph.ready = s.eph.ready ++ [(n, 0)])) ∧
    (∀ (shard : BitVec 4) n c k,
      let u := ((s.eph.ready.map (·.1)).filter (· % 16 = shard.toNat)).foldl noteLaunch s
      choosePick u (u.eph.ready.filter fun r => r.1 % 16 = shard.toNat && dispatchable u r.1) = some n → nKind u n = 2 →
      let realm := hRealm u (nGraph u n)
      taskCore u n realm = some c → freeSlot u c (nget u n 0 51 1 = 1) = some k →
      ∃ t, exec (.nodeDispatch shard) s = .next t ∧ nStatus t n = 3 ∧ nget t n 10 48 8 = min 255 (nget u n 10 48 8 + 1) ∧
        StartsTask s t c k (nodeStart u n realm) ∧ t.eph.ready.any (fun r => r.1 == n) = false ∧ isLive t n = true) ∧
    (∀ i n, s.eph.ends[i]? = some (n, false) → nodeOwes s n = false → nStatus s n = 3 → s.eph.taken.contains n = false →
      let ended (t : State) : Prop := exec (.nodeBodyEnd i) s = .next t ∧ t.eph.ends = s.eph.ends.eraseIdx i ∧
        isLive t n = false ∧ t.cores = s.cores
      (nJoin s n = 0 → ∃ t, ended t ∧ nStatus t n = 5 ∧ nget t n 0 50 1 = 0 ∧
        t.eph.tokens = s.eph.tokens ++ (nSuccs t n).filter (sameGraph t n)) ∧
      (nJoin s n ≠ 0 → ∃ t, ended t ∧ nStatus t n = 4 ∧ t.eph.tokens = s.eph.tokens)) ∧
    (∀ i inst st, s.dones[i]? = some { inst, node := none, status := st } → s.holds inst = true →
      ∃ t, exec (.doneMessageArrival i) s = .next t ∧ t.dones = s.dones.eraseIdx i ∧ t.mem = s.mem ∧
        let w := s.walker (walkerOf inst)
        let x := t.walker (walkerOf inst)
        x.children = w.children - 1 ∧ x.retired = w.retired + (st.extractLsb' 32 32).toNat ∧
          x.flags = w.flags ||| st.extractLsb' 0 8) ∧
    (∀ i inst n st, s.dones[i]? = some { inst, node := some n, status := st } → s.eph.faults.any (·.1 == n) = false →
      nStatus s n = 3 → nJoin s n = 0 → s.eph.taken.contains n = false →
      ∃ t, exec (.doneMessageArrival i) s = .next t ∧ t.dones = s.dones.eraseIdx i ∧ nStatus t n = 5 ∧
        nget t n 10 40 8 = (st.extractLsb' 0 8).toNat ∧ nget t n 10 0 32 = (st.extractLsb' 32 32).toNat)

/-- Faults and sweeps (R155, R156, R162): a fault makes a RUNNING node FAILED and queues its sweep, or under RETRY makes it
READY again with one retry fewer; a sweep's visit cancels a node that has not started. The run's end and its record (R158,
R295, R296, R164): once the writes of its ended tasks have been performed the state is 3 DONE, 5 FAILED or 4 PARTIAL by the
counts, the record carries them, and is written into the host's ring with DEVSEQ last; a graph instruction's answer unlocks
g[d]. -/
def Obligations.FaultsAndRunsEnd : Prop :=
  (
  ∀ s, s.stop.phase = 0 → s.eph.taken = [] →
    (∀ i n reason code, s.eph.faults[i]? = some (n, reason, code) → reason < 256 → reason ≠ 3 → nodeOwes s n = false →
      nStatus s n = 3 →
      let h := nGraph s n
      ownGraph s n = some h → inGraph s h n = true → launchRuns s n = false →
      (nPolicy s n = 0 → ∃ t, exec (.nodeFault i) s = .next t ∧ t.eph.faults = s.eph.faults.eraseIdx i ∧ nStatus t n = 6 ∧
        nget t n 10 56 8 = reason ∧ nget t n 10 0 32 = code.toNat ∧ nStatus t h = 2 ∧
        (t.sweep h).pend = (s.sweep h).pend ++ [n] ∧ t.cores = s.cores) ∧
      (nPolicy s n = 1 → nget s n 0 32 8 ≠ 0 → nJoin s n = 0 → ∃ t, exec (.nodeFault i) s = .next t ∧
        t.eph.faults = s.eph.faults.eraseIdx i ∧ nStatus t n = 2 ∧ nget t n 0 32 8 = nget s n 0 32 8 - 1 ∧
        t.eph.ready = s.eph.ready ++ [(n, 0)] ∧ t.cores = s.cores)) ∧
    (∀ h n rest, isBound s h = true → nStatus s h = 2 → (s.sweep h).due ≤ s.cycle.toNat → (s.sweep h).cancelling = false →
      (s.sweep h).queue = n :: rest → nStatus s n = 1 ∨ nStatus s n = 2 → inGraph s h n = true →
      ∃ t, exec (.sweepVisit h) s = .next t ∧ nStatus t n = 7 ∧ (t.sweep h).seen = (s.sweep h).seen ++ [n] ∧
        t.eph.ready.any (fun r => r.1 == n) = false ∧ t.cores = s.cores)) ∧ (
  ∀ (s : State), s.stop.phase = 0 →
    (∀ h, isBound s h = true → runEnded s h = true → runOwes s h = false → s.host.queue.length < 256 →
      fget s.eph.heldTrigger none h = none →
      let done := nget s h 6 32 32
      let fail := nget s h 6 0 32
      let canc := nget s h 7 32 32
      let state := if fail = 0 ∧ canc = 0 then 3 else if done = 0 then 5 else 4
      let k := fget s.eph.runTrigger 0 h
      ∃ t, exec (.runFinal h) s = .next t ∧ nStatus t h = state ∧ t.cores = s.cores ∧ BytesKeptOutside s t (nodeKey h 0) 8 ∧
        t.host.queue = s.host.queue ++ [⟨k, recordWord1 (nget s h 3 48 16) 0 state (nget s h 0 55 1) 0 k,
          BitVec.ofNat 64 (hInstance s h * 2 ^ 32 + h),
          BitVec.ofNat 64 (done % 2 ^ 20 * 2 ^ 40 + fail % 2 ^ 20 * 2 ^ 20 + canc % 2 ^ 20), none⟩]) ∧
    (∀ r rest, s.host.queue = r :: rest → ringRoom s = true →
      let n := s.host.devseq + 1
      let a := keyHost ((s.host.crbase.toNat * 32 + 32 * (s.host.devseq.toNat % 2 ^ s.host.crlogn.toNat)) % 2 ^ 64)
      ∃ t, exec .completionRecordWrite s = .next t ∧ t.host.queue = rest ∧ t.host.devseq = n ∧ t.cores = s.cores ∧
        Holds t a 8 n ∧ Holds t (a + 8) 8 r.w1 ∧ Holds t (a + 16) 8 r.w2 ∧ Holds t (a + 24) 8 r.w3 ∧
        BytesKeptOutside s t a 32 ∧ t.host.msix = if s.host.crint then s.host.msix + 1 else s.host.msix) ∧
    (∀ i q v u, s.eph.requests[i]? = some q →
      graphAct { s with eph := { s.eph with requests := s.eph.requests.eraseIdx i } } q = .value v u →
      (u.ctxAt q.core q.slot).occupied = true → (u.ctxAt q.core q.slot).gen = q.gen →
      ∃ t, exec (.graphAnswer i) s = .next t ∧ OnlyContext q.core q.slot u t ∧
        WritesReg (u.ctxAt q.core q.slot) (t.ctxAt q.core q.slot) (BitVec.ofNat 5 q.d) v false ∧
        (t.ctxAt q.core q.slot).locked (BitVec.ofNat 5 q.d) = false))

/-! ### Tasks that end -/

/-- The end of a task (R368, R412, R97, R127, R151, R274, R165): ENDT and TDONE vacate their slot; TKILL and NFAIL vacate
the slot of the context that the trap froze and end the handling; a tile goes to its write-back, or under NFAIL is lost and
its part cancelled; a node's body ends or fails, the node of a failed tile in the same step (R437). What a tile task of a
node's launch has not had performed its run waits for (R296). That NFAIL answers in its own step is log 38; that a trap's
other fields stay at the end of its handling is log 55. -/
def Obligations.TasksEnd : Prop :=
  ∀ s,
    let c := s.cur.1
    let vacated (t : State) (k : Nat) : Prop :=
      t.ctxAt c k = { occupied := false, freed := some s.cycle.toNat, gen := (s.ctxAt c k).gen } ∧
      (∀ j, j ≠ k → j ≠ 7 → t.ctxAt c j = s.ctxAt c j) ∧ BytesKept s t
    let tile (x : Ctx) : BitVec 16 × Nat := (x.walkid.extractLsb' 0 16, (x.walkid.extractLsb' 32 32).toNat)
    (s.isSuper = false → s.ctx.lock.any (·.2) = false →
      (s.cur.2 = 0 → engineIdle s = true ∧ s.here.engine.fault = none) → s.ctx.openN = 0 → s.ctx.batches = [] →
      s.ctx.barMember = 0 → (tiKind s.ctx.tinfo = 3 → releaseDone s .package = true) → tileStored s = true →
      ∀ i, i = .endt ∨ (i = .tdone ∧ tiKind s.ctx.tinfo = 2) → ∃ t, exec i s = .next t ∧ vacated t s.cur.2 ∧
        t.ctxAt c 7 = s.ctxAt c 7 ∧ (tiKind s.ctx.tinfo ≠ 2 → t.owed = s.owed) ∧
        (tiKind s.ctx.tinfo = 2 → t.owed = (oweRun s c s.cur.2 (runNode s s.ctx)).owed) ∧
        (tiKind s.ctx.tinfo = 3 → t.eph.ends = s.eph.ends ++ [((s.ctx.nodeid.setWidth 32).toNat, false)]) ∧
        ∀ y, tiKind s.ctx.tinfo = 2 → s.tile? (tile s.ctx).1 (tile s.ctx).2 = some y →
          t.tile? (tile s.ctx).1 (tile s.ctx).2 = some { y with phase := .writingBack, noWrite := y.noWrite ||
            (s.walker (walkerOf (tile s.ctx).1)).state == .cancel }) ∧
    (∀ r k d a, s.isSuper = true → s.here.trap.active = true → s.here.trap.handled = some r → r.slot = some k → k < 7 →
      let x := s.ctxAt c k
      let ended (t : State) : Prop := vacated t k ∧ HandlingEnds s t c ∧ Completes s.ctx (t.ctxAt c 7) (s.ctx.pc + 4)
      (∃ t, exec .tkill s = .next t ∧ ended t ∧ KeepsRegs s.ctx (t.ctxAt c 7) ∧
        (tiKind x.tinfo = 3 → t.eph.ends = s.eph.ends ++ [((x.nodeid.setWidth 32).toNat, true)]) ∧
        ∀ y, tiKind x.tinfo = 2 → s.tile? (tile x).1 (tile x).2 = some y →
          t.tile? (tile x).1 (tile x).2 = some { y with phase := .writingBack, noWrite := true }) ∧
      (Unlocked s [d] [a] → s.ctx.psn a = false → tiKind x.tinfo ≠ 2 →
        ∃ t, exec (.nfail d a) s = .next t ∧ ended t ∧
          WritesReg s.ctx (t.ctxAt c 7) d (if tiKind x.tinfo = 3 then x.nodeid &&& 0xFFFFFFFF else 0) false ∧
          (tiKind x.tinfo = 3 → t.eph.faults =
            s.eph.faults ++ [((x.nodeid.setWidth 32).toNat, 1, (s.ctx.reg a).setWidth 32)])) ∧
      (∀ y, Unlocked s [d] [a] → s.ctx.psn a = false → tiKind x.tinfo = 2 → s.tile? (tile x).1 (tile x).2 = some y →
        let n := walkerOf (tile x).1
        let w := s.walker n
        w.state = .run ∨ w.state = .drain ∨ w.state = .fault →
        let lost (t : State) (v : Word) : Prop := exec (.nfail d a) s = .next t ∧ HandlingEnds s t c ∧
          WritesReg s.ctx (t.ctxAt c 7) d v false ∧ Completes s.ctx (t.ctxAt c 7) (s.ctx.pc + 4) ∧
          t.tile? (tile x).1 (tile x).2 = none ∧ (t.walker n).state = .cancel ∧ (t.walker n).flags = w.flags ||| 0xC0
        (w.node = none → ∃ t, lost t 0 ∧ vacated t k) ∧
        (∀ m h, w.node = some m → s.stop.phase = 0 → s.eph.taken = [] → nStatus s m = 3 → nPolicy s m = 0 →
          ownGraph s m = some h → inGraph s h m = true → ∃ t, lost t (BitVec.ofNat 64 m) ∧ nStatus t m = 6 ∧
            nget t m 10 56 8 = 3 ∧ nget t m 10 0 32 = ((s.ctx.reg a).setWidth 32 : BitVec 32).toNat)))

/-! ### Control registers -/

/-- CSRR, CSRW, CSRS and CSRC (R360, R327, R85, R229): g[d] takes the old value and the register the new one; a number above
0x7FF raises PRIV in a user context, a number that names no register ILLEGAL.
What special registers hold after a write (R4, R5, R223, Table 13-16, Table 11-3, Table 4-4): FFLAGS, FRM, FCSR,
WAITLIM, the trap registers, HANDLER and MATCFG take their bits, FRM keeps its value under 5 to 7, read-only registers keep
theirs. MATCFG0 takes its reserved bits too, as R250 stores any value (log 44). -/
def Obligations.ControlRegisters : Prop :=
  (
  ∀ s d a (c : BitVec 12),
    let n := c.toNat
    let known := csrAssigned (decide (s.cur.1 = mgmtCore)) n
    let v := s.ctx.reg a
    let old := csrRead s n
    (known = true → (csrSuper n = true → s.isSuper = true) → (n ≤ 2 → engineIdle s = true) →
      (Unlocked s [d] [] → WritesAs (.csrr d c) s s d old false) ∧
      (Unlocked s [d] [a] → s.ctx.psn a = false →
        WritesAs (.csrw d a c) s (csrWrite s n v) d old false ∧
        (n ≠ 9 → n ≠ 0x32 → WritesAs (.csrs d a c) s (csrWrite s n (old ||| v)) d old false ∧
          WritesAs (.csrc d a c) s (csrWrite s n (old &&& ~~~v)) d old false))) ∧
    (TakesTraps s → ∀ i w, i ∈ [Instr.csrr d c, .csrw d a c, .csrs d a c, .csrc d a c] → encode i = some w →
      (csrSuper n = true → ∃ t, exec i s = .next t ∧ TrapEntered s t 0x02 s.ctx.pc (w.setWidth 64) 0) ∧
      (csrSuper n = false → known = false ∨ (n = 0x32 ∧ i ∈ [Instr.csrs d a c, .csrc d a c]) →
        ∃ t, exec i s = .next t ∧ TrapEntered s t 0x01 s.ctx.pc (w.setWidth 64) 0))) ∧ (
  ∀ s v,
    let after (n : Nat) : Word := csrRead (csrWrite s n v) n
    let x := v.extractLsb' 0 3
    let y := v.extractLsb' 8 3
    let frm (z : BitVec 3) : Word := if z.toNat < 5 then z.setWidth 64 else s.ctx.frm.setWidth 64
    after 0x000 = v &&& 0x1F ∧ after 0x001 = frm x ∧ after 0x002 = (v &&& 0x1F ||| (frm y <<< 8)) ∧
    after 0x020 = v &&& 0xFFFFFFFF ∧ after 0x860 = v &&& 0xFF ∧ after 0x861 = v ∧ after 0x862 = v ∧
    after 0x863 = v &&& 0xFFFF ∧ after 0x865 = v &&& ~~~3 ∧ after 0x866 = v ∧ after 0x867 = v ∧
    (∀ k, k < 62 → after (0x903 + 4 * k) = v) ∧
    (s.inSlot0 = true → s.cur.1 ≠ mgmtCore → ∀ n, 0xA0 ≤ n → n ≤ 0xA3 → after n = v) ∧
    ∀ n ∈ [0x008, 0x010, 0x011, 0x012, 0x013, 0x021, 0x022, 0x030, 0x031, 0x040, 0x050, 0x051, 0x090, 0x091, 0x092, 0x0A4,
      0x0C0, 0x0C1, 0x0C2], csrWrite s n v = s)

/-! ### Traps -/

/-- Traps (R268 to R273, R413, R352, R329, R169, R99, R286): TRAP and BRKPT complete and raise SYSCALL and BREAK, a word
that is no instruction ILLEGAL, a fetch its failure; BUDGET and WAITLIMIT are raised at a boundary or end the wait; a held
trap is handed over when the supervisor is free; a supervisor's own trap halts its core. TVAL of a wait that a trap ends is read
when the trap ends it (log 41). -/
def Obligations.TrapsAreTaken : Prop :=
  ∀ s,
    (TakesTraps s →
      (∀ c, ∃ t, exec (.trap c) s = .next t ∧ TrapEntered s t 0x10 (s.ctx.pc + 4) (c.setWidth 64) 0 ∧
        t.ctx.instret = s.ctx.instret + 1 ∧ BytesKept s t) ∧
      (∃ t, exec .brkpt s = .next t ∧ TrapEntered s t 0x0E (s.ctx.pc + 4) 0 0 ∧ t.ctx.instret = s.ctx.instret + 1 ∧
        BytesKept s t) ∧
      (∀ w, ∃ t, exec (.illegal w) s = .next t ∧ TrapEntered s t 0x01 s.ctx.pc (w.setWidth 64) 0 ∧
        t.ctx.instret = s.ctx.instret ∧ BytesKept s t) ∧
      (∀ e v x, fetchWord s s.cur.1 s.cur.2 s.ctx.pc = .fault e v x → ∃ t, exec .fetchFault s = .next t ∧
        (e ≠ .poison → TrapEntered s t e.code s.ctx.pc v x ∧ BytesKept s t) ∧
        (e = .poison → TrapEntered s t 0x09 s.ctx.pc s.ctx.pc 6))) ∧
    (s.isSuper = true → s.cur.1 ≠ mgmtCore → ∀ c w, ∀ i ∈ [Instr.trap c, .brkpt, .illegal w],
      ∃ t, exec i s = .next t ∧ t.here.halted = true ∧ KeepsRegs s.ctx t.ctx) ∧
    (∀ (core : BitVec 12) (slot : BitVec 3),
      let c := core.toNat
      let k := slot.toNat
      let x := s.ctxAt c k
      (s.core c).trap.active = false → (s.core c).trap.held = [] → atBoundary s c k = true → coprocPends s c k = false →
      (budgetSpent s c k = true →
        (x.wait = none → ∃ t, exec (.budgetExpiry core slot) s = .next t ∧ TrapsAt s t c k 0x08 x.pc 0 0 ∧ BytesKept s t) ∧
        (∀ w, x.wait = some w → w.redo = false → ∃ t, exec (.budgetExpiry core slot) s = .next t ∧
          TrapsAt s t c k 0x08 x.pc (waitVal s c k w) (BitVec.ofNat 64 w.kind.code) ∧ BytesKept s t)) ∧
      (∀ w, budgetSpent s c k = false → k < 7 → c ≠ mgmtCore → x.wait = some w → w.left = 0 → asleep (s.core c) x = true →
        x.graphTrap = none →
        ∃ t, exec (.waitLimitExpiry (core.setWidth 13) slot) s = .next t ∧
          TrapsAt s t c k 0x07 x.pc (waitVal s c k w) (BitVec.ofNat 64 w.kind.code) ∧ BytesKept s t)) ∧
    (∀ (core : BitVec 13) r rest,
      let c := core.toNat
      (s.core c).trap.held = r :: rest → (s.core c).trap.active = false → (s.core c).halted = false →
      (s.core c).stopped = false → ∃ t, exec (.trapHandoff core) s = .next t ∧ t.mem = s.mem ∧
        let x := (t.core c).trap
        x.tcause = r.cause.code ∧ x.tpc = r.pc ∧ x.tval = r.val ∧ x.tctx = r.ctx ∧ x.tseq = r.seq ∧ x.active = true ∧
          x.ctxv = r.slot.isSome ∧ x.imprec = r.imprec ∧ x.held = rest ∧ (t.ctxAt c 7).occupied = true ∧
          (t.ctxAt c 7).pc = (s.core c).trap.tvec ++ 0#2 ∧ (∀ j, j ≠ 7 → t.ctxAt c j = s.ctxAt c j) ∧
          ∀ d, d ≠ c → t.core d = s.core d)

/-- ERET (R274, R369, R247, R135): the frozen context goes on at TPC, with a budget where g[a] gives one, and the handling
ends; after WALK the tile is tried again. WAITEV, PAUSE and HALT (R433, R396, R381): a pulsed event is taken or waited for,
a pause lasts 32 cycles, a halted supervisor rests until its next trap. That a trap's other fields stay at the end of its
handling is log 55. PAUSE sets 34: its own cycle's end counts one, and PAUSE_END takes the last one in the cycle where the
context issues again, so 32 cycles lie between. -/
def Obligations.ReturnsAndWaits : Prop :=
  (
  ∀ s a r, s.isSuper = true → s.here.trap.active = true → s.here.trap.handled = some r → Unlocked s [] [a] →
    s.ctx.psn a = false →
    let c := s.cur.1
    let v := s.ctx.reg a
    let ends (t : State) : Prop := exec (.eret a) s = .next t ∧ HandlingEnds s t c ∧ KeepsRegs s.ctx (t.ctxAt c 7) ∧
      Completes s.ctx (t.ctxAt c 7) (s.ctx.pc + 4) ∧ BytesKept s t ∧ ∀ d, d ≠ c → t.core d = s.core d
    (∀ k, r.slot = some k → k < 7 → s.here.trap.slot.toNat = k → (r.cause = .coproc → k = 0) →
      ∃ t, ends t ∧ (t.core c).trap.wskip = false ∧ (∀ j, j ≠ k → j ≠ 7 → t.ctxAt c j = s.ctxAt c j) ∧
        let x := s.ctxAt c k
        let y := t.ctxAt c k
        y.frozen = false ∧ y.pc = s.here.trap.tpc ∧ y.wskip = s.here.trap.wskip ∧ KeepsRegs x y ∧ y.occupied = x.occupied ∧
          y.tbudget.toNat = if v = 0 then x.tbudget.toNat else min v.toNat 0xFFFFFFFF) ∧
    (r.slot = none → r.cause ≠ .walk → ∃ t, ends t ∧ t.walkers = s.walkers ∧ ∀ j, j ≠ 7 → t.ctxAt c j = s.ctxAt c j) ∧
    (∀ x, r.slot = none → r.cause = .walk → s.tile? (walkTile r.ctx).1 (walkTile r.ctx).2 = some x →
      (s.walker (walkerOf (walkTile r.ctx).1)).state ≠ .cancel → ∃ t, ends t ∧
        t.tile? (walkTile r.ctx).1 (walkTile r.ctx).2 =
          some { x with fault := none, raised := false, moved := [], got := [] })) ∧ (
  ∀ s a,
    let v := s.ctx.reg a
    (s.isSuper = false → Unlocked s [] [a] → s.ctx.psn a = false → v.toNat < 16 →
      (s.ctx.pulse.getLsbD v.toNat = true → ∃ t, exec (.waitev a) s = .next t ∧ Alone s t ∧ KeepsRegs s.ctx t.ctx ∧
        { t.ctx.base with pulse := 0 } = { s.ctx.base with pulse := 0 } ∧
        t.ctx.pulse = s.ctx.pulse &&& ~~~(BitVec.ofNat 16 (2 ^ v.toNat)) ∧ Completes s.ctx t.ctx (s.ctx.pc + 4)) ∧
      (s.ctx.pulse.getLsbD v.toNat = false → ∃ t, exec (.waitev a) s = .next t ∧ Alone s t ∧ KeepsRegs s.ctx t.ctx ∧
        t.ctx.pc = s.ctx.pc ∧ (t.ctx.wait.map fun w => (w.kind, w.val)) = some (.event, v))) ∧
    (∃ t, exec .pause s = .next t ∧ Alone s t ∧ KeepsRegs s.ctx t.ctx ∧ Completes s.ctx t.ctx (s.ctx.pc + 4) ∧
      { t.ctx.base with pauseLeft := 0, bypass := 0 } = { s.ctx.base with pauseLeft := 0, bypass := 0 } ∧
      t.ctx.pauseLeft = 34) ∧
    (∀ (core : BitVec 13) (slot : BitVec 3), (s.ctxAt core.toNat slot.toNat).pauseLeft = 1 →
      ∃ t, exec (.pauseEnd core slot) s = .next t ∧ OnlyContext core.toNat slot.toNat s t ∧
        t.ctxAt core.toNat slot.toNat = { s.ctxAt core.toNat slot.toNat with pauseLeft := 0 }) ∧
    (s.isSuper = true → s.here.trap.active = false → ∃ t, exec .halt s = .next t ∧ Alone s t ∧ KeepsRegs s.ctx t.ctx ∧
      Completes s.ctx t.ctx (s.ctx.pc + 4) ∧ t.ctx.occupied = false))

/-- The forms of the supervisor raise PRIV in a user context, with the word in TVAL, and change nothing else (R85). -/
def Obligations.PrivilegedForms : Prop :=
  ∀ s d a b c i w, TakesTraps s →
    i ∈ [Instr.eret a, .halt, .tkill, .nfail d a, .ctxsave a, .ctxload d a, .tlbinvPg a b c, .tlbinvRl b c, .tlbinvAll c] →
    encode i = some w → ∃ t, exec i s = .next t ∧ TrapEntered s t 0x02 s.ctx.pc (w.setWidth 64) 0 ∧ BytesKept s t

/-- CTXSAVE writes the frozen context's image and frees its slot, CTXLOAD starts a context from an image in the lowest free
slot (R274, R362, R363, Table 11-10): for images in local SRAM, word by word, of contexts other than slot 0, whose images
hold the engine too. That the reason for a full core is answered whatever the image holds is log 48; that a trap's other
fields stay at the end of its handling is log 55. -/
def Obligations.ContextImages : Prop :=
  ∀ s a,
    let c := s.cur.1
    let va := (s.ctx.reg a).toNat
    let at_ (o : Nat) : Nat := keySram c (va + o)
    let places : List Place := (List.range 8).map fun i => .sram c (va + 64 * i) false
    s.isSuper = true → c ≠ mgmtCore → s.ctx.psn a = false →
    (∀ r k, Unlocked s [] [a] → s.here.trap.active = true → s.here.trap.handled = some r → r.slot = some k → 0 < k → k < 7 →
      imagePlaces s needWrite 8 (s.ctx.reg a) = .ok places → frozenDone s c k = true → va % 64 = 0 →
      let u := dropCopies s c k
      (∀ j, j < 32 → u.mem.isArmed (at_ (16 * j)) = false) →
      let x := s.ctxAt c k
      ∃ t, exec (.ctxsave a) s = .next t ∧ HandlingEnds s t c ∧
        t.ctxAt c k = { occupied := false, freed := some s.cycle.toNat, gen := x.gen } ∧
        BytesKeptOutside u t (at_ 0) 0x200 ∧ (∀ r : Reg, Holds t (at_ (8 * r.toNat)) 8 (x.reg r)) ∧
        Holds t (at_ 0x108) 8 s.here.trap.tpc ∧ Holds t (at_ 0x128) 8 x.tinfo ∧
        Completes s.ctx (t.ctxAt c 7) (s.ctx.pc + 4) ∧ KeepsRegs s.ctx (t.ctxAt c 7)) ∧
    (∀ d, Unlocked s [d] [a] → imagePlaces s needRead 8 (s.ctx.reg a) = .ok places →
      let rd (o : Nat) : Word := s.mem.load (at_ o) 8
      (rd 0x100).getLsbD 62 = false →
      (freeSlot s c false = none → ∃ t, exec (.ctxload d a) s = .next t ∧ t.mem = s.mem ∧
        WritesReg s.ctx t.ctx d 0x8100000000000000 false ∧ Completes s.ctx t.ctx (s.ctx.pc + 4)) ∧
      (∀ k, freeSlot s c false = some k → (rd 0x100).getLsbD 63 = true → (rd 0x100).getLsbD 61 = false →
        imageReserved false rd = false → (∀ i, i < 32 → s.mem.psn (at_ (0x100 + 8 * i)) = false) →
        let g := (s.ctxAt c k).gen + 1
        ∃ t, exec (.ctxload d a) s = .next t ∧ t.mem = s.mem ∧ Completes s.ctx t.ctx (s.ctx.pc + 4) ∧
          WritesReg s.ctx t.ctx d (ctxid c k g) false ∧
          let y := t.ctxAt c k
          y.occupied = true ∧ y.frozen = false ∧ y.gen = g ∧ y.pc = rd 0x108 ∧ y.realm = (rd 0x100).extractLsb' 44 12 ∧
            y.prio = (rd 0x100).extractLsb' 42 2 ∧ y.tbudget = (rd 0x118).setWidth 32 ∧ y.tinfo = rd 0x128 ∧
            ∀ r : Reg, r ≠ 0 → y.reg r = rd (8 * r.toNat) ∧
              y.psn r = ((rd 0x100).getLsbD r.toNat || s.mem.psn (at_ (8 * r.toNat)))))

/-- TLBINV drops the translations it names from the TLBs of its scope and completes when the accesses that may have used
them have been performed (R186); a page walk brings its translation in, or raises PAGE at the task that waits for it (R183,
R185). Which entry of a TLB a new one displaces is logs 13 and 63; the walk caches dropped, and the wait for every
translated access, are log 54. -/
def Obligations.Translations : Prop :=
  ∀ s,
    (∀ a b c, s.isSuper = true → Unlocked s [] [a, b] → s.ctx.psn a = false → s.ctx.psn b = false →
      (s.ctx.reg b).toNat < 2 ^ 12 →
      let realm : BitVec 12 := (s.ctx.reg b).setWidth 12
      let reach := tlbReach s.cur.1 c
      let drops (i : Instr) (p : TlbEntry → Bool) (q : WalkEntry → Bool) : Prop :=
        (s.ctx.answer.isSome = true → EndsAs i s s) ∧
        (s.ctx.answer = none → ∃ t, exec i s = .next t ∧ t.ctx.await = some s.mem.nextReq ∧ t.ctx.pc = s.ctx.pc ∧
          KeepsRegs s.ctx t.ctx ∧ BytesKept s t ∧
          (∀ d, (t.core d).microTlb = if reach.core d then (s.core d).microTlb.filter (!p ·) else (s.core d).microTlb) ∧
          (∀ n, (t.cluster n).tlb = if reach.cluster n then (s.cluster n).tlb.filter (!p ·) else (s.cluster n).tlb) ∧
          ∀ n, (t.router n).walkCache =
            if reach.router n then (s.router n).walkCache.filter (!q ·) else (s.router n).walkCache)
      drops (.tlbinvPg a b c) (fun e => e.covers realm (s.ctx.reg a)) (fun e => e.covers realm (s.ctx.reg a)) ∧
        drops (.tlbinvRl b c) (fun e => e.realm == realm) (fun e => e.realm == realm) ∧
        drops (.tlbinvAll c) (fun _ => true) (fun _ => true)) ∧
    (∀ (core : BitVec 13) id, (s.ctxAt core.toNat 7).await = some id →
      (∀ r ∈ s.mem.reqs, r.id ≠ id ∧ (id ≤ r.id ∨ r.done = true ∨ r.place.translated = false)) →
      (∀ x ∈ s.mem.copies, x.pending = []) →
      ∃ t, exec (.tlbinvComplete core) s = .next t ∧ OnlyContext core.toNat 7 s t ∧
        t.ctxAt core.toNat 7 = { s.ctxAt core.toNat 7 with answer := some (0, false) }) ∧
    (∀ id w, s.mem.walks.find? (·.id == id) = some w →
      let r := walkTables s w.core w.realm w.va
      (∀ e, r.entry = some e → ∃ t, exec (.pageWalkDone id) s = .next t ∧ BytesKept s t ∧
        (t.core w.core).microTlb = (e :: (s.core w.core).microTlb).take 16 ∧ (∀ c k, t.ctxAt c k = s.ctxAt c k) ∧
        (t.cluster (clusterOf w.core)).tlb = tlbInsert e (s.cluster (clusterOf w.core)).tlb ∧
        t.mem.walks = s.mem.walks.filter (·.id ≠ id)) ∧
      (r.entry = none → r.poison = none → w.core ≠ mgmtCore → w.slot < 7 →
        let x := s.ctxAt w.core w.slot
        x.occupied = true → x.gen = w.gen → x.frozen = false → (s.core w.core).halted = false →
        (s.core w.core).stopped = false → coprocPends s w.core w.slot = false → budgetSpent s w.core w.slot = false →
        x.graphTrap = none → (s.core w.core).trap.active = false → (s.core w.core).trap.held = [] →
        ∃ t, exec (.pageWalkDone id) s = .next t ∧ TrapsAt s t w.core w.slot 0x04 x.pc w.va 0 ∧ BytesKept s t))

/-! ### Registers of the package -/

/-- Register writes outside the cores (R4, R65, R73, R102, R170, R177, R178, R182, R230, R291, R296): each register takes its
bits, read-only words and unaligned offsets keep theirs, and a number that names no unit is ignored. A changed QUANTUM counts
for the tasks that start after it (R100, log 71). CLFLAGSCLR leaves set a flag that is raised in its own cycle (R230). -/
def Obligations.RegisterWrites : Prop :=
  ∀ (s : State) v,
    (∀ who off, (who = .host → hostReaches s = true) →
      (off = 0x189000#22 → who ≠ .serviceFirmware → ∃ t, exec (.registerWrite who off v) s = .next t ∧
        { t with mem := s.mem } = s ∧ t.mem = { s.mem with realmtab := v.extractLsb' 16 36 }) ∧
      (off ∈ [0x10#22, 0x1000#22, 0x160000#22, 0x170010#22] ∨ off.toNat % 8 ≠ 0 →
        exec (.registerWrite who off v) s = .next s) ∧
      (off = 0x170008#22 → who = .host ∨ who = .rootFirmware → ∃ t, exec (.registerWrite who off v) s = .next t ∧
        { t with stop := s.stop } = s ∧ t.stop = { s.stop with stopbase := v.extractLsb' 20 32 })) ∧
    (∀ off, hostReaches s = false → exec (.registerWrite .host off v) s = .next s) ∧
    (∀ cluster n, ∃ t, exec (.ownershipWrite cluster n v) s = .next t ∧ { t with mem := s.mem } = s ∧
      { t.mem with ownCore := [], ownCluster := [] } = { s.mem with ownCore := [], ownCluster := [] } ∧
      (∀ k, fget t.mem.ownCore 0 k = if cluster = false ∧ k = n.toNat ∧ isCore k = true then v &&& 0xEFFFEFFFEFFFEFFF
        else fget s.mem.ownCore 0 k) ∧
      ∀ k, fget t.mem.ownCluster 0 k = if cluster = true ∧ k = n.toNat ∧ isCluster k = true then v &&& 0xEFFFEFFFEFFFEFFF
        else fget s.mem.ownCluster 0 k) ∧
    (∀ n : BitVec 8,
      let c := s.cluster n.toNat
      let q := if v.toNat % 2 ^ 32 = 0 then 0 else max (v.toNat % 2 ^ 32) 0xFD000
      ∃ t, exec (.quantumWrite n v) s = .next t ∧ { t with clusters := s.clusters } = s ∧
        (∀ m, m ≠ n.toNat → t.cluster m = s.cluster m) ∧
        let d := t.cluster n.toNat
        d.qcyc.toNat = q ∧ (q = c.qcyc.toNat → d = c) ∧
          (q ≠ c.qcyc.toNat → d.qcount = q ∧ d.qver = c.qver + 1 ∧
            fget d.oldQuanta (0, 0) c.qver = (c.qcyc.toNat, c.qcount))) ∧
    (∀ n : BitVec 8,
      let c := s.cluster n.toNat
      c.qcyc ≠ 0 → c.qcount = 0 → c.oldQuanta = [] →
      ∃ t, exec (.quantumExpiry n) s = .next t ∧ (t.cluster n.toNat).qcount = c.qcyc.toNat ∧ t.mem = s.mem ∧
        ∀ q k, q < 16 → k < 7 →
          let x := s.ctxAt (16 * n.toNat + q) k
          t.ctxAt (16 * n.toNat + q) k =
            if x.occupied = true ∧ x.qver = c.qver then { x with pulse := x.pulse ||| 0x8000 } else x) ∧
    (∀ n : BitVec 8, ∃ t, exec (.clflagsclrWrite n v) s = .next t ∧ { t with clusters := s.clusters } = s ∧
      t.cluster n.toNat = { s.cluster n.toNat with clflags :=
        (s.cluster n.toNat).clflags &&& (~~~(v.setWidth 5) ||| (s.cluster n.toNat).newFlags) } ∧
      ∀ m, m ≠ n.toNat → t.cluster m = s.cluster m) ∧
    (hostReaches s = true → ∃ t, exec (.hostseqWrite v) s = .next t ∧ { t with host := s.host } = s ∧
      t.host = { s.host with hostseq := v }) ∧
    (hostReaches s = false → exec (.hostseqWrite v) s = .next s) ∧
    (∀ (router cls : BitVec 6) hi,
      (62 ≤ cls.toNat → exec (.routeClassWrite router cls hi v) s = .next s) ∧
      (cls.toNat < 62 → ∃ t, exec (.routeClassWrite router cls hi v) s = .next t ∧ { t with routers := s.routers } = s ∧
        ∀ k, fget (t.router router.toNat).entries {} k =
          let e := fget (s.router router.toNat).entries {} k
          if k = cls.toNat then (if hi then { e with localmask := v } else e.write v) else e)) ∧
    (let m := v.toNat % 32
     exec (.msgmaxWrite v) s = .next (if 2 ≤ m ∧ m ≤ 16 then { s with msgmax := v.setWidth 5 } else s)) ∧
    (∀ n : BitVec 8, (∀ b, b < 16 → (s.bank n.toNat b).sleepers = []) →
      ∃ t, exec (.bankmodeWrite n v) s = .next t ∧ { t with clusters := s.clusters } = s ∧
        ∀ b, b < 16 → t.bank n.toNat b = (s.bank n.toNat b).switch (v.extractLsb' (2 * b) 2).toNat s.cycle.toNat) ∧
    (∀ (n : BitVec 8) (b : BitVec 4),
      let x := s.bank n.toNat b.toNat
      x.busy = true → x.due ≤ s.cycle.toNat → x.from_ = .fifo → x.mode = .cache → x.sleepers = [] →
      ∃ t, exec (.bankSwitchDone n b) s = .next t ∧ { t with clusters := s.clusters } = s ∧
        t.bank n.toNat b.toNat = { x with busy := false, from_ := .cache, due := 0, fifo := [] })

/-- Banks (R177, R178, R180): a write of BANKMODE starts the transition of every idle bank that it gives another mode, and a
context asleep at the port of a bank that leaves FIFO takes BOUNDS; at the transition's end a bank that leaves CACHE has
written its lines back, and a bank that becomes SCRATCH reads zero with its full-empty bits empty; a FIFO port serves its
oldest sleeper. That a bank which leaves SCRATCH is zero and empty at once, the moment of BOUNDS and that of the write-back
are the model's choices (log 29). -/
def Obligations.BanksSwitch : Prop :=
  ∀ (s : State) (n : BitVec 8),
    (∀ v : Word, (∀ b, b < 16 → (s.bank n.toNat b).mode = .fifo → (s.bank n.toNat b).sleepers = []) →
      ∃ t, exec (.bankmodeWrite n v) s = .next t ∧ { t with clusters := s.clusters } = s ∧
      ∀ b, b < 16 →
        let x := s.bank n.toNat b
        let code := (v.extractLsb' (2 * b) 2).toNat
        (x.busy = true ∨ code = 3 ∨ code = x.mode.code → t.bank n.toNat b = x) ∧
        (x.busy = false → code < 3 → code ≠ x.mode.code → (t.bank n.toNat b).mode.code = code ∧
          (t.bank n.toNat b).busy = true ∧ (t.bank n.toNat b).from_ = x.mode ∧ s.cycle.toNat < (t.bank n.toNat b).due)) ∧
    (∀ (v : Word) b c z e d,
      let x := s.bank n.toNat b
      let y := s.ctxAt c z
      b < 16 → x.mode = .fifo → x.busy = false → (v.extractLsb' (2 * b) 2).toNat < 2 → x.sleepers = [(c, z, e, d)] →
      (∀ j, j < 16 → j ≠ b → (s.bank n.toNat j).sleepers = []) → c ≠ mgmtCore → z < 7 →
      (s.core c).trap.active = false → (s.core c).trap.held = [] → othersPend s c z = false → ∀ w, y.wait = some w →
      ∃ t, exec (.bankmodeWrite n v) s = .next t ∧ TrapsAt s t c z 0x06 y.pc w.val 0 ∧ BytesKept s t) ∧
    (∀ b : BitVec 4,
      let x := s.bank n.toNat b.toNat
      let u := if x.from_ = .cache then flushCache s n.toNat b.toNat else s
      let at_ := keyScratch n.toNat (b.toNat * 0x80000)
      x.busy = true → x.due ≤ s.cycle.toNat → ∃ t, exec (.bankSwitchDone n b) s = .next t ∧
        t.bank n.toNat b.toNat = { x with busy := false, from_ := .cache, due := 0, fifo := [], sleepers := [] } ∧
        (x.mode = .scratch ∨ x.from_ = .scratch →
          (∀ j, j < 0x80000 → t.mem.byte (at_ + j) = 0) ∧ (∀ j, j < 0x10000 → t.mem.isFull (at_ + 8 * j) = false) ∧
          BytesKeptOutside u t at_ 0x80000) ∧
        (x.mode ≠ .scratch → x.from_ ≠ .scratch → BytesKept u t)) ∧
    (∀ (b : BitVec 4) c z rest,
      let x := s.bank n.toNat b.toNat
      (∀ e d, x.sleepers = (c, z, some e, d) :: rest → x.fifo.length < 65536 →
        ∃ t, exec (.fifoPortWake n b) s = .next t ∧
          t.bank n.toNat b.toNat = { x with fifo := x.fifo ++ [e], sleepers := rest } ∧
          Completes (s.ctxAt c z) (t.ctxAt c z) ((s.ctxAt c z).pc + 4) ∧ KeepsRegs (s.ctxAt c z) (t.ctxAt c z) ∧
          t.mem = s.mem) ∧
      (∀ d v p q, x.sleepers = (c, z, none, d) :: rest → x.fifo = (v, p) :: q →
        ∃ t, exec (.fifoPortWake n b) s = .next t ∧ t.bank n.toNat b.toNat = { x with fifo := q, sleepers := rest } ∧
          Completes (s.ctxAt c z) (t.ctxAt c z) ((s.ctxAt c z).pc + 4) ∧
          WritesReg (s.ctxAt c z) (t.ctxAt c z) (BitVec.ofNat 5 d) v p ∧ t.mem = s.mem))

/-! ### Resets, bring-up and the host -/

/-- Bring-up and resets (R176, R297, R303, R305): a stage whose images are accepted counts up to 8, any other fails to 0x7F,
GO starts every usable supervisor at ENTRY with the floor map's address and its core's number; a function-level reset clears
CREN, CRINT and HOSTBASE only; a fundamental reset clears every graph and resets the rest but memory's other bytes (log 17).
What registers without a reset value hold after it is log 1, where the management core waits log 14, ENTRY's sign-extension
log 59, the digests and BAR4's size log 73; a step whose conditions do not hold answers the state itself (log 6). The host's
BARs and its link (R293, R278, R297, R291, R305): a write puts its bytes at the home, a read answers them, what BAR4 does
not reach answers Unsupported Request, a register is read whole or answers a Completer Abort; without the link or before
stage 8 nothing is reached; the link goes down and, after bring-up, up again. -/
def Obligations.BringUpAndHost : Prop :=
  (
  ∀ (s : State),
    (∀ r : BringupResult, s.host.bootstat.toNat < 8 →
      let n := s.host.bootstat.toNat + 1
      ∃ t, exec (.bringupStage r) s = .next t ∧ (∀ c, c ≠ mgmtCore → t.core c = s.core c) ∧ BytesKept s t ∧
      (r.ok = true → imagesOk s r n = true → t.host.bootstat.toNat = n ∧ (n = 8 → t.host.linkUp = true) ∧
        (n = 5 → ∀ c ∈ r.badCores, t.usableCore c = false) ∧ (n = 6 → t.mem.full = [] ∧ t.tags = []) ∧
        (n = 1 → (t.core mgmtCore).parked = false ∧ t.package = r.package ∧ ∀ x, r.root = some x →
          fget t.mgmt.measured 0 2 = Config.extendDigest (fget s.mgmt.measured 0 2) x.digest)) ∧
      (r.ok = false ∨ imagesOk s r n = false → t.host.bootstat = 0x7F ∧ { t with host := s.host } = s)) ∧
    (∀ r : BringupResult, 8 ≤ s.host.bootstat.toNat → exec (.bringupStage r) s = .next s) ∧
    (∀ v : Word, hostReaches s = true → s.host.bootstat = 8 → v.getLsbD 63 = true → ∃ t, exec (.go v) s = .next t ∧
      t.host.bootstat = 9 ∧ t.host.entry = v.extractLsb' 2 46 ∧ t.mem = s.mem ∧
      ∀ c, (s.usableCore c = false → t.core c = s.core c) ∧ (s.usableCore c = true →
        (∀ k, k ≠ 7 → t.ctxAt c k = s.ctxAt c k) ∧
        let x := t.ctxAt c 7
        x.occupied = true ∧ x.pc = ((v.extractLsb' 2 46) ++ 0#2).signExtend 64 ∧
          x.reg 4 = ((s.package.setWidth 64 <<< 42) ||| 0x30000001000) ∧ x.reg 5 = BitVec.ofNat 64 c ∧
          ∀ r : Reg, r ≠ 4 → r ≠ 5 → x.reg r = 0)) ∧
    (∀ v : Word, hostReaches s = true → s.host.bootstat ≠ 8 ∨ v.getLsbD 63 = false → ∃ t, exec (.go v) s = .next t ∧
      { t with host := s.host } = s ∧ t.host = { s.host with entry := v.extractLsb' 2 46 }) ∧
    (∀ v : Word, hostReaches s = false → exec (.go v) s = .next s) ∧
    (∃ t, exec .functionLevelReset s = .next t ∧ { t with host := s.host } = s ∧
      t.host = { s.host with cren := false, crint := false, hostbase := 0 }) ∧
    (∃ t, exec .fundamentalReset s = .next t ∧
      (∀ j, t.mem.byte j = if keptKey j then s.mem.byte j else 0) ∧ (∀ n k, n < 2 ^ 19 → k < 16 → nget t n k 0 64 = 0) ∧
      t.mem.poison = s.mem.poison.filter keptKey ∧ t.mem.full = [] ∧ t.mem.reqs = [] ∧ t.mem.realmtab = 0 ∧
      t.mem.ownCore = [] ∧ t.cores = [] ∧ t.clusters = [] ∧ t.routers = [] ∧ t.walkers = [] ∧ t.tags = [] ∧ t.eph = {} ∧
      t.host = {} ∧ t.stop = {} ∧ t.errs = {} ∧ t.cycle = 0 ∧
      t.mgmt.resets = s.mgmt.resets)) ∧ (
  ∀ (s : State),
    (hostReaches s = true →
      let base := s.host.aperbase.toNat * 2 ^ 30
      let reads (t : State) (x : HostAnswer) : Prop := { t with host := s.host } = s ∧
        t.host = { s.host with reads := x :: s.host.reads }
      (∀ o l, o + l.length ≤ 2 ^ s.host.bar4 → aperReaches (base + o) l.length = true →
        ∃ t, exec (.hostApertureAccess (.write o l)) s = .next t ∧ t.cores = s.cores ∧
        (∀ j (h : j < l.length), t.mem.byte (keyGlobal (base + o + j)) = l[j]) ∧
        BytesKeptOutside s t (keyGlobal (base + o)) l.length) ∧
      (∀ o n, o + n ≤ 2 ^ s.host.bar4 → aperReaches (base + o) n = true →
        (∀ j, j < n → s.mem.psn (keyGlobal (base + o + j)) = false) →
        let bytes := (List.range n).map fun j => s.mem.byte (keyGlobal (base + o + j))
        ∃ t, exec (.hostApertureAccess (.read o n)) s = .next t ∧ reads t (.data bytes false)) ∧
      (∀ o n l, 2 ^ s.host.bar4 < o + n ∨ aperReaches (base + o) n = false → l.length = n →
        (∃ t, exec (.hostApertureAccess (.read o n)) s = .next t ∧ reads t .unsupported) ∧
        ∃ t, exec (.hostApertureAccess (.write o l)) s = .next t ∧ reads t .unsupported) ∧
      (∀ o, o % 8 = 0 →
        (o < 0x400000 → ∃ t, exec (.hostApertureAccess (.readRegister false o 8)) s = .next t ∧
          reads t (.data ((List.range 8).map fun i => (devRead s o).extractLsb' (8 * i) 8) false)) ∧
        (o < 0x40000 → ∃ t, exec (.hostApertureAccess (.readRegister true o 8)) s = .next t ∧
          reads t (.data (List.replicate 8 0) false))) ∧
      (∀ bar o n, n ≠ 8 ∨ o % 8 ≠ 0 → ∃ t, exec (.hostApertureAccess (.readRegister bar o n)) s = .next t ∧
        reads t .aborted)) ∧
    (∀ x, hostReaches s = false → exec (.hostApertureAccess x) s = .next s) ∧
    (∃ t, exec .pcieLinkLoss s = .next t ∧ { t with host := s.host } = s ∧ t.host = { s.host with linkUp := false }) ∧
    (s.host.bootstat = 8 ∨ s.host.bootstat = 9 → ∃ t, exec .pcieLinkUp s = .next t ∧ { t with host := s.host } = s ∧
      t.host = { s.host with linkUp := true }))

/-! ### Stop and resume -/

/-- The hard stop (R281 to R285, R137): STOP starts it while RUNNING with a valid STOPBASE, else sets SERR; it freezes
the cores, whose sleeping contexts are to enter their waits again, and the walkers; with everything drained the package is
STOPPED, and each slot's image holds its context, or VALID 0 where it has none; RESUME, and with every answer in its image the
restart, in which every slot takes up what its image holds. An image with a nonzero reserved field, or one that R285 calls
undefined, restores as log 72 says. -/
def Obligations.StopsAndResumes : Prop :=
  ∀ (s : State),
    (∀ v : Word, (v.setWidth 2 : BitVec 2) = 1 → ∃ t, exec (.stop v) s = .next t ∧ { t with stop := s.stop } = s ∧
      (s.stop.phase = 0 → stopbaseValid s = true → t.stop.phase = 1 ∧ t.stop.since = s.cycle.toNat) ∧
      (s.stop.phase ≠ 0 ∨ stopbaseValid s = false → t.stop.phase = s.stop.phase ∧ t.stop.serr = true)) ∧
    (∀ v : Word, (v.setWidth 2 : BitVec 2) = 2 → s.stop.phase = 2 → ∃ t, exec (.resume v) s = .next t ∧
      { t with stop := s.stop } = s ∧ t.stop.phase = 3) ∧
    (s.stop.phase = 1 →
      (∀ core : BitVec 12, s.usableCore core.toNat = true → (s.core core.toNat).stopped = false →
        ∃ t, exec (.stopDelivery core) s = .next t ∧ (t.core core.toNat).stopped = true ∧
        ((s.engine core.toNat).running.any (fun en => (en.instr.map haltable).getD false) = false → BytesKept s t ∧
          (∀ d, d ≠ core.toNat → t.core d = s.core d) ∧ t.ctxAt core.toNat 7 = s.ctxAt core.toNat 7 ∧
          ∀ k, k < 7 →
            let x := s.ctxAt core.toNat k
            let y := t.ctxAt core.toNat k
            KeepsRegs x y ∧ y.pc = x.pc ∧ y.occupied = x.occupied ∧ y.gen = x.gen ∧
              (x.occupied = true → x.frozen = false → y.sending = none ∧
                y.wait = x.wait.map fun w => { w with val := waitVal s core.toNat k w, redo := true }))) ∧
      (∀ router : BitVec 6, allStopped s = true → ∃ t, exec (.walkerStop router) s = .next t ∧
        (∀ c k, t.ctxAt c k = s.ctxAt c k) ∧ ∀ j, j < 4 →
          let w := s.walker (4 * router.toNat + j)
          let x := t.walker (4 * router.toNat + j)
          x.state = w.state ∧ (w.state ≠ .free → x.frozen = true ∧ x.cur = w.cur ∧ x.end_ = w.end_ ∧
            (w.frozen = false → ∀ y ∈ x.tiles, y.phase ≠ .starting))) ∧
      (stopDrained s = true → ∃ t, exec .stopComplete s = .next t ∧ t.cores = s.cores ∧ t.walkers = s.walkers ∧
        t.stop = { s.stop with phase := 2, stopcyc := BitVec.ofNat 64 (s.cycle.toNat - s.stop.since) } ∧
        ∀ c ∈ savedCores s, ∀ k, k < 7 →
          let x := s.ctxAt c k
          let at_ (o : Nat) : Nat := keyGlobal (imageBase s c k + o)
          (x.occupied = false → Holds t (at_ 0x100) 8 0) ∧
          (x.occupied = true → (∀ r : Reg, Holds t (at_ (8 * r.toNat)) 8 (x.reg r)) ∧ Holds t (at_ 0x108) 8 x.pc ∧
            Holds t (at_ 0x118) 8 (x.tbudget.setWidth 64) ∧ Holds t (at_ 0x128) 8 x.tinfo ∧
            (∀ w, x.frozen = false → x.await = none → x.wait = some w → Holds t (at_ 0x138) 8 w.val) ∧
            ∀ o, o < 32 → Holds t (at_ (0x100 + 8 * o)) 8 (imageWord s c k (stopRun s c k) (0x100 + 8 * o))))) ∧
    (s.stop.phase = 3 → imagesAnswered s = true → s.eph.kept = [] →
      ∃ t, exec .resumeComplete s = .next t ∧ t.stop = { s.stop with phase := 0 } ∧ BytesKept s t ∧
        (∀ c, (t.core c).stopped = false) ∧
        ∀ c ∈ savedCores s, ∀ k, k < 7 →
          let rd (o : Nat) : Word := s.mem.load (keyGlobal (imageBase s c k + o)) 8
          let y := t.ctxAt c k
          (rd 0x100).getLsbD 63 = true → imageReserved (k = 0) rd = false →
          y.occupied = true ∧ y.frozen = decide ((rd 0x100).extractLsb' 60 2 = 3) ∧ y.pc = rd 0x108 ∧
          y.gen = (rd 0x120).setWidth 8 ∧
            y.realm = (rd 0x100).extractLsb' 44 12 ∧ y.prio = (rd 0x100).extractLsb' 42 2 ∧
            y.tbudget = (rd 0x118).setWidth 32 ∧ y.tinfo = rd 0x128 ∧
            ∀ r : Reg, r ≠ 0 → y.reg r = rd (8 * r.toNat) ∧
              y.psn r = ((rd 0x100).getLsbD r.toNat || s.mem.psn (keyGlobal (imageBase s c k + 8 * r.toNat))))

/-! ### Wiolo, errors, power and management -/

/-- Wiolo ports (R78, R80, R81, R54, Table 3-11): a good frame that is expected delivers its packets and acknowledges
others, where the slice router's buffer has room for them; a bad one is counted; a port that is not UP holds its traffic,
trains lane by lane, and sends what it held when all four lanes are locked, after its unacknowledged frames, a packet in each
frame (log 77). -/
def Obligations.WioloPorts : Prop :=
  ∀ (s : State) (port : BitVec 4),
    let n := port.toNat
    let x := fget s.wioloPorts {} n
    let becomes (t : State) (y : WioloPort) : Prop := { t with wioloPorts := s.wioloPorts } = s ∧ fget t.wioloPorts {} n = y ∧
      ∀ m, m ≠ n → fget t.wioloPorts {} m = fget s.wioloPorts {} m
    (∀ f : Frame, x.state = 2 →
      let acked := x.replay.filter fun g => f.ack ≤ g.seq
      (f.crcOk = false → ∃ t, exec (.wioloFrameReceive port f) s = .next t ∧
        becomes t { x with crcerr := x.crcerr + 1 }) ∧
      (f.crcOk = true → f.seq ≠ x.recvSeq → ∃ t, exec (.wioloFrameReceive port f) s = .next t ∧
        becomes t { x with replay := acked }) ∧
      (∀ p, f.crcOk = true → f.seq = x.recvSeq → f.packets = [p] → p.vc = 2 →
        s.bufferRoom (portRouter n (pktCore p / 64)) (.wiolo n) 2 = false →
        ∃ t, exec (.wioloFrameReceive port f) s = .next t ∧ becomes t { x with replay := acked }) ∧
      (∀ p, f.crcOk = true → f.seq = x.recvSeq → f.packets = [p] → p.vc = 2 →
        s.bufferRoom (portRouter n (pktCore p / 64)) (.wiolo n) 2 = true →
        ∃ t, exec (.wioloFrameReceive port f) s = .next t ∧ t.mem = s.mem ∧ t.cores = s.cores ∧
          fget t.wioloPorts {} n = { x with replay := acked, recvSeq := x.recvSeq + 1 } ∧
          let r := portRouter n (pktCore p / 64)
          (t.router r).inq = (s.router r).inq ++ [(.wiolo n, { p with via := none })])) ∧
    (x.state = 2 → x.replay ≠ [] → ∃ t, exec (.wioloFrameResend port) s = .next t ∧
      becomes t { x with retries := satInc x.retries }) ∧
    (∃ t, exec (.wioloLinkLoss port) s = .next t ∧ becomes t { x with state := 0, laneup := 0 }) ∧
    (∀ lanes, x.state ≠ 2 → lanes ≠ 15 → ∃ t, exec (.wioloRetrainDone { port, lanes }) s = .next t ∧
      becomes t { x with state := 1, laneup := lanes }) ∧
    (x.state ≠ 2 → ∃ t, exec (.wioloRetrainDone { port, lanes := 15 }) s = .next t ∧ { t with wioloPorts := s.wioloPorts } = s ∧
      let y := fget t.wioloPorts {} n
      y.state = 2 ∧ y.laneup = 15 ∧ y.held = [] ∧ y.retries = satAdd x.retries x.replay.length ∧
        y.replay.map (·.packets) = x.replay.map (·.packets) ++ x.held.map fun p => [p])

/-- Errors, sensors and regulators (R275, R440, R306, R308): a corrected error is counted, an uncorrectable one poisons its
word, which has its bits as read from the array (log 51); a reading sets ALERT when it reaches HI from below and TRIP while it is
at the trip point; an over-current report lasts until 1,600,000 cycles below the limit. The management core's sources (R299
to R304): POLL, MCTP and the start of a handler with its argument, the responder's answer, and the reset of a halted
management core. What that reset keeps is logs 73 and 14, the sign-extension of MENTRY log 59, the responder's stages and
answers log 15. -/
def Obligations.ErrorsAndManagement : Prop :=
  (
  ∀ (s : State),
    (∀ e : SoftError, 1 ≤ e.ukind → e.ukind ≤ 6 →
      (e.kind = .corrected → s.errs.cerec = false → ∃ t, exec (.softErrorDetect e) s = .next t ∧
        { t with errs := s.errs } = s ∧ fget t.errs.ce 0 e.ukind = fget s.errs.ce 0 e.ukind + 1) ∧
      (e.kind = .uncorrectable → e.ukind < 5 → e.queued = none →
        (e.ukind = 2 → (s.bank ((e.key - 2 ^ 48 - 2 ^ 31) / 0x800000) ((e.key - 2 ^ 48 - 2 ^ 31) % 0x800000 / 0x80000)).mode =
          .scratch) → s.mem.psn e.key = false → s.errs.en = false →
        ∃ t, exec (.softErrorDetect e) s = .next t ∧ t.mem.psn e.key = true ∧
          Holds t (wordKey e.key) 8 (s.mem.load (wordKey e.key) 8 ^^^ softFlip e 0) ∧ t.errs.lost = satInc s.errs.lost ∧
          BytesKeptOutside s t (wordKey e.key) 8 ∧ (∀ k, wordKey k ≠ wordKey e.key → t.mem.psn k = s.mem.psn k) ∧
          t.cores = s.cores)) ∧
    (∀ (die : BitVec 4) w, ∃ t, exec (.sensorRead die w) s = .next t ∧ { t with dies := s.dies } = s ∧
      let x := s.die die.toNat
      let y := t.die die.toNat
      y.sense = w ∧ (∀ i, i < 4 → (w.extractLsb' (16 * i) 16 : BitVec 16).toInt ≤ y.tmax.toInt) ∧
        (∃ i, i < 4 ∧ y.tmax = w.extractLsb' (16 * i) 16) ∧
        y.trip = decide (x.trippt.toInt ≤ y.tmax.toInt) ∧
        y.alert = (x.alert || (decide (x.hi.toInt ≤ y.tmax.toInt) && !x.wasHigh)) ∧
        y.wasHigh = decide (x.hi.toInt ≤ y.tmax.toInt) ∧ y.hi = x.hi ∧ y.trippt = x.trippt ∧ y.fwstep = x.fwstep) ∧
    (∃ t, exec .overcurrentReport s = .next t ∧ t = { s with overcurrent := true, belowSince := s.cycle.toNat }) ∧
    (s.overcurrent = true → (s.belowSince + 1600000 ≤ s.cycle.toNat →
        ∃ t, exec .overcurrentClear s = .next t ∧ t = { s with overcurrent := false }) ∧
      (s.cycle.toNat < s.belowSince + 1600000 → exec .overcurrentClear s = .next s))) ∧ (
  ∀ (s : State),
    (s.mgmt.mperiod ≠ 0 → s.mgmt.mperiod.toNat ≤ s.mgmt.pollCount → ∃ t, exec .pollPeriod s = .next t ∧
      { t with mgmt := s.mgmt } = s ∧ t.mgmt.mpend = s.mgmt.mpend ||| 2 ∧ t.mgmt.pollCount = 0) ∧
    (∀ bytes,
      let a := s.mgmt.mrxbuf.toNat * 64
      let off := a % 2 ^ 42
      ∃ t, exec (.mctpPacketArrival bytes) s = .next t ∧ t.mgmt.mpend = s.mgmt.mpend ||| 8 ∧ t.cores = s.cores ∧
        (a / 2 ^ 42 = s.package.toNat → aperReaches off bytes.length = true →
          (∀ j (h : j < bytes.length), t.mem.byte (keyGlobal (off + j)) = bytes[j]) ∧
          BytesKeptOutside s t (keyGlobal off) bytes.length)) ∧
    (∀ i, i < 4 → (s.ctxAt mgmtCore 1).occupied = false → (s.core mgmtCore).trap.active = false →
      (s.core mgmtCore).halted = false → s.mgmtPending.getLsbD i = true → s.mgmt.mentryEn.getLsbD i = true →
      (∀ j, j < i → s.mgmtPending.getLsbD j = false ∨ s.mgmt.mentryEn.getLsbD j = false) →
      ∃ t, exec .serviceHandlerStart s = .next t ∧ t.mem = s.mem ∧ (∀ k, k ≠ 1 → t.ctxAt mgmtCore k = s.ctxAt mgmtCore k) ∧
        let x := t.ctxAt mgmtCore 1
        x.occupied = true ∧ x.pc = ((fget s.mgmt.mentry 0 i) ++ 0#2).signExtend 64 ∧ (∀ r : Reg, r ≠ 4 → x.reg r = 0) ∧
          (i = 3 → x.reg 4 = s.mgmt.mrxbuf.setWidth 64 <<< 6 ∧ t.mgmt.mpend = s.mgmt.mpend &&& 7) ∧
          (i = 1 → x.reg 4 = dieAddr s s.mgmt.pollDie) ∧
          (i = 0 → ∀ d, d < 16 → (s.die d).alert = true → (∀ e, e < d → (s.die e).alert = false) → x.reg 4 = dieAddr s d)) ∧
    (let replies (r : MgmtRequest) (a : MgmtReply) : Prop := ∃ t, exec (.spdmRequest r) s = .next t ∧
       t.mgmt = { s.mgmt with replies := a :: s.mgmt.replies } ∧ t.mem = s.mem ∧ t.cores = s.cores
     s.host.bootstat ≠ 0x7F →
     (2 ≤ s.host.bootstat.toNat →
       replies (.spdm .mctp .getMeasurements) (.measurements (measurementBlocks s) s.freeVal) ∧
       replies (.spdm .mctp .other) .unsupported ∧
       (s.host.linkUp = true → ∀ c, c ≠ .other → c ≠ .getMeasurements → replies (.spdm .doe c) (.spdm c s.freeVal))) ∧
     (7 ≤ s.host.bootstat.toNat → ∀ d : BitVec 4,
       replies (.pldm (.tmax d)) (.reading ((s.die d.toNat).tmax.setWidth 64)) ∧
       replies (.pldm (.step d)) (.reading (BitVec.ofNat 64 (max (s.die d.toNat).fwstep.toNat (s.die d.toNat).hwstep))))) ∧
    ((s.core mgmtCore).halted = true → ∃ t, exec .mgmtCoreReset s = .next t ∧
      t.core mgmtCore = { mgmtCoreReset with parked := false } ∧ t.mem = s.mem ∧ (∀ c, c ≠ mgmtCore → t.core c = s.core c) ∧
      let m := s.mgmt
      t.mgmt = { resets := m.resets + 1, minima := m.minima, measured := m.measured, replies := m.replies }))

/-! ### The machine -/

/-- After reset no context of a compute core holds a task and no byte of memory is set; the management core's supervisor
stands at ROM address 0; BOOTSTAT, PHASE and CYCLE are 0, no class and no tag is enabled, and no trap is handled (R299,
R305, R281, Table 4-3, Table 13-16). The registers that no rule gives a value are the model's choice (log 1). -/
def Obligations.ResetState : Prop :=
  let s := State.reset
  (∀ c k, c ≠ mgmtCore → (s.ctxAt c k).occupied = false) ∧ (s.ctxAt mgmtCore 7).occupied = true ∧
    (s.ctxAt mgmtCore 7).pc = 0 ∧ (s.ctxAt mgmtCore 1).occupied = false ∧ (∀ k, s.mem.byte k = 0) ∧ s.mem.wf = true ∧
    s.host.bootstat = 0 ∧ s.stop.phase = 0 ∧ s.cycle = 0 ∧ (∀ t, (s.tag t).enable = false) ∧
    (∀ c cls, ((s.core c).cls cls).enabled = false) ∧ (∀ c, (s.core c).trap.active = false ∧ (s.core c).halted = false) ∧
    (∀ c k r, (s.ctxAt c k).reg r = 0)

/-- A step runs what the bytes at the PC decode to: a ready context with nothing pending at its boundary, or that goes on with
its answer, whose fetch yields a word and meets no watchpoint, executes the decoded instruction, and the issue is counted
(R330, R273, R98, R175). -/
def Obligations.StepRunsDecoded : Prop :=
  ∀ s c k rest w i, s.agenda = .issue c k :: rest →
    let u := issuing { s with agenda := rest } c k
    u.ready c k = true → u.ctx.answerErr = none →
    u.ctx.answer.isSome = true ∨ (u.ctx.graphTrap = none ∧ budgetSpent u c k = false ∧ coprocPends u c k = false) →
    fetchWord u c k u.ctx.pc = .word w → watchHit u 3 u.ctx.pc 4 = none → decode w = .ok i →
    step s = accountIssue (issuable exec { s with agenda := rest } c) { s with agenda := rest } c k (exec i u)

/-- Words that the spec writes out and what they stand for (R320, R325, R326, R327), words put together from its field
tables (R311, R314, R315, R319, R321, R328), and words with a reserved opcode or field, which are refused (R313, R314,
R329). -/
def Obligations.DecodeWords : Prop :=
  decode 0x57070310#32 = .ok (.ldfe 24 7 .package) ∧ decode 0x8848D000#32 = .ok (.vadd 1 2 3 2 .fp32 false false) ∧
  decode 0x8848D6C0#32 = .ok (.vadd 1 2 3 2 .int8 true true) ∧ decode 0x81080100#32 = .ok (.vld 4 4 0 .w) ∧
  decode 0xB4046501#32 = .ok (.send 4 12 true 1) ∧ decode 0xCB000000#32 = .ok (.csrr 24 0x000) ∧
  decode 0xC8040011#32 = .ok (.csrw 0 4 0x001) ∧
  decode 0b000001_00011_00001_00010_1_0000_000001#32 = .ok (.sub 3 1 2 true) ∧
  decode 0b000010_00101_00110_1111111111111111#32 = .ok (.addi 5 6 0xFFFF) ∧
  decode 0b010001_00111_01000_000000000011_0010#32 = .ok (.st 7 8 3 .w) ∧
  decode 0b011001_00001_00010_1111111111111110#32 = .ok (.bne 1 2 0xFFFE) ∧
  decode 0b110011_00000_00000_00010101_0000_0001#32 = .ok (.trap 0x15) ∧
  (decode 0x00000000#32).isOk = false ∧ (decode 0xD0000000#32).isOk = false ∧
  (decode 0b000001_00011_00001_00010_0_0001_000000#32).isOk = false

/-- Encoding and decoding agree: every well-formed instruction that has a word decodes from it, with every operand. -/
def Obligations.DecodeEncode : Prop :=
 ∀ i w, i.wf = true → encode i = some w → decode w = .ok i

/-- Decoding accepts only words of the encoding: what a word decodes to is well formed and encodes to that word. -/
def Obligations.EncodeDecode : Prop :=
 ∀ i w, decode w = .ok i → i.wf = true ∧ encode i = some w

/-- Every step keeps memory's canonical form: addresses rise and no cell holds what an unlisted address reads as. -/
def Obligations.MemoryStaysCanonical : Prop :=
 Kept fun s => s.mem.wf = true

/-- No instruction and no step of the hardware ends a run: each answers a next state in every state. A step of the hardware
whose conditions do not hold answers the state itself (log 6). -/
def Obligations.EveryInstructionAnswers : Prop :=
 ∀ i s, ∃ t, exec i s = .next t
end

