-- ==== Sys2Proof/Laws/Maps.lean ====
section
/-!
SUPPORT. Keyed lists and sets of numbers: what a read gives after a write, and that every operation keeps the canonical
form.
-/

namespace Sys2Proof.Machine

variable {α : Type}

/-! ### Reads after writes -/

@[simp] theorem fget_nil (d : α) (k : Nat) : fget [] d k = d := rfl

theorem fget_fput (m : FMap α) (d : α) (k j : Nat) (v : α) :
    fget (fput m k v) d j = if j = k then v else fget m d j := by
  induction m with
  | nil => simp [fput, fget, eq_comm]
  | cons p r ih =>
    obtain ⟨i, x⟩ := p
    unfold fput
    split
    · unfold fget
      split
      · next h1 h2 => simp [show j ≠ k by omega]
      · exact ih
    · split
      · next h1 h2 =>
        subst h2
        unfold fget
        by_cases h3 : i = j
        · simp [h3]
        · simp [h3, Ne.symm h3]
      · next h1 h2 =>
        by_cases h3 : j = k
        · subst h3; simp [fget]
        · simp [fget, h3, Ne.symm h3]

theorem fget_fdrop (m : FMap α) (d : α) (k j : Nat) :
    fget (fdrop m k) d j = if j = k then d else fget m d j := by
  induction m with
  | nil => simp [fdrop]
  | cons p r ih =>
    obtain ⟨i, x⟩ := p
    unfold fdrop
    split
    · next h1 =>
      subst h1
      rw [ih]
      by_cases h2 : j = i
      · simp [h2]
      · simp [fget, h2, Ne.symm h2]
    · next h1 =>
      unfold fget
      split
      · next h2 => subst h2; simp [h1]
      · exact ih

/-- A read after a write gives the value written at its key and what stood there at any other. -/
theorem fget_fset [DecidableEq α] (m : FMap α) (d : α) (k j : Nat) (v : α) :
    fget (fset m d k v) d j = if j = k then v else fget m d j := by
  unfold fset
  split
  · next h => subst h; rw [fget_fdrop]
  · rw [fget_fput]

@[simp] theorem fget_fset_same [DecidableEq α] (m : FMap α) (d : α) (k : Nat) (v : α) :
    fget (fset m d k v) d k = v := by simp [fget_fset]

theorem fget_fset_other [DecidableEq α] (m : FMap α) (d e : α) {k j : Nat} (v : α) (h : j ≠ k) :
    fget (fset m d k v) e j = fget m e j := by
  unfold fset
  split <;> simp [fget_fdrop, fget_fput, h]

/-! ### The canonical form of a keyed list -/

/-- The canonical form as a property of the pairs: keys rise, and no pair holds the default. -/
theorem fwf_iff [DecidableEq α] (d : α) (m : FMap α) :
    fwf d m = true ↔ m.Pairwise (fun p q => p.1 < q.1) ∧ ∀ p ∈ m, p.2 ≠ d := by
  induction m with
  | nil => simp [fwf]
  | cons p r ih =>
    obtain ⟨j, x⟩ := p
    cases r with
    | nil => simp [fwf]
    | cons q r =>
      obtain ⟨k, y⟩ := q
      simp only [fwf, Bool.and_eq_true, decide_eq_true_eq, ih]
      constructor
      · rintro ⟨⟨hx, hjk⟩, hp, hd⟩
        refine ⟨List.pairwise_cons.2 ⟨?_, hp⟩, ?_⟩
        · intro a ha
          rcases List.mem_cons.1 ha with rfl | ha
          · exact hjk
          · exact Nat.lt_trans hjk ((List.pairwise_cons.1 hp).1 a ha)
        · intro a ha
          rcases List.mem_cons.1 ha with rfl | ha
          · exact hx
          · exact hd a ha
      · rintro ⟨hp, hd⟩
        exact ⟨⟨hd (j, x) (by simp), (List.pairwise_cons.1 hp).1 (k, y) (by simp)⟩, (List.pairwise_cons.1 hp).2,
          fun a ha => hd a (by simp [ha])⟩

theorem mem_fput {m : FMap α} {k : Nat} {v : α} {p : Nat × α} (h : p ∈ fput m k v) : p = (k, v) ∨ p ∈ m := by
  induction m with
  | nil => simpa [fput] using h
  | cons q r ih =>
    obtain ⟨j, x⟩ := q
    simp only [fput] at h
    split at h
    · rcases List.mem_cons.1 h with rfl | h
      · simp
      · rcases ih h with rfl | h <;> simp [*]
    · split at h
      · rcases List.mem_cons.1 h with rfl | h <;> simp [*]
      · rcases List.mem_cons.1 h with rfl | h
        · simp
        · exact Or.inr h

theorem mem_fdrop {m : FMap α} {k : Nat} {p : Nat × α} (h : p ∈ fdrop m k) : p ∈ m := by
  induction m with
  | nil => simp [fdrop] at h
  | cons q r ih =>
    obtain ⟨j, x⟩ := q
    simp only [fdrop] at h
    split at h
    · exact List.mem_cons_of_mem _ (ih h)
    · rcases List.mem_cons.1 h with rfl | h
      · simp
      · exact List.mem_cons_of_mem _ (ih h)

theorem fput_wf [DecidableEq α] {d : α} {m : FMap α} {k : Nat} {v : α} (h : fwf d m = true) (hv : v ≠ d) :
    fwf d (fput m k v) = true := by
  rw [fwf_iff] at h ⊢
  refine ⟨?_, fun p hp => ?_⟩
  · obtain ⟨h, -⟩ := h
    induction m with
    | nil => simp [fput]
    | cons q r ih =>
      obtain ⟨j, x⟩ := q
      obtain ⟨h1, h2⟩ := List.pairwise_cons.1 h
      simp only [fput]
      split
      · next hjk =>
        refine List.pairwise_cons.2 ⟨fun p hp => ?_, ih h2⟩
        rcases mem_fput hp with rfl | hp
        · exact hjk
        · exact h1 p hp
      · split
        · next hjk => subst hjk; exact List.pairwise_cons.2 ⟨h1, h2⟩
        · next h3 h4 =>
          refine List.pairwise_cons.2 ⟨fun p hp => ?_, h⟩
          rcases List.mem_cons.1 hp with rfl | hp
          · exact show k < j by omega
          · exact Nat.lt_trans (show k < j by omega) (h1 p hp)
  · rcases mem_fput hp with rfl | hp
    · exact hv
    · exact h.2 p hp

theorem fdrop_wf [DecidableEq α] {d : α} {m : FMap α} {k : Nat} (h : fwf d m = true) : fwf d (fdrop m k) = true := by
  rw [fwf_iff] at h ⊢
  refine ⟨?_, fun p hp => h.2 p (mem_fdrop hp)⟩
  obtain ⟨h, -⟩ := h
  induction m with
  | nil => simp [fdrop]
  | cons q r ih =>
    obtain ⟨j, x⟩ := q
    obtain ⟨h1, h2⟩ := List.pairwise_cons.1 h
    simp only [fdrop]
    split
    · exact ih h2
    · exact List.pairwise_cons.2 ⟨fun p hp => h1 p (mem_fdrop hp), ih h2⟩

/-- Setting a key keeps the canonical form. -/
theorem fset_wf [DecidableEq α] {d : α} {m : FMap α} (k : Nat) (v : α) (h : fwf d m = true) :
    fwf d (fset m d k v) = true := by
  unfold fset
  split
  · exact fdrop_wf h
  · next hv => exact fput_wf h hv

/-- Taking pairs out keeps the canonical form. -/
theorem filter_fwf [DecidableEq α] {d : α} {m : FMap α} (f : Nat × α → Bool) (h : fwf d m = true) :
    fwf d (m.filter f) = true := by
  rw [fwf_iff] at h ⊢
  exact ⟨h.1.filter f, fun p hp => h.2 p (List.mem_filter.1 hp).1⟩

/-! ### Sets of numbers -/

/-- The canonical form of a set: its numbers rise. -/
theorem nwf_iff (l : List Nat) : nwf l = true ↔ l.Pairwise (· < ·) := by
  induction l with
  | nil => simp [nwf]
  | cons j r ih =>
    cases r with
    | nil => simp [nwf]
    | cons k r =>
      simp only [nwf, Bool.and_eq_true, decide_eq_true_eq, ih]
      constructor
      · rintro ⟨hjk, hp⟩
        refine List.pairwise_cons.2 ⟨fun a ha => ?_, hp⟩
        rcases List.mem_cons.1 ha with rfl | ha
        · exact hjk
        · exact Nat.lt_trans hjk ((List.pairwise_cons.1 hp).1 a ha)
      · intro hp
        exact ⟨(List.pairwise_cons.1 hp).1 k (by simp), (List.pairwise_cons.1 hp).2⟩

@[simp] theorem mem_nput (l : List Nat) (k j : Nat) : j ∈ nput l k ↔ j = k ∨ j ∈ l := by
  induction l with
  | nil => simp [nput]
  | cons i r ih =>
    simp only [nput]
    split
    · simp only [List.mem_cons, ih]; exact ⟨by rintro (h | h | h) <;> simp [h], by rintro (h | h | h) <;> simp [h]⟩
    · split
      · next h => subst h; simp
      · simp

@[simp] theorem mem_ndrop (l : List Nat) (k j : Nat) : j ∈ ndrop l k ↔ j ∈ l ∧ j ≠ k := by simp [ndrop]

theorem nput_wf {l : List Nat} (k : Nat) (h : nwf l = true) : nwf (nput l k) = true := by
  rw [nwf_iff] at h ⊢
  induction l with
  | nil => simp [nput]
  | cons j r ih =>
    obtain ⟨h1, h2⟩ := List.pairwise_cons.1 h
    simp only [nput]
    split
    · next hjk =>
      refine List.pairwise_cons.2 ⟨fun a ha => ?_, ih h2⟩
      rcases (mem_nput r k a).1 ha with rfl | ha
      · exact hjk
      · exact h1 a ha
    · split
      · exact h
      · refine List.pairwise_cons.2 ⟨fun a ha => ?_, h⟩
        rcases List.mem_cons.1 ha with rfl | ha
        · omega
        · have := h1 a ha; omega

theorem filter_nwf {l : List Nat} (f : Nat → Bool) (h : nwf l = true) : nwf (l.filter f) = true := by
  rw [nwf_iff] at h ⊢
  exact h.filter f

theorem ndrop_wf {l : List Nat} (k : Nat) (h : nwf l = true) : nwf (ndrop l k) = true := filter_nwf _ h

end Sys2Proof.Machine
end

