-- ==== Sys2Proof/Laws/State.lean ====
section
/-!
SUPPORT. What each update of the state leaves in each field, and what reading a unit after an update gives. Generated line
by line from the fields of Machine/State.lean; every field lemma is true by unfolding.
-/

namespace Sys2Proof.Machine

/-! ### State.modCore -/

@[simp] theorem modCore_clusters (s : State) (c : Nat) (f : Core → Core) : (s.modCore c f).clusters = s.clusters := rfl
@[simp] theorem modCore_routers (s : State) (c : Nat) (f : Core → Core) : (s.modCore c f).routers = s.routers := rfl
@[simp] theorem modCore_walkers (s : State) (c : Nat) (f : Core → Core) : (s.modCore c f).walkers = s.walkers := rfl
@[simp] theorem modCore_wioloPorts (s : State) (c : Nat) (f : Core → Core) : (s.modCore c f).wioloPorts = s.wioloPorts := rfl
@[simp] theorem modCore_mem (s : State) (c : Nat) (f : Core → Core) : (s.modCore c f).mem = s.mem := rfl
@[simp] theorem modCore_eph (s : State) (c : Nat) (f : Core → Core) : (s.modCore c f).eph = s.eph := rfl
@[simp] theorem modCore_tags (s : State) (c : Nat) (f : Core → Core) : (s.modCore c f).tags = s.tags := rfl
@[simp] theorem modCore_treeOps (s : State) (c : Nat) (f : Core → Core) : (s.modCore c f).treeOps = s.treeOps := rfl
@[simp] theorem modCore_owed (s : State) (c : Nat) (f : Core → Core) : (s.modCore c f).owed = s.owed := rfl
@[simp] theorem modCore_notes (s : State) (c : Nat) (f : Core → Core) : (s.modCore c f).notes = s.notes := rfl
@[simp] theorem modCore_wreqs (s : State) (c : Nat) (f : Core → Core) : (s.modCore c f).wreqs = s.wreqs := rfl
@[simp] theorem modCore_launchOuts (s : State) (c : Nat) (f : Core → Core) : (s.modCore c f).launchOuts = s.launchOuts := rfl
@[simp] theorem modCore_answers (s : State) (c : Nat) (f : Core → Core) : (s.modCore c f).answers = s.answers := rfl
@[simp] theorem modCore_dones (s : State) (c : Nat) (f : Core → Core) : (s.modCore c f).dones = s.dones := rfl
@[simp] theorem modCore_exits (s : State) (c : Nat) (f : Core → Core) : (s.modCore c f).exits = s.exits := rfl
@[simp] theorem modCore_host (s : State) (c : Nat) (f : Core → Core) : (s.modCore c f).host = s.host := rfl
@[simp] theorem modCore_stop (s : State) (c : Nat) (f : Core → Core) : (s.modCore c f).stop = s.stop := rfl
@[simp] theorem modCore_errs (s : State) (c : Nat) (f : Core → Core) : (s.modCore c f).errs = s.errs := rfl
@[simp] theorem modCore_dies (s : State) (c : Nat) (f : Core → Core) : (s.modCore c f).dies = s.dies := rfl
@[simp] theorem modCore_overcurrent (s : State) (c : Nat) (f : Core → Core) : (s.modCore c f).overcurrent = s.overcurrent := rfl
@[simp] theorem modCore_belowSince (s : State) (c : Nat) (f : Core → Core) : (s.modCore c f).belowSince = s.belowSince := rfl
@[simp] theorem modCore_sliceWatch (s : State) (c : Nat) (f : Core → Core) : (s.modCore c f).sliceWatch = s.sliceWatch := rfl
@[simp] theorem modCore_mgmt (s : State) (c : Nat) (f : Core → Core) : (s.modCore c f).mgmt = s.mgmt := rfl
@[simp] theorem modCore_msgmax (s : State) (c : Nat) (f : Core → Core) : (s.modCore c f).msgmax = s.msgmax := rfl
@[simp] theorem modCore_badCores (s : State) (c : Nat) (f : Core → Core) : (s.modCore c f).badCores = s.badCores := rfl
@[simp] theorem modCore_badClusters (s : State) (c : Nat) (f : Core → Core) : (s.modCore c f).badClusters = s.badClusters := rfl
@[simp] theorem modCore_package (s : State) (c : Nat) (f : Core → Core) : (s.modCore c f).package = s.package := rfl
@[simp] theorem modCore_cycle (s : State) (c : Nat) (f : Core → Core) : (s.modCore c f).cycle = s.cycle := rfl
@[simp] theorem modCore_cur (s : State) (c : Nat) (f : Core → Core) : (s.modCore c f).cur = s.cur := rfl
@[simp] theorem modCore_agenda (s : State) (c : Nat) (f : Core → Core) : (s.modCore c f).agenda = s.agenda := rfl
@[simp] theorem modCore_turn (s : State) (c : Nat) (f : Core → Core) : (s.modCore c f).turn = s.turn := rfl
@[simp] theorem modCore_free (s : State) (c : Nat) (f : Core → Core) : (s.modCore c f).free = s.free := rfl

/-! ### State.modCtxAt -/

@[simp] theorem modCtxAt_clusters (s : State) (c k : Nat) (f : Ctx → Ctx) : (s.modCtxAt c k f).clusters = s.clusters := rfl
@[simp] theorem modCtxAt_routers (s : State) (c k : Nat) (f : Ctx → Ctx) : (s.modCtxAt c k f).routers = s.routers := rfl
@[simp] theorem modCtxAt_walkers (s : State) (c k : Nat) (f : Ctx → Ctx) : (s.modCtxAt c k f).walkers = s.walkers := rfl
@[simp] theorem modCtxAt_wioloPorts (s : State) (c k : Nat) (f : Ctx → Ctx) : (s.modCtxAt c k f).wioloPorts = s.wioloPorts := rfl
@[simp] theorem modCtxAt_mem (s : State) (c k : Nat) (f : Ctx → Ctx) : (s.modCtxAt c k f).mem = s.mem := rfl
@[simp] theorem modCtxAt_eph (s : State) (c k : Nat) (f : Ctx → Ctx) : (s.modCtxAt c k f).eph = s.eph := rfl
@[simp] theorem modCtxAt_tags (s : State) (c k : Nat) (f : Ctx → Ctx) : (s.modCtxAt c k f).tags = s.tags := rfl
@[simp] theorem modCtxAt_treeOps (s : State) (c k : Nat) (f : Ctx → Ctx) : (s.modCtxAt c k f).treeOps = s.treeOps := rfl
@[simp] theorem modCtxAt_owed (s : State) (c k : Nat) (f : Ctx → Ctx) : (s.modCtxAt c k f).owed = s.owed := rfl
@[simp] theorem modCtxAt_notes (s : State) (c k : Nat) (f : Ctx → Ctx) : (s.modCtxAt c k f).notes = s.notes := rfl
@[simp] theorem modCtxAt_wreqs (s : State) (c k : Nat) (f : Ctx → Ctx) : (s.modCtxAt c k f).wreqs = s.wreqs := rfl
@[simp] theorem modCtxAt_launchOuts (s : State) (c k : Nat) (f : Ctx → Ctx) : (s.modCtxAt c k f).launchOuts = s.launchOuts := rfl
@[simp] theorem modCtxAt_answers (s : State) (c k : Nat) (f : Ctx → Ctx) : (s.modCtxAt c k f).answers = s.answers := rfl
@[simp] theorem modCtxAt_dones (s : State) (c k : Nat) (f : Ctx → Ctx) : (s.modCtxAt c k f).dones = s.dones := rfl
@[simp] theorem modCtxAt_exits (s : State) (c k : Nat) (f : Ctx → Ctx) : (s.modCtxAt c k f).exits = s.exits := rfl
@[simp] theorem modCtxAt_host (s : State) (c k : Nat) (f : Ctx → Ctx) : (s.modCtxAt c k f).host = s.host := rfl
@[simp] theorem modCtxAt_stop (s : State) (c k : Nat) (f : Ctx → Ctx) : (s.modCtxAt c k f).stop = s.stop := rfl
@[simp] theorem modCtxAt_errs (s : State) (c k : Nat) (f : Ctx → Ctx) : (s.modCtxAt c k f).errs = s.errs := rfl
@[simp] theorem modCtxAt_dies (s : State) (c k : Nat) (f : Ctx → Ctx) : (s.modCtxAt c k f).dies = s.dies := rfl
@[simp] theorem modCtxAt_overcurrent (s : State) (c k : Nat) (f : Ctx → Ctx) : (s.modCtxAt c k f).overcurrent = s.overcurrent := rfl
@[simp] theorem modCtxAt_belowSince (s : State) (c k : Nat) (f : Ctx → Ctx) : (s.modCtxAt c k f).belowSince = s.belowSince := rfl
@[simp] theorem modCtxAt_sliceWatch (s : State) (c k : Nat) (f : Ctx → Ctx) : (s.modCtxAt c k f).sliceWatch = s.sliceWatch := rfl
@[simp] theorem modCtxAt_mgmt (s : State) (c k : Nat) (f : Ctx → Ctx) : (s.modCtxAt c k f).mgmt = s.mgmt := rfl
@[simp] theorem modCtxAt_msgmax (s : State) (c k : Nat) (f : Ctx → Ctx) : (s.modCtxAt c k f).msgmax = s.msgmax := rfl
@[simp] theorem modCtxAt_badCores (s : State) (c k : Nat) (f : Ctx → Ctx) : (s.modCtxAt c k f).badCores = s.badCores := rfl
@[simp] theorem modCtxAt_badClusters (s : State) (c k : Nat) (f : Ctx → Ctx) : (s.modCtxAt c k f).badClusters = s.badClusters := rfl
@[simp] theorem modCtxAt_package (s : State) (c k : Nat) (f : Ctx → Ctx) : (s.modCtxAt c k f).package = s.package := rfl
@[simp] theorem modCtxAt_cycle (s : State) (c k : Nat) (f : Ctx → Ctx) : (s.modCtxAt c k f).cycle = s.cycle := rfl
@[simp] theorem modCtxAt_cur (s : State) (c k : Nat) (f : Ctx → Ctx) : (s.modCtxAt c k f).cur = s.cur := rfl
@[simp] theorem modCtxAt_agenda (s : State) (c k : Nat) (f : Ctx → Ctx) : (s.modCtxAt c k f).agenda = s.agenda := rfl
@[simp] theorem modCtxAt_turn (s : State) (c k : Nat) (f : Ctx → Ctx) : (s.modCtxAt c k f).turn = s.turn := rfl
@[simp] theorem modCtxAt_free (s : State) (c k : Nat) (f : Ctx → Ctx) : (s.modCtxAt c k f).free = s.free := rfl

/-! ### State.modCtx -/

@[simp] theorem modCtx_clusters (s : State) (f : Ctx → Ctx) : (s.modCtx f).clusters = s.clusters := rfl
@[simp] theorem modCtx_routers (s : State) (f : Ctx → Ctx) : (s.modCtx f).routers = s.routers := rfl
@[simp] theorem modCtx_walkers (s : State) (f : Ctx → Ctx) : (s.modCtx f).walkers = s.walkers := rfl
@[simp] theorem modCtx_wioloPorts (s : State) (f : Ctx → Ctx) : (s.modCtx f).wioloPorts = s.wioloPorts := rfl
@[simp] theorem modCtx_mem (s : State) (f : Ctx → Ctx) : (s.modCtx f).mem = s.mem := rfl
@[simp] theorem modCtx_eph (s : State) (f : Ctx → Ctx) : (s.modCtx f).eph = s.eph := rfl
@[simp] theorem modCtx_tags (s : State) (f : Ctx → Ctx) : (s.modCtx f).tags = s.tags := rfl
@[simp] theorem modCtx_treeOps (s : State) (f : Ctx → Ctx) : (s.modCtx f).treeOps = s.treeOps := rfl
@[simp] theorem modCtx_owed (s : State) (f : Ctx → Ctx) : (s.modCtx f).owed = s.owed := rfl
@[simp] theorem modCtx_notes (s : State) (f : Ctx → Ctx) : (s.modCtx f).notes = s.notes := rfl
@[simp] theorem modCtx_wreqs (s : State) (f : Ctx → Ctx) : (s.modCtx f).wreqs = s.wreqs := rfl
@[simp] theorem modCtx_launchOuts (s : State) (f : Ctx → Ctx) : (s.modCtx f).launchOuts = s.launchOuts := rfl
@[simp] theorem modCtx_answers (s : State) (f : Ctx → Ctx) : (s.modCtx f).answers = s.answers := rfl
@[simp] theorem modCtx_dones (s : State) (f : Ctx → Ctx) : (s.modCtx f).dones = s.dones := rfl
@[simp] theorem modCtx_exits (s : State) (f : Ctx → Ctx) : (s.modCtx f).exits = s.exits := rfl
@[simp] theorem modCtx_host (s : State) (f : Ctx → Ctx) : (s.modCtx f).host = s.host := rfl
@[simp] theorem modCtx_stop (s : State) (f : Ctx → Ctx) : (s.modCtx f).stop = s.stop := rfl
@[simp] theorem modCtx_errs (s : State) (f : Ctx → Ctx) : (s.modCtx f).errs = s.errs := rfl
@[simp] theorem modCtx_dies (s : State) (f : Ctx → Ctx) : (s.modCtx f).dies = s.dies := rfl
@[simp] theorem modCtx_overcurrent (s : State) (f : Ctx → Ctx) : (s.modCtx f).overcurrent = s.overcurrent := rfl
@[simp] theorem modCtx_belowSince (s : State) (f : Ctx → Ctx) : (s.modCtx f).belowSince = s.belowSince := rfl
@[simp] theorem modCtx_sliceWatch (s : State) (f : Ctx → Ctx) : (s.modCtx f).sliceWatch = s.sliceWatch := rfl
@[simp] theorem modCtx_mgmt (s : State) (f : Ctx → Ctx) : (s.modCtx f).mgmt = s.mgmt := rfl
@[simp] theorem modCtx_msgmax (s : State) (f : Ctx → Ctx) : (s.modCtx f).msgmax = s.msgmax := rfl
@[simp] theorem modCtx_badCores (s : State) (f : Ctx → Ctx) : (s.modCtx f).badCores = s.badCores := rfl
@[simp] theorem modCtx_badClusters (s : State) (f : Ctx → Ctx) : (s.modCtx f).badClusters = s.badClusters := rfl
@[simp] theorem modCtx_package (s : State) (f : Ctx → Ctx) : (s.modCtx f).package = s.package := rfl
@[simp] theorem modCtx_cycle (s : State) (f : Ctx → Ctx) : (s.modCtx f).cycle = s.cycle := rfl
@[simp] theorem modCtx_cur (s : State) (f : Ctx → Ctx) : (s.modCtx f).cur = s.cur := rfl
@[simp] theorem modCtx_agenda (s : State) (f : Ctx → Ctx) : (s.modCtx f).agenda = s.agenda := rfl
@[simp] theorem modCtx_turn (s : State) (f : Ctx → Ctx) : (s.modCtx f).turn = s.turn := rfl
@[simp] theorem modCtx_free (s : State) (f : Ctx → Ctx) : (s.modCtx f).free = s.free := rfl

/-! ### State.modHere -/

@[simp] theorem modHere_clusters (s : State) (f : Core → Core) : (s.modHere f).clusters = s.clusters := rfl
@[simp] theorem modHere_routers (s : State) (f : Core → Core) : (s.modHere f).routers = s.routers := rfl
@[simp] theorem modHere_walkers (s : State) (f : Core → Core) : (s.modHere f).walkers = s.walkers := rfl
@[simp] theorem modHere_wioloPorts (s : State) (f : Core → Core) : (s.modHere f).wioloPorts = s.wioloPorts := rfl
@[simp] theorem modHere_mem (s : State) (f : Core → Core) : (s.modHere f).mem = s.mem := rfl
@[simp] theorem modHere_eph (s : State) (f : Core → Core) : (s.modHere f).eph = s.eph := rfl
@[simp] theorem modHere_tags (s : State) (f : Core → Core) : (s.modHere f).tags = s.tags := rfl
@[simp] theorem modHere_treeOps (s : State) (f : Core → Core) : (s.modHere f).treeOps = s.treeOps := rfl
@[simp] theorem modHere_owed (s : State) (f : Core → Core) : (s.modHere f).owed = s.owed := rfl
@[simp] theorem modHere_notes (s : State) (f : Core → Core) : (s.modHere f).notes = s.notes := rfl
@[simp] theorem modHere_wreqs (s : State) (f : Core → Core) : (s.modHere f).wreqs = s.wreqs := rfl
@[simp] theorem modHere_launchOuts (s : State) (f : Core → Core) : (s.modHere f).launchOuts = s.launchOuts := rfl
@[simp] theorem modHere_answers (s : State) (f : Core → Core) : (s.modHere f).answers = s.answers := rfl
@[simp] theorem modHere_dones (s : State) (f : Core → Core) : (s.modHere f).dones = s.dones := rfl
@[simp] theorem modHere_exits (s : State) (f : Core → Core) : (s.modHere f).exits = s.exits := rfl
@[simp] theorem modHere_host (s : State) (f : Core → Core) : (s.modHere f).host = s.host := rfl
@[simp] theorem modHere_stop (s : State) (f : Core → Core) : (s.modHere f).stop = s.stop := rfl
@[simp] theorem modHere_errs (s : State) (f : Core → Core) : (s.modHere f).errs = s.errs := rfl
@[simp] theorem modHere_dies (s : State) (f : Core → Core) : (s.modHere f).dies = s.dies := rfl
@[simp] theorem modHere_overcurrent (s : State) (f : Core → Core) : (s.modHere f).overcurrent = s.overcurrent := rfl
@[simp] theorem modHere_belowSince (s : State) (f : Core → Core) : (s.modHere f).belowSince = s.belowSince := rfl
@[simp] theorem modHere_sliceWatch (s : State) (f : Core → Core) : (s.modHere f).sliceWatch = s.sliceWatch := rfl
@[simp] theorem modHere_mgmt (s : State) (f : Core → Core) : (s.modHere f).mgmt = s.mgmt := rfl
@[simp] theorem modHere_msgmax (s : State) (f : Core → Core) : (s.modHere f).msgmax = s.msgmax := rfl
@[simp] theorem modHere_badCores (s : State) (f : Core → Core) : (s.modHere f).badCores = s.badCores := rfl
@[simp] theorem modHere_badClusters (s : State) (f : Core → Core) : (s.modHere f).badClusters = s.badClusters := rfl
@[simp] theorem modHere_package (s : State) (f : Core → Core) : (s.modHere f).package = s.package := rfl
@[simp] theorem modHere_cycle (s : State) (f : Core → Core) : (s.modHere f).cycle = s.cycle := rfl
@[simp] theorem modHere_cur (s : State) (f : Core → Core) : (s.modHere f).cur = s.cur := rfl
@[simp] theorem modHere_agenda (s : State) (f : Core → Core) : (s.modHere f).agenda = s.agenda := rfl
@[simp] theorem modHere_turn (s : State) (f : Core → Core) : (s.modHere f).turn = s.turn := rfl
@[simp] theorem modHere_free (s : State) (f : Core → Core) : (s.modHere f).free = s.free := rfl

/-! ### State.modEngine -/

@[simp] theorem modEngine_clusters (s : State) (c : Nat) (f : Engine → Engine) : (s.modEngine c f).clusters = s.clusters := rfl
@[simp] theorem modEngine_routers (s : State) (c : Nat) (f : Engine → Engine) : (s.modEngine c f).routers = s.routers := rfl
@[simp] theorem modEngine_walkers (s : State) (c : Nat) (f : Engine → Engine) : (s.modEngine c f).walkers = s.walkers := rfl
@[simp] theorem modEngine_wioloPorts (s : State) (c : Nat) (f : Engine → Engine) : (s.modEngine c f).wioloPorts = s.wioloPorts := rfl
@[simp] theorem modEngine_mem (s : State) (c : Nat) (f : Engine → Engine) : (s.modEngine c f).mem = s.mem := rfl
@[simp] theorem modEngine_eph (s : State) (c : Nat) (f : Engine → Engine) : (s.modEngine c f).eph = s.eph := rfl
@[simp] theorem modEngine_tags (s : State) (c : Nat) (f : Engine → Engine) : (s.modEngine c f).tags = s.tags := rfl
@[simp] theorem modEngine_treeOps (s : State) (c : Nat) (f : Engine → Engine) : (s.modEngine c f).treeOps = s.treeOps := rfl
@[simp] theorem modEngine_owed (s : State) (c : Nat) (f : Engine → Engine) : (s.modEngine c f).owed = s.owed := rfl
@[simp] theorem modEngine_notes (s : State) (c : Nat) (f : Engine → Engine) : (s.modEngine c f).notes = s.notes := rfl
@[simp] theorem modEngine_wreqs (s : State) (c : Nat) (f : Engine → Engine) : (s.modEngine c f).wreqs = s.wreqs := rfl
@[simp] theorem modEngine_launchOuts (s : State) (c : Nat) (f : Engine → Engine) : (s.modEngine c f).launchOuts = s.launchOuts := rfl
@[simp] theorem modEngine_answers (s : State) (c : Nat) (f : Engine → Engine) : (s.modEngine c f).answers = s.answers := rfl
@[simp] theorem modEngine_dones (s : State) (c : Nat) (f : Engine → Engine) : (s.modEngine c f).dones = s.dones := rfl
@[simp] theorem modEngine_exits (s : State) (c : Nat) (f : Engine → Engine) : (s.modEngine c f).exits = s.exits := rfl
@[simp] theorem modEngine_host (s : State) (c : Nat) (f : Engine → Engine) : (s.modEngine c f).host = s.host := rfl
@[simp] theorem modEngine_stop (s : State) (c : Nat) (f : Engine → Engine) : (s.modEngine c f).stop = s.stop := rfl
@[simp] theorem modEngine_errs (s : State) (c : Nat) (f : Engine → Engine) : (s.modEngine c f).errs = s.errs := rfl
@[simp] theorem modEngine_dies (s : State) (c : Nat) (f : Engine → Engine) : (s.modEngine c f).dies = s.dies := rfl
@[simp] theorem modEngine_overcurrent (s : State) (c : Nat) (f : Engine → Engine) : (s.modEngine c f).overcurrent = s.overcurrent := rfl
@[simp] theorem modEngine_belowSince (s : State) (c : Nat) (f : Engine → Engine) : (s.modEngine c f).belowSince = s.belowSince := rfl
@[simp] theorem modEngine_sliceWatch (s : State) (c : Nat) (f : Engine → Engine) : (s.modEngine c f).sliceWatch = s.sliceWatch := rfl
@[simp] theorem modEngine_mgmt (s : State) (c : Nat) (f : Engine → Engine) : (s.modEngine c f).mgmt = s.mgmt := rfl
@[simp] theorem modEngine_msgmax (s : State) (c : Nat) (f : Engine → Engine) : (s.modEngine c f).msgmax = s.msgmax := rfl
@[simp] theorem modEngine_badCores (s : State) (c : Nat) (f : Engine → Engine) : (s.modEngine c f).badCores = s.badCores := rfl
@[simp] theorem modEngine_badClusters (s : State) (c : Nat) (f : Engine → Engine) : (s.modEngine c f).badClusters = s.badClusters := rfl
@[simp] theorem modEngine_package (s : State) (c : Nat) (f : Engine → Engine) : (s.modEngine c f).package = s.package := rfl
@[simp] theorem modEngine_cycle (s : State) (c : Nat) (f : Engine → Engine) : (s.modEngine c f).cycle = s.cycle := rfl
@[simp] theorem modEngine_cur (s : State) (c : Nat) (f : Engine → Engine) : (s.modEngine c f).cur = s.cur := rfl
@[simp] theorem modEngine_agenda (s : State) (c : Nat) (f : Engine → Engine) : (s.modEngine c f).agenda = s.agenda := rfl
@[simp] theorem modEngine_turn (s : State) (c : Nat) (f : Engine → Engine) : (s.modEngine c f).turn = s.turn := rfl
@[simp] theorem modEngine_free (s : State) (c : Nat) (f : Engine → Engine) : (s.modEngine c f).free = s.free := rfl

/-! ### State.modCluster -/

@[simp] theorem modCluster_cores (s : State) (n : Nat) (f : Cluster → Cluster) : (s.modCluster n f).cores = s.cores := rfl
@[simp] theorem modCluster_routers (s : State) (n : Nat) (f : Cluster → Cluster) : (s.modCluster n f).routers = s.routers := rfl
@[simp] theorem modCluster_walkers (s : State) (n : Nat) (f : Cluster → Cluster) : (s.modCluster n f).walkers = s.walkers := rfl
@[simp] theorem modCluster_wioloPorts (s : State) (n : Nat) (f : Cluster → Cluster) : (s.modCluster n f).wioloPorts = s.wioloPorts := rfl
@[simp] theorem modCluster_mem (s : State) (n : Nat) (f : Cluster → Cluster) : (s.modCluster n f).mem = s.mem := rfl
@[simp] theorem modCluster_eph (s : State) (n : Nat) (f : Cluster → Cluster) : (s.modCluster n f).eph = s.eph := rfl
@[simp] theorem modCluster_tags (s : State) (n : Nat) (f : Cluster → Cluster) : (s.modCluster n f).tags = s.tags := rfl
@[simp] theorem modCluster_treeOps (s : State) (n : Nat) (f : Cluster → Cluster) : (s.modCluster n f).treeOps = s.treeOps := rfl
@[simp] theorem modCluster_owed (s : State) (n : Nat) (f : Cluster → Cluster) : (s.modCluster n f).owed = s.owed := rfl
@[simp] theorem modCluster_notes (s : State) (n : Nat) (f : Cluster → Cluster) : (s.modCluster n f).notes = s.notes := rfl
@[simp] theorem modCluster_wreqs (s : State) (n : Nat) (f : Cluster → Cluster) : (s.modCluster n f).wreqs = s.wreqs := rfl
@[simp] theorem modCluster_launchOuts (s : State) (n : Nat) (f : Cluster → Cluster) : (s.modCluster n f).launchOuts = s.launchOuts := rfl
@[simp] theorem modCluster_answers (s : State) (n : Nat) (f : Cluster → Cluster) : (s.modCluster n f).answers = s.answers := rfl
@[simp] theorem modCluster_dones (s : State) (n : Nat) (f : Cluster → Cluster) : (s.modCluster n f).dones = s.dones := rfl
@[simp] theorem modCluster_exits (s : State) (n : Nat) (f : Cluster → Cluster) : (s.modCluster n f).exits = s.exits := rfl
@[simp] theorem modCluster_host (s : State) (n : Nat) (f : Cluster → Cluster) : (s.modCluster n f).host = s.host := rfl
@[simp] theorem modCluster_stop (s : State) (n : Nat) (f : Cluster → Cluster) : (s.modCluster n f).stop = s.stop := rfl
@[simp] theorem modCluster_errs (s : State) (n : Nat) (f : Cluster → Cluster) : (s.modCluster n f).errs = s.errs := rfl
@[simp] theorem modCluster_dies (s : State) (n : Nat) (f : Cluster → Cluster) : (s.modCluster n f).dies = s.dies := rfl
@[simp] theorem modCluster_overcurrent (s : State) (n : Nat) (f : Cluster → Cluster) : (s.modCluster n f).overcurrent = s.overcurrent := rfl
@[simp] theorem modCluster_belowSince (s : State) (n : Nat) (f : Cluster → Cluster) : (s.modCluster n f).belowSince = s.belowSince := rfl
@[simp] theorem modCluster_sliceWatch (s : State) (n : Nat) (f : Cluster → Cluster) : (s.modCluster n f).sliceWatch = s.sliceWatch := rfl
@[simp] theorem modCluster_mgmt (s : State) (n : Nat) (f : Cluster → Cluster) : (s.modCluster n f).mgmt = s.mgmt := rfl
@[simp] theorem modCluster_msgmax (s : State) (n : Nat) (f : Cluster → Cluster) : (s.modCluster n f).msgmax = s.msgmax := rfl
@[simp] theorem modCluster_badCores (s : State) (n : Nat) (f : Cluster → Cluster) : (s.modCluster n f).badCores = s.badCores := rfl
@[simp] theorem modCluster_badClusters (s : State) (n : Nat) (f : Cluster → Cluster) : (s.modCluster n f).badClusters = s.badClusters := rfl
@[simp] theorem modCluster_package (s : State) (n : Nat) (f : Cluster → Cluster) : (s.modCluster n f).package = s.package := rfl
@[simp] theorem modCluster_cycle (s : State) (n : Nat) (f : Cluster → Cluster) : (s.modCluster n f).cycle = s.cycle := rfl
@[simp] theorem modCluster_cur (s : State) (n : Nat) (f : Cluster → Cluster) : (s.modCluster n f).cur = s.cur := rfl
@[simp] theorem modCluster_agenda (s : State) (n : Nat) (f : Cluster → Cluster) : (s.modCluster n f).agenda = s.agenda := rfl
@[simp] theorem modCluster_turn (s : State) (n : Nat) (f : Cluster → Cluster) : (s.modCluster n f).turn = s.turn := rfl
@[simp] theorem modCluster_free (s : State) (n : Nat) (f : Cluster → Cluster) : (s.modCluster n f).free = s.free := rfl

/-! ### State.modRouter -/

@[simp] theorem modRouter_cores (s : State) (n : Nat) (f : Router → Router) : (s.modRouter n f).cores = s.cores := rfl
@[simp] theorem modRouter_clusters (s : State) (n : Nat) (f : Router → Router) : (s.modRouter n f).clusters = s.clusters := rfl
@[simp] theorem modRouter_walkers (s : State) (n : Nat) (f : Router → Router) : (s.modRouter n f).walkers = s.walkers := rfl
@[simp] theorem modRouter_wioloPorts (s : State) (n : Nat) (f : Router → Router) : (s.modRouter n f).wioloPorts = s.wioloPorts := rfl
@[simp] theorem modRouter_mem (s : State) (n : Nat) (f : Router → Router) : (s.modRouter n f).mem = s.mem := rfl
@[simp] theorem modRouter_eph (s : State) (n : Nat) (f : Router → Router) : (s.modRouter n f).eph = s.eph := rfl
@[simp] theorem modRouter_tags (s : State) (n : Nat) (f : Router → Router) : (s.modRouter n f).tags = s.tags := rfl
@[simp] theorem modRouter_treeOps (s : State) (n : Nat) (f : Router → Router) : (s.modRouter n f).treeOps = s.treeOps := rfl
@[simp] theorem modRouter_owed (s : State) (n : Nat) (f : Router → Router) : (s.modRouter n f).owed = s.owed := rfl
@[simp] theorem modRouter_notes (s : State) (n : Nat) (f : Router → Router) : (s.modRouter n f).notes = s.notes := rfl
@[simp] theorem modRouter_wreqs (s : State) (n : Nat) (f : Router → Router) : (s.modRouter n f).wreqs = s.wreqs := rfl
@[simp] theorem modRouter_launchOuts (s : State) (n : Nat) (f : Router → Router) : (s.modRouter n f).launchOuts = s.launchOuts := rfl
@[simp] theorem modRouter_answers (s : State) (n : Nat) (f : Router → Router) : (s.modRouter n f).answers = s.answers := rfl
@[simp] theorem modRouter_dones (s : State) (n : Nat) (f : Router → Router) : (s.modRouter n f).dones = s.dones := rfl
@[simp] theorem modRouter_exits (s : State) (n : Nat) (f : Router → Router) : (s.modRouter n f).exits = s.exits := rfl
@[simp] theorem modRouter_host (s : State) (n : Nat) (f : Router → Router) : (s.modRouter n f).host = s.host := rfl
@[simp] theorem modRouter_stop (s : State) (n : Nat) (f : Router → Router) : (s.modRouter n f).stop = s.stop := rfl
@[simp] theorem modRouter_errs (s : State) (n : Nat) (f : Router → Router) : (s.modRouter n f).errs = s.errs := rfl
@[simp] theorem modRouter_dies (s : State) (n : Nat) (f : Router → Router) : (s.modRouter n f).dies = s.dies := rfl
@[simp] theorem modRouter_overcurrent (s : State) (n : Nat) (f : Router → Router) : (s.modRouter n f).overcurrent = s.overcurrent := rfl
@[simp] theorem modRouter_belowSince (s : State) (n : Nat) (f : Router → Router) : (s.modRouter n f).belowSince = s.belowSince := rfl
@[simp] theorem modRouter_sliceWatch (s : State) (n : Nat) (f : Router → Router) : (s.modRouter n f).sliceWatch = s.sliceWatch := rfl
@[simp] theorem modRouter_mgmt (s : State) (n : Nat) (f : Router → Router) : (s.modRouter n f).mgmt = s.mgmt := rfl
@[simp] theorem modRouter_msgmax (s : State) (n : Nat) (f : Router → Router) : (s.modRouter n f).msgmax = s.msgmax := rfl
@[simp] theorem modRouter_badCores (s : State) (n : Nat) (f : Router → Router) : (s.modRouter n f).badCores = s.badCores := rfl
@[simp] theorem modRouter_badClusters (s : State) (n : Nat) (f : Router → Router) : (s.modRouter n f).badClusters = s.badClusters := rfl
@[simp] theorem modRouter_package (s : State) (n : Nat) (f : Router → Router) : (s.modRouter n f).package = s.package := rfl
@[simp] theorem modRouter_cycle (s : State) (n : Nat) (f : Router → Router) : (s.modRouter n f).cycle = s.cycle := rfl
@[simp] theorem modRouter_cur (s : State) (n : Nat) (f : Router → Router) : (s.modRouter n f).cur = s.cur := rfl
@[simp] theorem modRouter_agenda (s : State) (n : Nat) (f : Router → Router) : (s.modRouter n f).agenda = s.agenda := rfl
@[simp] theorem modRouter_turn (s : State) (n : Nat) (f : Router → Router) : (s.modRouter n f).turn = s.turn := rfl
@[simp] theorem modRouter_free (s : State) (n : Nat) (f : Router → Router) : (s.modRouter n f).free = s.free := rfl

/-! ### State.modMem -/

@[simp] theorem modMem_cores (s : State) (f : Mem → Mem) : (s.modMem f).cores = s.cores := rfl
@[simp] theorem modMem_clusters (s : State) (f : Mem → Mem) : (s.modMem f).clusters = s.clusters := rfl
@[simp] theorem modMem_routers (s : State) (f : Mem → Mem) : (s.modMem f).routers = s.routers := rfl
@[simp] theorem modMem_walkers (s : State) (f : Mem → Mem) : (s.modMem f).walkers = s.walkers := rfl
@[simp] theorem modMem_wioloPorts (s : State) (f : Mem → Mem) : (s.modMem f).wioloPorts = s.wioloPorts := rfl
@[simp] theorem modMem_eph (s : State) (f : Mem → Mem) : (s.modMem f).eph = s.eph := rfl
@[simp] theorem modMem_tags (s : State) (f : Mem → Mem) : (s.modMem f).tags = s.tags := rfl
@[simp] theorem modMem_treeOps (s : State) (f : Mem → Mem) : (s.modMem f).treeOps = s.treeOps := rfl
@[simp] theorem modMem_owed (s : State) (f : Mem → Mem) : (s.modMem f).owed = s.owed := rfl
@[simp] theorem modMem_notes (s : State) (f : Mem → Mem) : (s.modMem f).notes = s.notes := rfl
@[simp] theorem modMem_wreqs (s : State) (f : Mem → Mem) : (s.modMem f).wreqs = s.wreqs := rfl
@[simp] theorem modMem_launchOuts (s : State) (f : Mem → Mem) : (s.modMem f).launchOuts = s.launchOuts := rfl
@[simp] theorem modMem_answers (s : State) (f : Mem → Mem) : (s.modMem f).answers = s.answers := rfl
@[simp] theorem modMem_dones (s : State) (f : Mem → Mem) : (s.modMem f).dones = s.dones := rfl
@[simp] theorem modMem_exits (s : State) (f : Mem → Mem) : (s.modMem f).exits = s.exits := rfl
@[simp] theorem modMem_host (s : State) (f : Mem → Mem) : (s.modMem f).host = s.host := rfl
@[simp] theorem modMem_stop (s : State) (f : Mem → Mem) : (s.modMem f).stop = s.stop := rfl
@[simp] theorem modMem_errs (s : State) (f : Mem → Mem) : (s.modMem f).errs = s.errs := rfl
@[simp] theorem modMem_dies (s : State) (f : Mem → Mem) : (s.modMem f).dies = s.dies := rfl
@[simp] theorem modMem_overcurrent (s : State) (f : Mem → Mem) : (s.modMem f).overcurrent = s.overcurrent := rfl
@[simp] theorem modMem_belowSince (s : State) (f : Mem → Mem) : (s.modMem f).belowSince = s.belowSince := rfl
@[simp] theorem modMem_sliceWatch (s : State) (f : Mem → Mem) : (s.modMem f).sliceWatch = s.sliceWatch := rfl
@[simp] theorem modMem_mgmt (s : State) (f : Mem → Mem) : (s.modMem f).mgmt = s.mgmt := rfl
@[simp] theorem modMem_msgmax (s : State) (f : Mem → Mem) : (s.modMem f).msgmax = s.msgmax := rfl
@[simp] theorem modMem_badCores (s : State) (f : Mem → Mem) : (s.modMem f).badCores = s.badCores := rfl
@[simp] theorem modMem_badClusters (s : State) (f : Mem → Mem) : (s.modMem f).badClusters = s.badClusters := rfl
@[simp] theorem modMem_package (s : State) (f : Mem → Mem) : (s.modMem f).package = s.package := rfl
@[simp] theorem modMem_cycle (s : State) (f : Mem → Mem) : (s.modMem f).cycle = s.cycle := rfl
@[simp] theorem modMem_cur (s : State) (f : Mem → Mem) : (s.modMem f).cur = s.cur := rfl
@[simp] theorem modMem_agenda (s : State) (f : Mem → Mem) : (s.modMem f).agenda = s.agenda := rfl
@[simp] theorem modMem_turn (s : State) (f : Mem → Mem) : (s.modMem f).turn = s.turn := rfl
@[simp] theorem modMem_free (s : State) (f : Mem → Mem) : (s.modMem f).free = s.free := rfl

/-! ### State.modTag -/

@[simp] theorem modTag_cores (s : State) (t : Nat) (f : BarTag → BarTag) : (s.modTag t f).cores = s.cores := rfl
@[simp] theorem modTag_clusters (s : State) (t : Nat) (f : BarTag → BarTag) : (s.modTag t f).clusters = s.clusters := rfl
@[simp] theorem modTag_routers (s : State) (t : Nat) (f : BarTag → BarTag) : (s.modTag t f).routers = s.routers := rfl
@[simp] theorem modTag_walkers (s : State) (t : Nat) (f : BarTag → BarTag) : (s.modTag t f).walkers = s.walkers := rfl
@[simp] theorem modTag_wioloPorts (s : State) (t : Nat) (f : BarTag → BarTag) : (s.modTag t f).wioloPorts = s.wioloPorts := rfl
@[simp] theorem modTag_mem (s : State) (t : Nat) (f : BarTag → BarTag) : (s.modTag t f).mem = s.mem := rfl
@[simp] theorem modTag_eph (s : State) (t : Nat) (f : BarTag → BarTag) : (s.modTag t f).eph = s.eph := rfl
@[simp] theorem modTag_treeOps (s : State) (t : Nat) (f : BarTag → BarTag) : (s.modTag t f).treeOps = s.treeOps := rfl
@[simp] theorem modTag_owed (s : State) (t : Nat) (f : BarTag → BarTag) : (s.modTag t f).owed = s.owed := rfl
@[simp] theorem modTag_notes (s : State) (t : Nat) (f : BarTag → BarTag) : (s.modTag t f).notes = s.notes := rfl
@[simp] theorem modTag_wreqs (s : State) (t : Nat) (f : BarTag → BarTag) : (s.modTag t f).wreqs = s.wreqs := rfl
@[simp] theorem modTag_launchOuts (s : State) (t : Nat) (f : BarTag → BarTag) : (s.modTag t f).launchOuts = s.launchOuts := rfl
@[simp] theorem modTag_answers (s : State) (t : Nat) (f : BarTag → BarTag) : (s.modTag t f).answers = s.answers := rfl
@[simp] theorem modTag_dones (s : State) (t : Nat) (f : BarTag → BarTag) : (s.modTag t f).dones = s.dones := rfl
@[simp] theorem modTag_exits (s : State) (t : Nat) (f : BarTag → BarTag) : (s.modTag t f).exits = s.exits := rfl
@[simp] theorem modTag_host (s : State) (t : Nat) (f : BarTag → BarTag) : (s.modTag t f).host = s.host := rfl
@[simp] theorem modTag_stop (s : State) (t : Nat) (f : BarTag → BarTag) : (s.modTag t f).stop = s.stop := rfl
@[simp] theorem modTag_errs (s : State) (t : Nat) (f : BarTag → BarTag) : (s.modTag t f).errs = s.errs := rfl
@[simp] theorem modTag_dies (s : State) (t : Nat) (f : BarTag → BarTag) : (s.modTag t f).dies = s.dies := rfl
@[simp] theorem modTag_overcurrent (s : State) (t : Nat) (f : BarTag → BarTag) : (s.modTag t f).overcurrent = s.overcurrent := rfl
@[simp] theorem modTag_belowSince (s : State) (t : Nat) (f : BarTag → BarTag) : (s.modTag t f).belowSince = s.belowSince := rfl
@[simp] theorem modTag_sliceWatch (s : State) (t : Nat) (f : BarTag → BarTag) : (s.modTag t f).sliceWatch = s.sliceWatch := rfl
@[simp] theorem modTag_mgmt (s : State) (t : Nat) (f : BarTag → BarTag) : (s.modTag t f).mgmt = s.mgmt := rfl
@[simp] theorem modTag_msgmax (s : State) (t : Nat) (f : BarTag → BarTag) : (s.modTag t f).msgmax = s.msgmax := rfl
@[simp] theorem modTag_badCores (s : State) (t : Nat) (f : BarTag → BarTag) : (s.modTag t f).badCores = s.badCores := rfl
@[simp] theorem modTag_badClusters (s : State) (t : Nat) (f : BarTag → BarTag) : (s.modTag t f).badClusters = s.badClusters := rfl
@[simp] theorem modTag_package (s : State) (t : Nat) (f : BarTag → BarTag) : (s.modTag t f).package = s.package := rfl
@[simp] theorem modTag_cycle (s : State) (t : Nat) (f : BarTag → BarTag) : (s.modTag t f).cycle = s.cycle := rfl
@[simp] theorem modTag_cur (s : State) (t : Nat) (f : BarTag → BarTag) : (s.modTag t f).cur = s.cur := rfl
@[simp] theorem modTag_agenda (s : State) (t : Nat) (f : BarTag → BarTag) : (s.modTag t f).agenda = s.agenda := rfl
@[simp] theorem modTag_turn (s : State) (t : Nat) (f : BarTag → BarTag) : (s.modTag t f).turn = s.turn := rfl
@[simp] theorem modTag_free (s : State) (t : Nat) (f : BarTag → BarTag) : (s.modTag t f).free = s.free := rfl

/-! ### State.modDie -/

@[simp] theorem modDie_cores (s : State) (d : Nat) (f : Die → Die) : (s.modDie d f).cores = s.cores := rfl
@[simp] theorem modDie_clusters (s : State) (d : Nat) (f : Die → Die) : (s.modDie d f).clusters = s.clusters := rfl
@[simp] theorem modDie_routers (s : State) (d : Nat) (f : Die → Die) : (s.modDie d f).routers = s.routers := rfl
@[simp] theorem modDie_walkers (s : State) (d : Nat) (f : Die → Die) : (s.modDie d f).walkers = s.walkers := rfl
@[simp] theorem modDie_wioloPorts (s : State) (d : Nat) (f : Die → Die) : (s.modDie d f).wioloPorts = s.wioloPorts := rfl
@[simp] theorem modDie_mem (s : State) (d : Nat) (f : Die → Die) : (s.modDie d f).mem = s.mem := rfl
@[simp] theorem modDie_eph (s : State) (d : Nat) (f : Die → Die) : (s.modDie d f).eph = s.eph := rfl
@[simp] theorem modDie_tags (s : State) (d : Nat) (f : Die → Die) : (s.modDie d f).tags = s.tags := rfl
@[simp] theorem modDie_treeOps (s : State) (d : Nat) (f : Die → Die) : (s.modDie d f).treeOps = s.treeOps := rfl
@[simp] theorem modDie_owed (s : State) (d : Nat) (f : Die → Die) : (s.modDie d f).owed = s.owed := rfl
@[simp] theorem modDie_notes (s : State) (d : Nat) (f : Die → Die) : (s.modDie d f).notes = s.notes := rfl
@[simp] theorem modDie_wreqs (s : State) (d : Nat) (f : Die → Die) : (s.modDie d f).wreqs = s.wreqs := rfl
@[simp] theorem modDie_launchOuts (s : State) (d : Nat) (f : Die → Die) : (s.modDie d f).launchOuts = s.launchOuts := rfl
@[simp] theorem modDie_answers (s : State) (d : Nat) (f : Die → Die) : (s.modDie d f).answers = s.answers := rfl
@[simp] theorem modDie_dones (s : State) (d : Nat) (f : Die → Die) : (s.modDie d f).dones = s.dones := rfl
@[simp] theorem modDie_exits (s : State) (d : Nat) (f : Die → Die) : (s.modDie d f).exits = s.exits := rfl
@[simp] theorem modDie_host (s : State) (d : Nat) (f : Die → Die) : (s.modDie d f).host = s.host := rfl
@[simp] theorem modDie_stop (s : State) (d : Nat) (f : Die → Die) : (s.modDie d f).stop = s.stop := rfl
@[simp] theorem modDie_errs (s : State) (d : Nat) (f : Die → Die) : (s.modDie d f).errs = s.errs := rfl
@[simp] theorem modDie_overcurrent (s : State) (d : Nat) (f : Die → Die) : (s.modDie d f).overcurrent = s.overcurrent := rfl
@[simp] theorem modDie_belowSince (s : State) (d : Nat) (f : Die → Die) : (s.modDie d f).belowSince = s.belowSince := rfl
@[simp] theorem modDie_sliceWatch (s : State) (d : Nat) (f : Die → Die) : (s.modDie d f).sliceWatch = s.sliceWatch := rfl
@[simp] theorem modDie_mgmt (s : State) (d : Nat) (f : Die → Die) : (s.modDie d f).mgmt = s.mgmt := rfl
@[simp] theorem modDie_msgmax (s : State) (d : Nat) (f : Die → Die) : (s.modDie d f).msgmax = s.msgmax := rfl
@[simp] theorem modDie_badCores (s : State) (d : Nat) (f : Die → Die) : (s.modDie d f).badCores = s.badCores := rfl
@[simp] theorem modDie_badClusters (s : State) (d : Nat) (f : Die → Die) : (s.modDie d f).badClusters = s.badClusters := rfl
@[simp] theorem modDie_package (s : State) (d : Nat) (f : Die → Die) : (s.modDie d f).package = s.package := rfl
@[simp] theorem modDie_cycle (s : State) (d : Nat) (f : Die → Die) : (s.modDie d f).cycle = s.cycle := rfl
@[simp] theorem modDie_cur (s : State) (d : Nat) (f : Die → Die) : (s.modDie d f).cur = s.cur := rfl
@[simp] theorem modDie_agenda (s : State) (d : Nat) (f : Die → Die) : (s.modDie d f).agenda = s.agenda := rfl
@[simp] theorem modDie_turn (s : State) (d : Nat) (f : Die → Die) : (s.modDie d f).turn = s.turn := rfl
@[simp] theorem modDie_free (s : State) (d : Nat) (f : Die → Die) : (s.modDie d f).free = s.free := rfl

/-! ### State.drawn -/

@[simp] theorem drawn_cores (s : State) : (s.drawn).cores = s.cores := rfl
@[simp] theorem drawn_clusters (s : State) : (s.drawn).clusters = s.clusters := rfl
@[simp] theorem drawn_routers (s : State) : (s.drawn).routers = s.routers := rfl
@[simp] theorem drawn_walkers (s : State) : (s.drawn).walkers = s.walkers := rfl
@[simp] theorem drawn_wioloPorts (s : State) : (s.drawn).wioloPorts = s.wioloPorts := rfl
@[simp] theorem drawn_mem (s : State) : (s.drawn).mem = s.mem := rfl
@[simp] theorem drawn_eph (s : State) : (s.drawn).eph = s.eph := rfl
@[simp] theorem drawn_tags (s : State) : (s.drawn).tags = s.tags := rfl
@[simp] theorem drawn_treeOps (s : State) : (s.drawn).treeOps = s.treeOps := rfl
@[simp] theorem drawn_owed (s : State) : (s.drawn).owed = s.owed := rfl
@[simp] theorem drawn_notes (s : State) : (s.drawn).notes = s.notes := rfl
@[simp] theorem drawn_wreqs (s : State) : (s.drawn).wreqs = s.wreqs := rfl
@[simp] theorem drawn_launchOuts (s : State) : (s.drawn).launchOuts = s.launchOuts := rfl
@[simp] theorem drawn_answers (s : State) : (s.drawn).answers = s.answers := rfl
@[simp] theorem drawn_dones (s : State) : (s.drawn).dones = s.dones := rfl
@[simp] theorem drawn_exits (s : State) : (s.drawn).exits = s.exits := rfl
@[simp] theorem drawn_host (s : State) : (s.drawn).host = s.host := rfl
@[simp] theorem drawn_stop (s : State) : (s.drawn).stop = s.stop := rfl
@[simp] theorem drawn_errs (s : State) : (s.drawn).errs = s.errs := rfl
@[simp] theorem drawn_dies (s : State) : (s.drawn).dies = s.dies := rfl
@[simp] theorem drawn_overcurrent (s : State) : (s.drawn).overcurrent = s.overcurrent := rfl
@[simp] theorem drawn_belowSince (s : State) : (s.drawn).belowSince = s.belowSince := rfl
@[simp] theorem drawn_sliceWatch (s : State) : (s.drawn).sliceWatch = s.sliceWatch := rfl
@[simp] theorem drawn_mgmt (s : State) : (s.drawn).mgmt = s.mgmt := rfl
@[simp] theorem drawn_msgmax (s : State) : (s.drawn).msgmax = s.msgmax := rfl
@[simp] theorem drawn_badCores (s : State) : (s.drawn).badCores = s.badCores := rfl
@[simp] theorem drawn_badClusters (s : State) : (s.drawn).badClusters = s.badClusters := rfl
@[simp] theorem drawn_package (s : State) : (s.drawn).package = s.package := rfl
@[simp] theorem drawn_cycle (s : State) : (s.drawn).cycle = s.cycle := rfl
@[simp] theorem drawn_cur (s : State) : (s.drawn).cur = s.cur := rfl
@[simp] theorem drawn_agenda (s : State) : (s.drawn).agenda = s.agenda := rfl
@[simp] theorem drawn_turn (s : State) : (s.drawn).turn = s.turn := rfl

/-! ### Ctx.setReg -/

@[simp] theorem setReg_occupied (x : Ctx) (r : Reg) (v : Word) (p : Bool) : (x.setReg r v p).occupied = x.occupied := by unfold Ctx.setReg; split <;> rfl
@[simp] theorem setReg_freed (x : Ctx) (r : Reg) (v : Word) (p : Bool) : (x.setReg r v p).freed = x.freed := by unfold Ctx.setReg; split <;> rfl
@[simp] theorem setReg_qver (x : Ctx) (r : Reg) (v : Word) (p : Bool) : (x.setReg r v p).qver = x.qver := by unfold Ctx.setReg; split <;> rfl
@[simp] theorem setReg_gen (x : Ctx) (r : Reg) (v : Word) (p : Bool) : (x.setReg r v p).gen = x.gen := by unfold Ctx.setReg; split <;> rfl
@[simp] theorem setReg_lock (x : Ctx) (r : Reg) (v : Word) (p : Bool) : (x.setReg r v p).lock = x.lock := by unfold Ctx.setReg; split <;> rfl
@[simp] theorem setReg_pc (x : Ctx) (r : Reg) (v : Word) (p : Bool) : (x.setReg r v p).pc = x.pc := by unfold Ctx.setReg; split <;> rfl
@[simp] theorem setReg_fflags (x : Ctx) (r : Reg) (v : Word) (p : Bool) : (x.setReg r v p).fflags = x.fflags := by unfold Ctx.setReg; split <;> rfl
@[simp] theorem setReg_frm (x : Ctx) (r : Reg) (v : Word) (p : Bool) : (x.setReg r v p).frm = x.frm := by unfold Ctx.setReg; split <;> rfl
@[simp] theorem setReg_waitlim (x : Ctx) (r : Reg) (v : Word) (p : Bool) : (x.setReg r v p).waitlim = x.waitlim := by unfold Ctx.setReg; split <;> rfl
@[simp] theorem setReg_tbudget (x : Ctx) (r : Reg) (v : Word) (p : Bool) : (x.setReg r v p).tbudget = x.tbudget := by unfold Ctx.setReg; split <;> rfl
@[simp] theorem setReg_prio (x : Ctx) (r : Reg) (v : Word) (p : Bool) : (x.setReg r v p).prio = x.prio := by unfold Ctx.setReg; split <;> rfl
@[simp] theorem setReg_realm (x : Ctx) (r : Reg) (v : Word) (p : Bool) : (x.setReg r v p).realm = x.realm := by unfold Ctx.setReg; split <;> rfl
@[simp] theorem setReg_tinfo (x : Ctx) (r : Reg) (v : Word) (p : Bool) : (x.setReg r v p).tinfo = x.tinfo := by unfold Ctx.setReg; split <;> rfl
@[simp] theorem setReg_walkid (x : Ctx) (r : Reg) (v : Word) (p : Bool) : (x.setReg r v p).walkid = x.walkid := by unfold Ctx.setReg; split <;> rfl
@[simp] theorem setReg_nodeid (x : Ctx) (r : Reg) (v : Word) (p : Bool) : (x.setReg r v p).nodeid = x.nodeid := by unfold Ctx.setReg; split <;> rfl
@[simp] theorem setReg_launch (x : Ctx) (r : Reg) (v : Word) (p : Bool) : (x.setReg r v p).launch = x.launch := by unfold Ctx.setReg; split <;> rfl
@[simp] theorem setReg_instret (x : Ctx) (r : Reg) (v : Word) (p : Bool) : (x.setReg r v p).instret = x.instret := by unfold Ctx.setReg; split <;> rfl
@[simp] theorem setReg_barMember (x : Ctx) (r : Reg) (v : Word) (p : Bool) : (x.setReg r v p).barMember = x.barMember := by unfold Ctx.setReg; split <;> rfl
@[simp] theorem setReg_barArr (x : Ctx) (r : Reg) (v : Word) (p : Bool) : (x.setReg r v p).barArr = x.barArr := by unfold Ctx.setReg; split <;> rfl
@[simp] theorem setReg_cseq (x : Ctx) (r : Reg) (v : Word) (p : Bool) : (x.setReg r v p).cseq = x.cseq := by unfold Ctx.setReg; split <;> rfl
@[simp] theorem setReg_batches (x : Ctx) (r : Reg) (v : Word) (p : Bool) : (x.setReg r v p).batches = x.batches := by unfold Ctx.setReg; split <;> rfl
@[simp] theorem setReg_openN (x : Ctx) (r : Reg) (v : Word) (p : Bool) : (x.setReg r v p).openN = x.openN := by unfold Ctx.setReg; split <;> rfl
@[simp] theorem setReg_openFault (x : Ctx) (r : Reg) (v : Word) (p : Bool) : (x.setReg r v p).openFault = x.openFault := by unfold Ctx.setReg; split <;> rfl
@[simp] theorem setReg_copyFaulted (x : Ctx) (r : Reg) (v : Word) (p : Bool) : (x.setReg r v p).copyFaulted = x.copyFaulted := by unfold Ctx.setReg; split <;> rfl
@[simp] theorem setReg_pulse (x : Ctx) (r : Reg) (v : Word) (p : Bool) : (x.setReg r v p).pulse = x.pulse := by unfold Ctx.setReg; split <;> rfl
@[simp] theorem setReg_obs (x : Ctx) (r : Reg) (v : Word) (p : Bool) : (x.setReg r v p).obs = x.obs := by unfold Ctx.setReg; split <;> rfl
@[simp] theorem setReg_wait (x : Ctx) (r : Reg) (v : Word) (p : Bool) : (x.setReg r v p).wait = x.wait := by unfold Ctx.setReg; split <;> rfl
@[simp] theorem setReg_pauseLeft (x : Ctx) (r : Reg) (v : Word) (p : Bool) : (x.setReg r v p).pauseLeft = x.pauseLeft := by unfold Ctx.setReg; split <;> rfl
@[simp] theorem setReg_barAwait (x : Ctx) (r : Reg) (v : Word) (p : Bool) : (x.setReg r v p).barAwait = x.barAwait := by unfold Ctx.setReg; split <;> rfl
@[simp] theorem setReg_barResume (x : Ctx) (r : Reg) (v : Word) (p : Bool) : (x.setReg r v p).barResume = x.barResume := by unfold Ctx.setReg; split <;> rfl
@[simp] theorem setReg_joining (x : Ctx) (r : Reg) (v : Word) (p : Bool) : (x.setReg r v p).joining = x.joining := by unfold Ctx.setReg; split <;> rfl
@[simp] theorem setReg_releasing (x : Ctx) (r : Reg) (v : Word) (p : Bool) : (x.setReg r v p).releasing = x.releasing := by unfold Ctx.setReg; split <;> rfl
@[simp] theorem setReg_frozen (x : Ctx) (r : Reg) (v : Word) (p : Bool) : (x.setReg r v p).frozen = x.frozen := by unfold Ctx.setReg; split <;> rfl
@[simp] theorem setReg_bypass (x : Ctx) (r : Reg) (v : Word) (p : Bool) : (x.setReg r v p).bypass = x.bypass := by unfold Ctx.setReg; split <;> rfl
@[simp] theorem setReg_graphTrap (x : Ctx) (r : Reg) (v : Word) (p : Bool) : (x.setReg r v p).graphTrap = x.graphTrap := by unfold Ctx.setReg; split <;> rfl
@[simp] theorem setReg_wskip (x : Ctx) (r : Reg) (v : Word) (p : Bool) : (x.setReg r v p).wskip = x.wskip := by unfold Ctx.setReg; split <;> rfl
@[simp] theorem setReg_await (x : Ctx) (r : Reg) (v : Word) (p : Bool) : (x.setReg r v p).await = x.await := by unfold Ctx.setReg; split <;> rfl
@[simp] theorem setReg_answer (x : Ctx) (r : Reg) (v : Word) (p : Bool) : (x.setReg r v p).answer = x.answer := by unfold Ctx.setReg; split <;> rfl
@[simp] theorem setReg_answerErr (x : Ctx) (r : Reg) (v : Word) (p : Bool) : (x.setReg r v p).answerErr = x.answerErr := by unfold Ctx.setReg; split <;> rfl
@[simp] theorem setReg_sending (x : Ctx) (r : Reg) (v : Word) (p : Bool) : (x.setReg r v p).sending = x.sending := by unfold Ctx.setReg; split <;> rfl
@[simp] theorem setReg_stalled (x : Ctx) (r : Reg) (v : Word) (p : Bool) : (x.setReg r v p).stalled = x.stalled := by unfold Ctx.setReg; split <;> rfl

/-! ### Ctx.setLock -/

@[simp] theorem setLock_occupied (x : Ctx) (r : Reg) (b : Bool) : (x.setLock r b).occupied = x.occupied := by unfold Ctx.setLock; split <;> rfl
@[simp] theorem setLock_freed (x : Ctx) (r : Reg) (b : Bool) : (x.setLock r b).freed = x.freed := by unfold Ctx.setLock; split <;> rfl
@[simp] theorem setLock_qver (x : Ctx) (r : Reg) (b : Bool) : (x.setLock r b).qver = x.qver := by unfold Ctx.setLock; split <;> rfl
@[simp] theorem setLock_gen (x : Ctx) (r : Reg) (b : Bool) : (x.setLock r b).gen = x.gen := by unfold Ctx.setLock; split <;> rfl
@[simp] theorem setLock_g (x : Ctx) (r : Reg) (b : Bool) : (x.setLock r b).g = x.g := by unfold Ctx.setLock; split <;> rfl
@[simp] theorem setLock_gpsn (x : Ctx) (r : Reg) (b : Bool) : (x.setLock r b).gpsn = x.gpsn := by unfold Ctx.setLock; split <;> rfl
@[simp] theorem setLock_pc (x : Ctx) (r : Reg) (b : Bool) : (x.setLock r b).pc = x.pc := by unfold Ctx.setLock; split <;> rfl
@[simp] theorem setLock_fflags (x : Ctx) (r : Reg) (b : Bool) : (x.setLock r b).fflags = x.fflags := by unfold Ctx.setLock; split <;> rfl
@[simp] theorem setLock_frm (x : Ctx) (r : Reg) (b : Bool) : (x.setLock r b).frm = x.frm := by unfold Ctx.setLock; split <;> rfl
@[simp] theorem setLock_waitlim (x : Ctx) (r : Reg) (b : Bool) : (x.setLock r b).waitlim = x.waitlim := by unfold Ctx.setLock; split <;> rfl
@[simp] theorem setLock_tbudget (x : Ctx) (r : Reg) (b : Bool) : (x.setLock r b).tbudget = x.tbudget := by unfold Ctx.setLock; split <;> rfl
@[simp] theorem setLock_prio (x : Ctx) (r : Reg) (b : Bool) : (x.setLock r b).prio = x.prio := by unfold Ctx.setLock; split <;> rfl
@[simp] theorem setLock_realm (x : Ctx) (r : Reg) (b : Bool) : (x.setLock r b).realm = x.realm := by unfold Ctx.setLock; split <;> rfl
@[simp] theorem setLock_tinfo (x : Ctx) (r : Reg) (b : Bool) : (x.setLock r b).tinfo = x.tinfo := by unfold Ctx.setLock; split <;> rfl
@[simp] theorem setLock_walkid (x : Ctx) (r : Reg) (b : Bool) : (x.setLock r b).walkid = x.walkid := by unfold Ctx.setLock; split <;> rfl
@[simp] theorem setLock_nodeid (x : Ctx) (r : Reg) (b : Bool) : (x.setLock r b).nodeid = x.nodeid := by unfold Ctx.setLock; split <;> rfl
@[simp] theorem setLock_launch (x : Ctx) (r : Reg) (b : Bool) : (x.setLock r b).launch = x.launch := by unfold Ctx.setLock; split <;> rfl
@[simp] theorem setLock_instret (x : Ctx) (r : Reg) (b : Bool) : (x.setLock r b).instret = x.instret := by unfold Ctx.setLock; split <;> rfl
@[simp] theorem setLock_barMember (x : Ctx) (r : Reg) (b : Bool) : (x.setLock r b).barMember = x.barMember := by unfold Ctx.setLock; split <;> rfl
@[simp] theorem setLock_barArr (x : Ctx) (r : Reg) (b : Bool) : (x.setLock r b).barArr = x.barArr := by unfold Ctx.setLock; split <;> rfl
@[simp] theorem setLock_cseq (x : Ctx) (r : Reg) (b : Bool) : (x.setLock r b).cseq = x.cseq := by unfold Ctx.setLock; split <;> rfl
@[simp] theorem setLock_batches (x : Ctx) (r : Reg) (b : Bool) : (x.setLock r b).batches = x.batches := by unfold Ctx.setLock; split <;> rfl
@[simp] theorem setLock_openN (x : Ctx) (r : Reg) (b : Bool) : (x.setLock r b).openN = x.openN := by unfold Ctx.setLock; split <;> rfl
@[simp] theorem setLock_openFault (x : Ctx) (r : Reg) (b : Bool) : (x.setLock r b).openFault = x.openFault := by unfold Ctx.setLock; split <;> rfl
@[simp] theorem setLock_copyFaulted (x : Ctx) (r : Reg) (b : Bool) : (x.setLock r b).copyFaulted = x.copyFaulted := by unfold Ctx.setLock; split <;> rfl
@[simp] theorem setLock_pulse (x : Ctx) (r : Reg) (b : Bool) : (x.setLock r b).pulse = x.pulse := by unfold Ctx.setLock; split <;> rfl
@[simp] theorem setLock_obs (x : Ctx) (r : Reg) (b : Bool) : (x.setLock r b).obs = x.obs := by unfold Ctx.setLock; split <;> rfl
@[simp] theorem setLock_wait (x : Ctx) (r : Reg) (b : Bool) : (x.setLock r b).wait = x.wait := by unfold Ctx.setLock; split <;> rfl
@[simp] theorem setLock_pauseLeft (x : Ctx) (r : Reg) (b : Bool) : (x.setLock r b).pauseLeft = x.pauseLeft := by unfold Ctx.setLock; split <;> rfl
@[simp] theorem setLock_barAwait (x : Ctx) (r : Reg) (b : Bool) : (x.setLock r b).barAwait = x.barAwait := by unfold Ctx.setLock; split <;> rfl
@[simp] theorem setLock_barResume (x : Ctx) (r : Reg) (b : Bool) : (x.setLock r b).barResume = x.barResume := by unfold Ctx.setLock; split <;> rfl
@[simp] theorem setLock_joining (x : Ctx) (r : Reg) (b : Bool) : (x.setLock r b).joining = x.joining := by unfold Ctx.setLock; split <;> rfl
@[simp] theorem setLock_releasing (x : Ctx) (r : Reg) (b : Bool) : (x.setLock r b).releasing = x.releasing := by unfold Ctx.setLock; split <;> rfl
@[simp] theorem setLock_frozen (x : Ctx) (r : Reg) (b : Bool) : (x.setLock r b).frozen = x.frozen := by unfold Ctx.setLock; split <;> rfl
@[simp] theorem setLock_bypass (x : Ctx) (r : Reg) (b : Bool) : (x.setLock r b).bypass = x.bypass := by unfold Ctx.setLock; split <;> rfl
@[simp] theorem setLock_graphTrap (x : Ctx) (r : Reg) (b : Bool) : (x.setLock r b).graphTrap = x.graphTrap := by unfold Ctx.setLock; split <;> rfl
@[simp] theorem setLock_wskip (x : Ctx) (r : Reg) (b : Bool) : (x.setLock r b).wskip = x.wskip := by unfold Ctx.setLock; split <;> rfl
@[simp] theorem setLock_await (x : Ctx) (r : Reg) (b : Bool) : (x.setLock r b).await = x.await := by unfold Ctx.setLock; split <;> rfl
@[simp] theorem setLock_answer (x : Ctx) (r : Reg) (b : Bool) : (x.setLock r b).answer = x.answer := by unfold Ctx.setLock; split <;> rfl
@[simp] theorem setLock_answerErr (x : Ctx) (r : Reg) (b : Bool) : (x.setLock r b).answerErr = x.answerErr := by unfold Ctx.setLock; split <;> rfl
@[simp] theorem setLock_sending (x : Ctx) (r : Reg) (b : Bool) : (x.setLock r b).sending = x.sending := by unfold Ctx.setLock; split <;> rfl
@[simp] theorem setLock_stalled (x : Ctx) (r : Reg) (b : Bool) : (x.setLock r b).stalled = x.stalled := by unfold Ctx.setLock; split <;> rfl

/-! ### Ctx.advance, Ctx.jump, Ctx.raiseFlags -/

@[simp] theorem advance_occupied (x : Ctx) : x.advance.occupied = x.occupied := rfl
@[simp] theorem advance_freed (x : Ctx) : x.advance.freed = x.freed := rfl
@[simp] theorem advance_qver (x : Ctx) : x.advance.qver = x.qver := rfl
@[simp] theorem advance_gen (x : Ctx) : x.advance.gen = x.gen := rfl
@[simp] theorem advance_g (x : Ctx) : x.advance.g = x.g := rfl
@[simp] theorem advance_gpsn (x : Ctx) : x.advance.gpsn = x.gpsn := rfl
@[simp] theorem advance_lock (x : Ctx) : x.advance.lock = x.lock := rfl
@[simp] theorem advance_pc (x : Ctx) : x.advance.pc = x.pc + 4 := rfl
@[simp] theorem advance_fflags (x : Ctx) : x.advance.fflags = x.fflags := rfl
@[simp] theorem advance_frm (x : Ctx) : x.advance.frm = x.frm := rfl
@[simp] theorem advance_waitlim (x : Ctx) : x.advance.waitlim = x.waitlim := rfl
@[simp] theorem advance_tbudget (x : Ctx) : x.advance.tbudget = x.tbudget := rfl
@[simp] theorem advance_prio (x : Ctx) : x.advance.prio = x.prio := rfl
@[simp] theorem advance_realm (x : Ctx) : x.advance.realm = x.realm := rfl
@[simp] theorem advance_tinfo (x : Ctx) : x.advance.tinfo = x.tinfo := rfl
@[simp] theorem advance_walkid (x : Ctx) : x.advance.walkid = x.walkid := rfl
@[simp] theorem advance_nodeid (x : Ctx) : x.advance.nodeid = x.nodeid := rfl
@[simp] theorem advance_launch (x : Ctx) : x.advance.launch = x.launch := rfl
@[simp] theorem advance_instret (x : Ctx) : x.advance.instret = x.instret + 1 := rfl
@[simp] theorem advance_barMember (x : Ctx) : x.advance.barMember = x.barMember := rfl
@[simp] theorem advance_barArr (x : Ctx) : x.advance.barArr = x.barArr := rfl
@[simp] theorem advance_cseq (x : Ctx) : x.advance.cseq = x.cseq := rfl
@[simp] theorem advance_batches (x : Ctx) : x.advance.batches = x.batches := rfl
@[simp] theorem advance_openN (x : Ctx) : x.advance.openN = x.openN := rfl
@[simp] theorem advance_openFault (x : Ctx) : x.advance.openFault = x.openFault := rfl
@[simp] theorem advance_copyFaulted (x : Ctx) : x.advance.copyFaulted = x.copyFaulted := rfl
@[simp] theorem advance_pulse (x : Ctx) : x.advance.pulse = x.pulse := rfl
@[simp] theorem advance_obs (x : Ctx) : x.advance.obs = x.obs := rfl
@[simp] theorem advance_wait (x : Ctx) : x.advance.wait = none := rfl
@[simp] theorem advance_pauseLeft (x : Ctx) : x.advance.pauseLeft = x.pauseLeft := rfl
@[simp] theorem advance_barAwait (x : Ctx) : x.advance.barAwait = none := rfl
@[simp] theorem advance_barResume (x : Ctx) : x.advance.barResume = false := rfl
@[simp] theorem advance_joining (x : Ctx) : x.advance.joining = false := rfl
@[simp] theorem advance_releasing (x : Ctx) : x.advance.releasing = none := rfl
@[simp] theorem advance_frozen (x : Ctx) : x.advance.frozen = x.frozen := rfl
@[simp] theorem advance_bypass (x : Ctx) : x.advance.bypass = x.bypass := rfl
@[simp] theorem advance_graphTrap (x : Ctx) : x.advance.graphTrap = x.graphTrap := rfl
@[simp] theorem advance_wskip (x : Ctx) : x.advance.wskip = false := rfl
@[simp] theorem advance_await (x : Ctx) : x.advance.await = none := rfl
@[simp] theorem advance_answer (x : Ctx) : x.advance.answer = none := rfl
@[simp] theorem advance_answerErr (x : Ctx) : x.advance.answerErr = none := rfl
@[simp] theorem advance_sending (x : Ctx) : x.advance.sending = x.sending := rfl
@[simp] theorem advance_stalled (x : Ctx) : x.advance.stalled = false := rfl

@[simp] theorem jump_occupied (x : Ctx) (t : Word) : (x.jump t).occupied = x.occupied := rfl
@[simp] theorem jump_freed (x : Ctx) (t : Word) : (x.jump t).freed = x.freed := rfl
@[simp] theorem jump_qver (x : Ctx) (t : Word) : (x.jump t).qver = x.qver := rfl
@[simp] theorem jump_gen (x : Ctx) (t : Word) : (x.jump t).gen = x.gen := rfl
@[simp] theorem jump_g (x : Ctx) (t : Word) : (x.jump t).g = x.g := rfl
@[simp] theorem jump_gpsn (x : Ctx) (t : Word) : (x.jump t).gpsn = x.gpsn := rfl
@[simp] theorem jump_lock (x : Ctx) (t : Word) : (x.jump t).lock = x.lock := rfl
@[simp] theorem jump_pc (x : Ctx) (t : Word) : (x.jump t).pc = t := rfl
@[simp] theorem jump_fflags (x : Ctx) (t : Word) : (x.jump t).fflags = x.fflags := rfl
@[simp] theorem jump_frm (x : Ctx) (t : Word) : (x.jump t).frm = x.frm := rfl
@[simp] theorem jump_waitlim (x : Ctx) (t : Word) : (x.jump t).waitlim = x.waitlim := rfl
@[simp] theorem jump_tbudget (x : Ctx) (t : Word) : (x.jump t).tbudget = x.tbudget := rfl
@[simp] theorem jump_prio (x : Ctx) (t : Word) : (x.jump t).prio = x.prio := rfl
@[simp] theorem jump_realm (x : Ctx) (t : Word) : (x.jump t).realm = x.realm := rfl
@[simp] theorem jump_tinfo (x : Ctx) (t : Word) : (x.jump t).tinfo = x.tinfo := rfl
@[simp] theorem jump_walkid (x : Ctx) (t : Word) : (x.jump t).walkid = x.walkid := rfl
@[simp] theorem jump_nodeid (x : Ctx) (t : Word) : (x.jump t).nodeid = x.nodeid := rfl
@[simp] theorem jump_launch (x : Ctx) (t : Word) : (x.jump t).launch = x.launch := rfl
@[simp] theorem jump_instret (x : Ctx) (t : Word) : (x.jump t).instret = x.instret + 1 := rfl
@[simp] theorem jump_barMember (x : Ctx) (t : Word) : (x.jump t).barMember = x.barMember := rfl
@[simp] theorem jump_barArr (x : Ctx) (t : Word) : (x.jump t).barArr = x.barArr := rfl
@[simp] theorem jump_cseq (x : Ctx) (t : Word) : (x.jump t).cseq = x.cseq := rfl
@[simp] theorem jump_batches (x : Ctx) (t : Word) : (x.jump t).batches = x.batches := rfl
@[simp] theorem jump_openN (x : Ctx) (t : Word) : (x.jump t).openN = x.openN := rfl
@[simp] theorem jump_openFault (x : Ctx) (t : Word) : (x.jump t).openFault = x.openFault := rfl
@[simp] theorem jump_copyFaulted (x : Ctx) (t : Word) : (x.jump t).copyFaulted = x.copyFaulted := rfl
@[simp] theorem jump_pulse (x : Ctx) (t : Word) : (x.jump t).pulse = x.pulse := rfl
@[simp] theorem jump_obs (x : Ctx) (t : Word) : (x.jump t).obs = x.obs := rfl
@[simp] theorem jump_wait (x : Ctx) (t : Word) : (x.jump t).wait = none := rfl
@[simp] theorem jump_pauseLeft (x : Ctx) (t : Word) : (x.jump t).pauseLeft = x.pauseLeft := rfl
@[simp] theorem jump_barAwait (x : Ctx) (t : Word) : (x.jump t).barAwait = none := rfl
@[simp] theorem jump_barResume (x : Ctx) (t : Word) : (x.jump t).barResume = false := rfl
@[simp] theorem jump_joining (x : Ctx) (t : Word) : (x.jump t).joining = false := rfl
@[simp] theorem jump_releasing (x : Ctx) (t : Word) : (x.jump t).releasing = none := rfl
@[simp] theorem jump_frozen (x : Ctx) (t : Word) : (x.jump t).frozen = x.frozen := rfl
@[simp] theorem jump_bypass (x : Ctx) (t : Word) : (x.jump t).bypass = x.bypass := rfl
@[simp] theorem jump_graphTrap (x : Ctx) (t : Word) : (x.jump t).graphTrap = x.graphTrap := rfl
@[simp] theorem jump_wskip (x : Ctx) (t : Word) : (x.jump t).wskip = false := rfl
@[simp] theorem jump_await (x : Ctx) (t : Word) : (x.jump t).await = none := rfl
@[simp] theorem jump_answer (x : Ctx) (t : Word) : (x.jump t).answer = none := rfl
@[simp] theorem jump_answerErr (x : Ctx) (t : Word) : (x.jump t).answerErr = none := rfl
@[simp] theorem jump_sending (x : Ctx) (t : Word) : (x.jump t).sending = x.sending := rfl
@[simp] theorem jump_stalled (x : Ctx) (t : Word) : (x.jump t).stalled = false := rfl

@[simp] theorem raiseFlags_occupied (x : Ctx) (fl : BitVec 5) : (x.raiseFlags fl).occupied = x.occupied := rfl
@[simp] theorem raiseFlags_freed (x : Ctx) (fl : BitVec 5) : (x.raiseFlags fl).freed = x.freed := rfl
@[simp] theorem raiseFlags_qver (x : Ctx) (fl : BitVec 5) : (x.raiseFlags fl).qver = x.qver := rfl
@[simp] theorem raiseFlags_gen (x : Ctx) (fl : BitVec 5) : (x.raiseFlags fl).gen = x.gen := rfl
@[simp] theorem raiseFlags_g (x : Ctx) (fl : BitVec 5) : (x.raiseFlags fl).g = x.g := rfl
@[simp] theorem raiseFlags_gpsn (x : Ctx) (fl : BitVec 5) : (x.raiseFlags fl).gpsn = x.gpsn := rfl
@[simp] theorem raiseFlags_lock (x : Ctx) (fl : BitVec 5) : (x.raiseFlags fl).lock = x.lock := rfl
@[simp] theorem raiseFlags_pc (x : Ctx) (fl : BitVec 5) : (x.raiseFlags fl).pc = x.pc := rfl
@[simp] theorem raiseFlags_fflags (x : Ctx) (fl : BitVec 5) : (x.raiseFlags fl).fflags = x.fflags ||| fl := rfl
@[simp] theorem raiseFlags_frm (x : Ctx) (fl : BitVec 5) : (x.raiseFlags fl).frm = x.frm := rfl
@[simp] theorem raiseFlags_waitlim (x : Ctx) (fl : BitVec 5) : (x.raiseFlags fl).waitlim = x.waitlim := rfl
@[simp] theorem raiseFlags_tbudget (x : Ctx) (fl : BitVec 5) : (x.raiseFlags fl).tbudget = x.tbudget := rfl
@[simp] theorem raiseFlags_prio (x : Ctx) (fl : BitVec 5) : (x.raiseFlags fl).prio = x.prio := rfl
@[simp] theorem raiseFlags_realm (x : Ctx) (fl : BitVec 5) : (x.raiseFlags fl).realm = x.realm := rfl
@[simp] theorem raiseFlags_tinfo (x : Ctx) (fl : BitVec 5) : (x.raiseFlags fl).tinfo = x.tinfo := rfl
@[simp] theorem raiseFlags_walkid (x : Ctx) (fl : BitVec 5) : (x.raiseFlags fl).walkid = x.walkid := rfl
@[simp] theorem raiseFlags_nodeid (x : Ctx) (fl : BitVec 5) : (x.raiseFlags fl).nodeid = x.nodeid := rfl
@[simp] theorem raiseFlags_launch (x : Ctx) (fl : BitVec 5) : (x.raiseFlags fl).launch = x.launch := rfl
@[simp] theorem raiseFlags_instret (x : Ctx) (fl : BitVec 5) : (x.raiseFlags fl).instret = x.instret := rfl
@[simp] theorem raiseFlags_barMember (x : Ctx) (fl : BitVec 5) : (x.raiseFlags fl).barMember = x.barMember := rfl
@[simp] theorem raiseFlags_barArr (x : Ctx) (fl : BitVec 5) : (x.raiseFlags fl).barArr = x.barArr := rfl
@[simp] theorem raiseFlags_cseq (x : Ctx) (fl : BitVec 5) : (x.raiseFlags fl).cseq = x.cseq := rfl
@[simp] theorem raiseFlags_batches (x : Ctx) (fl : BitVec 5) : (x.raiseFlags fl).batches = x.batches := rfl
@[simp] theorem raiseFlags_openN (x : Ctx) (fl : BitVec 5) : (x.raiseFlags fl).openN = x.openN := rfl
@[simp] theorem raiseFlags_openFault (x : Ctx) (fl : BitVec 5) : (x.raiseFlags fl).openFault = x.openFault := rfl
@[simp] theorem raiseFlags_copyFaulted (x : Ctx) (fl : BitVec 5) : (x.raiseFlags fl).copyFaulted = x.copyFaulted := rfl
@[simp] theorem raiseFlags_pulse (x : Ctx) (fl : BitVec 5) : (x.raiseFlags fl).pulse = x.pulse := rfl
@[simp] theorem raiseFlags_obs (x : Ctx) (fl : BitVec 5) : (x.raiseFlags fl).obs = x.obs := rfl
@[simp] theorem raiseFlags_wait (x : Ctx) (fl : BitVec 5) : (x.raiseFlags fl).wait = x.wait := rfl
@[simp] theorem raiseFlags_pauseLeft (x : Ctx) (fl : BitVec 5) : (x.raiseFlags fl).pauseLeft = x.pauseLeft := rfl
@[simp] theorem raiseFlags_barAwait (x : Ctx) (fl : BitVec 5) : (x.raiseFlags fl).barAwait = x.barAwait := rfl
@[simp] theorem raiseFlags_barResume (x : Ctx) (fl : BitVec 5) : (x.raiseFlags fl).barResume = x.barResume := rfl
@[simp] theorem raiseFlags_joining (x : Ctx) (fl : BitVec 5) : (x.raiseFlags fl).joining = x.joining := rfl
@[simp] theorem raiseFlags_releasing (x : Ctx) (fl : BitVec 5) : (x.raiseFlags fl).releasing = x.releasing := rfl
@[simp] theorem raiseFlags_frozen (x : Ctx) (fl : BitVec 5) : (x.raiseFlags fl).frozen = x.frozen := rfl
@[simp] theorem raiseFlags_bypass (x : Ctx) (fl : BitVec 5) : (x.raiseFlags fl).bypass = x.bypass := rfl
@[simp] theorem raiseFlags_graphTrap (x : Ctx) (fl : BitVec 5) : (x.raiseFlags fl).graphTrap = x.graphTrap := rfl
@[simp] theorem raiseFlags_wskip (x : Ctx) (fl : BitVec 5) : (x.raiseFlags fl).wskip = x.wskip := rfl
@[simp] theorem raiseFlags_await (x : Ctx) (fl : BitVec 5) : (x.raiseFlags fl).await = x.await := rfl
@[simp] theorem raiseFlags_answer (x : Ctx) (fl : BitVec 5) : (x.raiseFlags fl).answer = x.answer := rfl
@[simp] theorem raiseFlags_answerErr (x : Ctx) (fl : BitVec 5) : (x.raiseFlags fl).answerErr = x.answerErr := rfl
@[simp] theorem raiseFlags_sending (x : Ctx) (fl : BitVec 5) : (x.raiseFlags fl).sending = x.sending := rfl
@[simp] theorem raiseFlags_stalled (x : Ctx) (fl : BitVec 5) : (x.raiseFlags fl).stalled = x.stalled := rfl

/-! ### Core.modCtx -/

@[simp] theorem core_modCtx_classes (x : Core) (k : Nat) (f : Ctx → Ctx) : (x.modCtx k f).classes = x.classes := rfl
@[simp] theorem core_modCtx_sptop (x : Core) (k : Nat) (f : Ctx → Ctx) : (x.modCtx k f).sptop = x.sptop := rfl
@[simp] theorem core_modCtx_droplogCount (x : Core) (k : Nat) (f : Ctx → Ctx) : (x.modCtx k f).droplogCount = x.droplogCount := rfl
@[simp] theorem core_modCtx_droplogBase (x : Core) (k : Nat) (f : Ctx → Ctx) : (x.modCtx k f).droplogBase = x.droplogBase := rfl
@[simp] theorem core_modCtx_discards (x : Core) (k : Nat) (f : Ctx → Ctx) : (x.modCtx k f).discards = x.discards := rfl
@[simp] theorem core_modCtx_writes (x : Core) (k : Nat) (f : Ctx → Ctx) : (x.modCtx k f).writes = x.writes := rfl
@[simp] theorem core_modCtx_orphans (x : Core) (k : Nat) (f : Ctx → Ctx) : (x.modCtx k f).orphans = x.orphans := rfl
@[simp] theorem core_modCtx_arrivals (x : Core) (k : Nat) (f : Ctx → Ctx) : (x.modCtx k f).arrivals = x.arrivals := rfl
@[simp] theorem core_modCtx_vc4buf (x : Core) (k : Nat) (f : Ctx → Ctx) : (x.modCtx k f).vc4buf = x.vc4buf := rfl
@[simp] theorem core_modCtx_retry (x : Core) (k : Nat) (f : Ctx → Ctx) : (x.modCtx k f).retry = x.retry := rfl
@[simp] theorem core_modCtx_retryOrder (x : Core) (k : Nat) (f : Ctx → Ctx) : (x.modCtx k f).retryOrder = x.retryOrder := rfl
@[simp] theorem core_modCtx_refusals (x : Core) (k : Nat) (f : Ctx → Ctx) : (x.modCtx k f).refusals = x.refusals := rfl
@[simp] theorem core_modCtx_refusalOverflow (x : Core) (k : Nat) (f : Ctx → Ctx) : (x.modCtx k f).refusalOverflow = x.refusalOverflow := rfl
@[simp] theorem core_modCtx_starts (x : Core) (k : Nat) (f : Ctx → Ctx) : (x.modCtx k f).starts = x.starts := rfl
@[simp] theorem core_modCtx_incoming (x : Core) (k : Nat) (f : Ctx → Ctx) : (x.modCtx k f).incoming = x.incoming := rfl
@[simp] theorem core_modCtx_trap (x : Core) (k : Nat) (f : Ctx → Ctx) : (x.modCtx k f).trap = x.trap := rfl
@[simp] theorem core_modCtx_watchq (x : Core) (k : Nat) (f : Ctx → Ctx) : (x.modCtx k f).watchq = x.watchq := rfl
@[simp] theorem core_modCtx_errCount (x : Core) (k : Nat) (f : Ctx → Ctx) : (x.modCtx k f).errCount = x.errCount := rfl
@[simp] theorem core_modCtx_errLogn (x : Core) (k : Nat) (f : Ctx → Ctx) : (x.modCtx k f).errLogn = x.errLogn := rfl
@[simp] theorem core_modCtx_errBase (x : Core) (k : Nat) (f : Ctx → Ctx) : (x.modCtx k f).errBase = x.errBase := rfl
@[simp] theorem core_modCtx_errEn (x : Core) (k : Nat) (f : Ctx → Ctx) : (x.modCtx k f).errEn = x.errEn := rfl
@[simp] theorem core_modCtx_engine (x : Core) (k : Nat) (f : Ctx → Ctx) : (x.modCtx k f).engine = x.engine := rfl
@[simp] theorem core_modCtx_watch (x : Core) (k : Nat) (f : Ctx → Ctx) : (x.modCtx k f).watch = x.watch := rfl
@[simp] theorem core_modCtx_sramWatch (x : Core) (k : Nat) (f : Ctx → Ctx) : (x.modCtx k f).sramWatch = x.sramWatch := rfl
@[simp] theorem core_modCtx_rr (x : Core) (k : Nat) (f : Ctx → Ctx) : (x.modCtx k f).rr = x.rr := rfl
@[simp] theorem core_modCtx_halted (x : Core) (k : Nat) (f : Ctx → Ctx) : (x.modCtx k f).halted = x.halted := rfl
@[simp] theorem core_modCtx_microTlb (x : Core) (k : Nat) (f : Ctx → Ctx) : (x.modCtx k f).microTlb = x.microTlb := rfl
@[simp] theorem core_modCtx_stopped (x : Core) (k : Nat) (f : Ctx → Ctx) : (x.modCtx k f).stopped = x.stopped := rfl
@[simp] theorem core_modCtx_parked (x : Core) (k : Nat) (f : Ctx → Ctx) : (x.modCtx k f).parked = x.parked := rfl

/-! ### Units after an update -/

theorem core_modCore (s : State) (c d : Nat) (f : Core → Core) :
    (s.modCore c f).core d = if d = c then f (s.core c) else s.core d := by
  unfold State.modCore State.core
  by_cases h : d = c
  · subst h; simp
  · simp [fget_fset_other _ _ _ _ h, h]

@[simp] theorem core_modCore_same (s : State) (c : Nat) (f : Core → Core) : (s.modCore c f).core c = f (s.core c) := by
  simp [core_modCore]

theorem core_ctx_modCtx (x : Core) (k j : Nat) (f : Ctx → Ctx) :
    (x.modCtx k f).ctx j = if j = k then f (x.ctx k) else x.ctx j := by
  simp [Core.modCtx, Core.ctx, fget_fset]

@[simp] theorem core_ctx_modCtx_same (x : Core) (k : Nat) (f : Ctx → Ctx) : (x.modCtx k f).ctx k = f (x.ctx k) := by
  simp [core_ctx_modCtx]

theorem ctxAt_modCtxAt (s : State) (c k d j : Nat) (f : Ctx → Ctx) :
    (s.modCtxAt c k f).ctxAt d j = if d = c ∧ j = k then f (s.ctxAt c k) else s.ctxAt d j := by
  unfold State.modCtxAt State.ctxAt
  rw [core_modCore]
  by_cases h : d = c
  · subst h; simp [core_ctx_modCtx]
  · simp [h]

@[simp] theorem ctxAt_modCtxAt_same (s : State) (c k : Nat) (f : Ctx → Ctx) :
    (s.modCtxAt c k f).ctxAt c k = f (s.ctxAt c k) := by simp [ctxAt_modCtxAt]

theorem ctxAt_modCtx (s : State) (d j : Nat) (f : Ctx → Ctx) :
    (s.modCtx f).ctxAt d j = if (d, j) = s.cur then f s.ctx else s.ctxAt d j := by
  unfold State.modCtx State.ctx
  rw [ctxAt_modCtxAt]
  simp [Prod.ext_iff]

@[simp] theorem ctx_modCtx (s : State) (f : Ctx → Ctx) : (s.modCtx f).ctx = f s.ctx := by
  simp [State.ctx, State.modCtx]

/-- Outside its contexts a core is as before. -/
theorem core_modCtxAt_slots (s : State) (c k d : Nat) (f : Ctx → Ctx) :
    { (s.modCtxAt c k f).core d with slots := [] } = { s.core d with slots := [] } := by
  unfold State.modCtxAt
  rw [core_modCore]
  split
  · next h => subst h; rfl
  · rfl

@[simp] theorem engine_modCtxAt (s : State) (c k d : Nat) (f : Ctx → Ctx) : (s.modCtxAt c k f).engine d = s.engine d := by
  have h := congrArg (fun x : Core => x.engine) (core_modCtxAt_slots s c k d f)
  exact h

@[simp] theorem engine_modCtx (s : State) (d : Nat) (f : Ctx → Ctx) : (s.modCtx f).engine d = s.engine d :=
  engine_modCtxAt ..

theorem engine_modEngine (s : State) (c d : Nat) (f : Engine → Engine) :
    (s.modEngine c f).engine d = if d = c then f (s.engine c) else s.engine d := by
  unfold State.modEngine State.engine
  rw [core_modCore]
  split
  · next h => subst h; rfl
  · rfl

@[simp] theorem engine_modEngine_same (s : State) (c : Nat) (f : Engine → Engine) :
    (s.modEngine c f).engine c = f (s.engine c) := by simp [engine_modEngine]

@[simp] theorem ctxAt_modEngine (s : State) (c d j : Nat) (f : Engine → Engine) :
    (s.modEngine c f).ctxAt d j = s.ctxAt d j := by
  unfold State.modEngine State.ctxAt
  rw [core_modCore]
  split
  · next h => subst h; rfl
  · rfl

@[simp] theorem core_modCluster (s : State) (n d : Nat) (f : Cluster → Cluster) : (s.modCluster n f).core d = s.core d :=
  rfl

@[simp] theorem core_modMem (s : State) (d : Nat) (f : Mem → Mem) : (s.modMem f).core d = s.core d := rfl

@[simp] theorem ctxAt_modCluster (s : State) (n d j : Nat) (f : Cluster → Cluster) :
    (s.modCluster n f).ctxAt d j = s.ctxAt d j := rfl

@[simp] theorem ctxAt_modMem (s : State) (d j : Nat) (f : Mem → Mem) : (s.modMem f).ctxAt d j = s.ctxAt d j := rfl

@[simp] theorem ctx_modCluster (s : State) (n : Nat) (f : Cluster → Cluster) : (s.modCluster n f).ctx = s.ctx := rfl

@[simp] theorem ctx_modMem (s : State) (f : Mem → Mem) : (s.modMem f).ctx = s.ctx := rfl

theorem cluster_modCluster (s : State) (n m : Nat) (f : Cluster → Cluster) :
    (s.modCluster n f).cluster m = if m = n then f (s.cluster n) else s.cluster m := by
  simp [State.modCluster, State.cluster, fget_fset]

@[simp] theorem cluster_modCluster_same (s : State) (n : Nat) (f : Cluster → Cluster) :
    (s.modCluster n f).cluster n = f (s.cluster n) := by simp [cluster_modCluster]

@[simp] theorem cluster_modCtxAt (s : State) (c k n : Nat) (f : Ctx → Ctx) : (s.modCtxAt c k f).cluster n = s.cluster n :=
  rfl

@[simp] theorem cluster_modCtx (s : State) (n : Nat) (f : Ctx → Ctx) : (s.modCtx f).cluster n = s.cluster n := rfl

theorem router_modRouter (s : State) (n m : Nat) (f : Router → Router) :
    (s.modRouter n f).router m = if m = n then f (s.router n) else s.router m := by
  simp [State.modRouter, State.router, fget_fset]

theorem tag_modTag (s : State) (t u : Nat) (f : BarTag → BarTag) :
    (s.modTag t f).tag u = if u = t then f (s.tag t) else s.tag u := by
  simp [State.modTag, State.tag, fget_fset]

@[simp] theorem tag_modTag_same (s : State) (t : Nat) (f : BarTag → BarTag) : (s.modTag t f).tag t = f (s.tag t) := by
  simp [tag_modTag]

@[simp] theorem tag_modCtxAt (s : State) (c k t : Nat) (f : Ctx → Ctx) : (s.modCtxAt c k f).tag t = s.tag t := rfl

@[simp] theorem tag_modCtx (s : State) (t : Nat) (f : Ctx → Ctx) : (s.modCtx f).tag t = s.tag t := rfl

@[simp] theorem modMem_mem (s : State) (f : Mem → Mem) : (s.modMem f).mem = f s.mem := rfl

@[simp] theorem drawn_free (s : State) : s.drawn.free = s.free + 1 := rfl

/-! ### General registers and locks (R309) -/

@[simp] theorem reg_zero (x : Ctx) : x.reg 0 = 0 := rfl

@[simp] theorem psn_zero (x : Ctx) : x.psn 0 = false := rfl

@[simp] theorem locked_zero (x : Ctx) : x.locked 0 = false := rfl

theorem reg_setReg (x : Ctx) (r q : Reg) (v : Word) (p : Bool) :
    (x.setReg r v p).reg q = if q = r ∧ q ≠ 0 then v else x.reg q := by
  unfold Ctx.setReg Ctx.reg
  by_cases h0 : q = 0
  · simp [h0]
  · by_cases h : q = r
    · subst h; rw [if_neg h0, if_neg h0, if_pos ⟨rfl, h0⟩]; simp
    · have hn : q.toNat ≠ r.toNat := fun e => h (BitVec.eq_of_toNat_eq e)
      rw [if_neg h0, if_neg (fun e : q = r ∧ q ≠ 0 => h e.1), if_neg h0]
      split
      · rfl
      · exact fget_fset_other _ _ _ _ hn

theorem psn_setReg (x : Ctx) (r q : Reg) (v : Word) (p : Bool) :
    (x.setReg r v p).psn q = if q = r ∧ q ≠ 0 then p else x.psn q := by
  unfold Ctx.setReg Ctx.psn
  by_cases h0 : q = 0
  · simp [h0]
  · by_cases h : q = r
    · subst h; rw [if_neg h0, if_neg h0, if_pos ⟨rfl, h0⟩]; simp
    · have hn : q.toNat ≠ r.toNat := fun e => h (BitVec.eq_of_toNat_eq e)
      rw [if_neg h0, if_neg (fun e : q = r ∧ q ≠ 0 => h e.1), if_neg h0]
      split
      · rfl
      · exact fget_fset_other _ _ _ _ hn

theorem locked_setLock (x : Ctx) (r q : Reg) (b : Bool) :
    (x.setLock r b).locked q = if q = r ∧ q ≠ 0 then b else x.locked q := by
  unfold Ctx.setLock Ctx.locked
  by_cases h0 : q = 0
  · simp [h0]
  · by_cases h : q = r
    · subst h; rw [if_neg h0, if_neg h0, if_pos ⟨rfl, h0⟩]; simp
    · have hn : q.toNat ≠ r.toNat := fun e => h (BitVec.eq_of_toNat_eq e)
      rw [if_neg h0, if_neg (fun e : q = r ∧ q ≠ 0 => h e.1), if_neg h0]
      split
      · rfl
      · exact fget_fset_other _ _ _ _ hn

@[simp] theorem reg_setLock (x : Ctx) (r q : Reg) (b : Bool) : (x.setLock r b).reg q = x.reg q := by simp [Ctx.reg]

@[simp] theorem psn_setLock (x : Ctx) (r q : Reg) (b : Bool) : (x.setLock r b).psn q = x.psn q := by simp [Ctx.psn]

@[simp] theorem locked_setReg (x : Ctx) (r q : Reg) (v : Word) (p : Bool) : (x.setReg r v p).locked q = x.locked q := by
  simp [Ctx.locked]

@[simp] theorem reg_advance (x : Ctx) (q : Reg) : x.advance.reg q = x.reg q := rfl

@[simp] theorem psn_advance (x : Ctx) (q : Reg) : x.advance.psn q = x.psn q := rfl

@[simp] theorem locked_advance (x : Ctx) (q : Reg) : x.advance.locked q = x.locked q := rfl

@[simp] theorem reg_jump (x : Ctx) (t : Word) (q : Reg) : (x.jump t).reg q = x.reg q := rfl

@[simp] theorem psn_jump (x : Ctx) (t : Word) (q : Reg) : (x.jump t).psn q = x.psn q := rfl

@[simp] theorem locked_jump (x : Ctx) (t : Word) (q : Reg) : (x.jump t).locked q = x.locked q := rfl

end Sys2Proof.Machine
end

