-- ==== Sys2Proof/Laws/Ops.lean ====
section
/-!
SUPPORT. One lemma for each shared operation of the meanings: what it answers, and what it leaves as it is.
-/

namespace Sys2Proof.Machine

/-! ### Frames -/

theorem OnlyContextsOf.refl (c : Nat) (s : State) : OnlyContextsOf c s s := ⟨rfl, rfl, fun _ _ => rfl⟩

theorem OnlyContext.refl (c k : Nat) (s : State) : OnlyContext c k s s := ⟨.refl c s, fun _ _ => rfl⟩

theorem onlyContext_modCtxAt (s : State) (c k : Nat) (f : Ctx → Ctx) : OnlyContext c k s (s.modCtxAt c k f) where
  package := rfl
  core := core_modCtxAt_slots s c k c f
  others d hd := by simp [State.modCtxAt, core_modCore, hd]
  slots j hj := by simp [ctxAt_modCtxAt, hj]

theorem alone_modCtx (s : State) (f : Ctx → Ctx) : Alone s (s.modCtx f) := onlyContext_modCtxAt ..

/-- A change of one context alone leaves every byte of memory. -/
theorem OnlyContextsOf.mem {c : Nat} {s t : State} (h : OnlyContextsOf c s t) : t.mem = s.mem := by
  have := congrArg (fun x : State => x.mem) h.package
  exact this

/-! ### Locks and stalls -/

/-- With no lock in its way an instruction runs. -/
theorem unlessLocked_run {w r : List Reg} {s : State} (h : Unlocked s w r) (f : State → Result) :
    unlessLocked w r f s = f s := by simp [unlessLocked, h.locks, h.sources]

/-- A locked register stalls its instruction. -/
theorem unlessLocked_stall {w r : List Reg} {s : State} (h : s.ctx.anyLocked (w ++ r) = true) (f : State → Result) :
    unlessLocked w r f s = stall s := by simp [unlessLocked, h]

/-! ### Completion -/

theorem completes_advance (x y : Ctx) (h : y.pc = x.pc) (hi : y.instret = x.instret) :
    Completes x y.advance (x.pc + 4) := by constructor <;> simp [h, hi]

theorem completes_jump (x y : Ctx) (t : Word) (hi : y.instret = x.instret) : Completes x (y.jump t) t := by
  constructor <;> simp [hi]

@[simp] theorem base_advance (x : Ctx) : x.advance.base = x.base := rfl

@[simp] theorem base_jump (x : Ctx) (t : Word) : (x.jump t).base = x.base := rfl

@[simp] theorem base_setReg (x : Ctx) (d : Reg) (v : Word) (p : Bool) : (x.setReg d v p).base = x.base := by
  unfold Ctx.setReg; split <;> rfl

theorem writesReg_setReg (x : Ctx) (d : Reg) (v : Word) (p : Bool) : WritesReg x (x.setReg d v p) d v p :=
  fun _ => ⟨reg_setReg .., psn_setReg ..⟩

/-- A register read only where it is not g0 does not distinguish two values that agree there. -/
theorem WritesReg.congr {x y : Ctx} {d : Reg} {v w : Word} {p q : Bool} (h : WritesReg x y d v p) (hv : v = w)
    (hp : p = q) : WritesReg x y d w q := hv ▸ hp ▸ h

/-! ### Taking a trap (R271) -/

/-- A trap is always a next state. -/
theorem trap_next (c : Cause) (v x : Word) (s : State) : trap c v x s = .next (trapState c v x s) := rfl

end Sys2Proof.Machine
end

