-- ==== Sys2Proof/Laws/Access.lean ====
section
/-!
SUPPORT. The shared operations of the forms that reach memory: each lemma says what the operation answers in one of its
cases, and the cases of one operation together are all of them.
-/

namespace Sys2Proof.Machine

/-! ### The checks of a scalar access (Table 7-3) -/

/-- A place that passes the checks is accessed. -/
theorem withPlaceAt_run {va wva : Word} {size wn : Nat} {need : Need} {aligned : Bool} {s : State} {p : Place}
    (h : resolve s s.agent va size need aligned false = .ok p) (ha : s.answered = none) (hb : p.userBarred s.isSuper = false)
    (hw : watchOf s need wva wn = none) (f : Place → State → Result) :
    withPlaceAt va size need aligned wva wn f s = f p s := by simp [withPlaceAt, ha, h, hb, hw]

/-- An access that another package has answered goes on at the place where it was made (R175). -/
theorem withPlaceAt_answered {va wva : Word} {size wn : Nat} {need : Need} {aligned : Bool} {s : State} {p : Place}
    (h : s.answered = some p) (f : Place → State → Result) : withPlaceAt va size need aligned wva wn f s = f p s := by
  simp [withPlaceAt, h]

/-- An address that fails a check raises its trap, TVAL the address (R168). -/
theorem withPlaceAt_trap {va wva : Word} {size wn : Nat} {need : Need} {aligned : Bool} {s : State} {c : Cause}
    (h : resolve s s.agent va size need aligned false = .bad c) (ha : s.answered = none) (f : Place → State → Result) :
    withPlaceAt va size need aligned wva wn f s = trap c va 0 s := by simp [withPlaceAt, ha, h]

/-- A page that no TLB holds starts a walk, and the instruction stalls (R185). -/
theorem withPlaceAt_miss {va wva : Word} {size wn : Nat} {need : Need} {aligned : Bool} {s : State}
    (h : resolve s s.agent va size need aligned false = .miss) (ha : s.answered = none) (f : Place → State → Result) :
    withPlaceAt va size need aligned wva wn f s = stall (postWalk s s.cur.1 s.cur.2 va) := by simp [withPlaceAt, ha, h]

/-- A switching bank stalls the instruction (R178). -/
theorem withPlaceAt_busy {va wva : Word} {size wn : Nat} {need : Need} {aligned : Bool} {s : State}
    (h : resolve s s.agent va size need aligned false = .busy) (ha : s.answered = none) (f : Place → State → Result) :
    withPlaceAt va size need aligned wva wn f s = stall s := by simp [withPlaceAt, ha, h]

/-- A supervisor's device register raises PRIV in a user context (R4). -/
theorem withPlaceAt_priv {va wva : Word} {size wn : Nat} {need : Need} {aligned : Bool} {s : State} {p : Place}
    (h : resolve s s.agent va size need aligned false = .ok p) (ha : s.answered = none) (hb : p.userBarred s.isSuper = true)
    (f : Place → State → Result) :
    withPlaceAt va size need aligned wva wn f s = trap .priv (issuedWord s) 0 s := by simp [withPlaceAt, ha, h, hb]

/-- A core watchpoint raises WATCH before any effect, TCTX its number and the kind of access (R288). -/
theorem withPlaceAt_watch {va wva : Word} {size wn : Nat} {need : Need} {aligned : Bool} {s : State} {p : Place}
    {w k : Nat} (h : resolve s s.agent va size need aligned false = .ok p) (ha : s.answered = none)
    (hb : p.userBarred s.isSuper = false)
    (hw : watchOf s need wva wn = some (w, k)) (f : Place → State → Result) :
    withPlaceAt va size need aligned wva wn f s = trap .watch wva (BitVec.ofNat 64 (w + 4 * k)) s := by
  simp [withPlaceAt, ha, h, hb, hw]

/-- With a clean address register the access goes on to its place. -/
theorem withAddr_clean {a : Reg} {s : State} (h : s.ctx.psn a = false) (va : Word) (size : Nat) (need : Need)
    (aligned : Bool) (f : Place → State → Result) :
    withAddr a va size need aligned f s = withPlace va size need aligned f s := by simp [withAddr, h]

/-- A poisoned address register raises POISON with consumer kind 1 (R277). -/
theorem withAddr_poison {a : Reg} {s : State} (h : s.ctx.psn a = true) (va : Word) (size : Nat) (need : Need)
    (aligned : Bool) (f : Place → State → Result) :
    withAddr a va size need aligned f s = trapPoison a 1 (s.ctx.reg a) va s := by simp [withAddr, h]

/-! ### Operands that must be clean -/

/-- Clean operands let the form run. -/
theorem withClean_run {l : List (Reg × Nat)} {s : State} (h : ∀ r ∈ l, s.ctx.psn r.1 = false) (f : State → Result) :
    withClean l f s = f s := by
  have : (l.find? fun r => s.ctx.psn r.1) = none := List.find?_eq_none.2 fun r hr => by simp [h r hr]
  simp [withClean, this]

/-- The first poisoned operand raises POISON with its consumer kind. -/
theorem withClean_poison {l : List (Reg × Nat)} {s : State} {r : Reg} {k : Nat}
    (h : (l.find? fun r => s.ctx.psn r.1) = some (r, k)) (f : State → Result) :
    withClean l f s = trapPoison r k (s.ctx.reg r) (s.ctx.reg r) s := by simp [withClean, h]

/-! ### Releases and posts (R200, R35) -/

/-- A release that is not complete stalls its instruction. -/
theorem withRelease_stall {scope : Scope} {s : State} (h : releaseDone s scope = false) (f : State → Result) :
    ∃ r, withRelease scope f s = stall (s.modCtx fun x => { x with releasing := some r }) := by
  unfold withRelease
  simp only [h]
  exact ⟨_, rfl⟩

/-- Within a cluster a complete release changes nothing before its instruction runs. -/
theorem withRelease_near {scope : Scope} {s : State} (h : releaseDone s scope = true) (hf : Scope.far scope = false)
    (f : State → Result) : withRelease scope f s = f (passWindow s scope) := by simp [withRelease, h, hf]

/-- Only a CORE-scope release passes window accesses by. -/
theorem passWindow_wide {scope : Scope} (s : State) (h : (scope == .core) = false) : passWindow s scope = s := by
  simp [passWindow, h]

/-- A posted access touches no byte, no tag and no full-empty bit until it is performed. -/
theorem post_bytes (s : State) (va : Word) (p : Place) (size : Nat) (store : Bool) (data : Word) (psn : Bool) (d : Reg)
    (signed : Bool) :
    let m := (post s va p size store data psn d signed).mem
    m.cells = s.mem.cells ∧ m.poison = s.mem.poison ∧ m.full = s.mem.full := ⟨rfl, rfl, rfl⟩

/-- A posted access is the last in flight. -/
theorem post_reqs (s : State) (va : Word) (p : Place) (size : Nat) (store : Bool) (data : Word) (psn : Bool) (d : Reg)
    (signed : Bool) :
    ∃ q, (post s va p size store data psn d signed).mem.reqs = s.mem.reqs ++ [q] ∧ q.place = p ∧ q.va = va ∧
      q.size = size ∧ q.store = store ∧ q.data = data := ⟨_, rfl, rfl, rfl, rfl, rfl, rfl⟩

end Sys2Proof.Machine
end

