-- ==== Sys2Proof/Laws/Integer.lean ====
section
/-!
SUPPORT. The shared operations of the integer families.
-/

namespace Sys2Proof.Machine

@[simp] theorem base_result (x : Ctx) (d : Reg) (srcs : List Reg) (v : Word) : (x.result d srcs v).base = x.base := by
  simp [Ctx.result]

/-- An instruction whose whole effect is one register result. -/
theorem regResult_next {d : Reg} {srcs : List Reg} {s : State} (h : Unlocked s [d] srcs) (v : Ctx → Word) :
    ∃ t, regResult d srcs v s = .next t ∧ Alone s t ∧ t.ctx.base = s.ctx.base ∧
      Completes s.ctx t.ctx (s.ctx.pc + 4) ∧ WritesReg s.ctx t.ctx d (v s.ctx) (srcs.any s.ctx.psn) := by
  refine ⟨_, unlessLocked_run h _, alone_modCtx .., ?_, ?_, ?_⟩
  · simp
  · rw [ctx_modCtx]; exact completes_advance _ _ (by simp) (by simp)
  · rw [ctx_modCtx]; exact fun r => writesReg_setReg _ _ _ _ r

/-- A meaning that is a register result computes it. -/
theorem computes_of_regResult {i : Instr} {d : Reg} {srcs : List Reg} {v w : Ctx → Word}
    (hi : ∀ s, exec i s = regResult d srcs v s) (hv : ∀ x, v x = w x) : Computes i d srcs w := by
  intro s h
  rw [hi, ← hv]
  exact regResult_next h v

/-- A branch whose operands are clean goes to its target or to the next word (R350). -/
theorem branch_next {a b : Reg} {s : State} (h : Unlocked s [] [a, b]) (ha : s.ctx.psn a = false)
    (hb : s.ctx.psn b = false) (i : BitVec 16) (taken : Word → Word → Bool) :
    branch a b i taken s = .next (s.modCtx fun x =>
      x.jump (x.pc + if taken (x.reg a) (x.reg b) then i.signExtend 64 * 4 else 4)) := by
  unfold branch
  rw [unlessLocked_run h]
  simp [ha, hb]

end Sys2Proof.Machine
end

