-- ==== Sys2Proof/Laws/Memory.lean ====
section
/-!
SUPPORT. Memory: what a byte reads after a write, and that every memory operation keeps the canonical form.
-/

namespace Sys2Proof.Machine

/-! ### Bytes -/

@[simp] theorem byte_setByte (m : Mem) (k j : Nat) (v : Byte) :
    (m.setByte k v).byte j = if j = k then v else m.byte j := fget_fset ..

/-- Reading one byte after a write of n bytes: the write's byte inside it, what stood there outside. -/
theorem byte_write (m : Mem) (k n v j : Nat) :
    (m.write k n v).byte j = if k ≤ j ∧ j < k + n then BitVec.ofNat 8 (v / 256 ^ (j - k)) else m.byte j := by
  induction n generalizing m k v with
  | zero => simp [Mem.write, show ¬(k ≤ j ∧ j < k) by omega]
  | succ n ih =>
    rw [Mem.write, ih, byte_setByte]
    by_cases h1 : j = k
    · subst h1
      simp [show ¬(j + 1 ≤ j ∧ j < j + 1 + n) by omega, show j < j + (n + 1) by omega]
    · by_cases h2 : k ≤ j ∧ j < k + (n + 1)
      · rw [if_pos (show k + 1 ≤ j ∧ j < k + 1 + n by omega), if_pos h2]
        rw [show j - k = (j - (k + 1)) + 1 by omega, Nat.pow_succ, Nat.mul_comm, Nat.div_div_eq_div_mul]
      · rw [if_neg (show ¬(k + 1 ≤ j ∧ j < k + 1 + n) by omega), if_neg h1, if_neg h2]

theorem byte_setPsn (m : Mem) (k j : Nat) (p : Bool) : (m.setPsn k p).byte j = m.byte j := rfl

theorem byte_setFull (m : Mem) (k j : Nat) (b : Bool) : (m.setFull k b).byte j = m.byte j := rfl

/-- Reading one byte after a store of n bytes with poison. -/
theorem byte_store (m : Mem) (k n : Nat) (v : Word) (p : Bool) (j : Nat) :
    (m.store k n v p).byte j =
      if k ≤ j ∧ j < k + n then BitVec.ofNat 8 (v.toNat / 256 ^ (j - k)) else m.byte j := by
  rw [← byte_write]
  unfold Mem.store
  split
  · rfl
  · split <;> rfl

/-- A read looks at its own bytes alone. -/
theorem read_congr (m m' : Mem) (k n : Nat) (h : ∀ j, k ≤ j → j < k + n → m.byte j = m'.byte j) :
    m.read k n = m'.read k n := by
  induction n generalizing k with
  | zero => rfl
  | succ n ih =>
    rw [Mem.read, Mem.read, h k (by omega) (by omega), ih (k + 1) fun j h1 h2 => h j (by omega) (by omega)]

/-- A read gives the bytes last written there. -/
theorem read_write (m : Mem) (k n v : Nat) : (m.write k n v).read k n = v % 256 ^ n := by
  induction n generalizing m k v with
  | zero => simp [Mem.read, Nat.mod_one]
  | succ n ih =>
    rw [Mem.read, Mem.write, ih, byte_write, if_neg (by omega), byte_setByte, if_pos rfl]
    rw [Nat.pow_succ, Nat.mul_comm (256 ^ n) 256, Nat.mod_mul]
    simp

/-- A load gives the word last stored there. -/
theorem load_store (m : Mem) (k : Nat) (v : Word) (p : Bool) : (m.store k 8 v p).load k 8 = v := by
  unfold Mem.load
  rw [read_congr (m.store k 8 v p) (m.write k 8 v.toNat) k 8 fun j _ _ => by rw [byte_store, byte_write], read_write]
  apply BitVec.eq_of_toNat_eq
  have := v.isLt
  simp only [BitVec.toNat_ofNat]
  omega

/-! ### Poison and full-empty bits -/

theorem psn_setPsn (m : Mem) (k j : Nat) (p : Bool) :
    (m.setPsn k p).psn j = if wordKey j = wordKey k then p else m.psn j := by
  unfold Mem.setPsn Mem.psn
  cases p <;> by_cases h : wordKey j = wordKey k <;> simp [h, List.contains_eq_mem]

theorem isFull_setFull (m : Mem) (k j : Nat) (b : Bool) :
    (m.setFull k b).isFull j = if j = k then b else m.isFull j := by
  unfold Mem.setFull Mem.isFull
  cases b <;> by_cases h : j = k <;> simp [h, List.contains_eq_mem]

/-! ### The canonical form -/

theorem mem_wf_iff (m : Mem) :
    m.wf = true ↔ fwf (0 : Byte) m.cells = true ∧ nwf m.poison = true ∧ nwf m.full = true := by
  simp [Mem.wf, and_assoc]

/-- The form speaks of the cells, the poison and the full-empty bits alone. -/
theorem wf_congr {m m' : Mem} (h : m.wf = true) (h1 : m'.cells = m.cells) (h2 : m'.poison = m.poison)
    (h3 : m'.full = m.full) : m'.wf = true := by
  rw [mem_wf_iff] at h ⊢
  rw [h1, h2, h3]; exact h

theorem setByte_wf {m : Mem} (k : Nat) (v : Byte) (h : m.wf = true) : (m.setByte k v).wf = true := by
  rw [mem_wf_iff] at h ⊢
  exact ⟨fset_wf k v h.1, h.2⟩

theorem write_wf {m : Mem} (k n v : Nat) (h : m.wf = true) : (m.write k n v).wf = true := by
  induction n generalizing m k v with
  | zero => exact h
  | succ n ih => exact ih _ _ (setByte_wf _ _ h)

theorem setPsn_wf {m : Mem} (k : Nat) (p : Bool) (h : m.wf = true) : (m.setPsn k p).wf = true := by
  rw [mem_wf_iff] at h ⊢
  cases p
  · exact ⟨h.1, ndrop_wf _ h.2.1, h.2.2⟩
  · exact ⟨h.1, nput_wf _ h.2.1, h.2.2⟩

theorem setFull_wf {m : Mem} (k : Nat) (b : Bool) (h : m.wf = true) : (m.setFull k b).wf = true := by
  rw [mem_wf_iff] at h ⊢
  cases b
  · exact ⟨h.1, h.2.1, ndrop_wf _ h.2.2⟩
  · exact ⟨h.1, h.2.1, nput_wf _ h.2.2⟩

theorem store_wf {m : Mem} (k n : Nat) (v : Word) (p : Bool) (h : m.wf = true) : (m.store k n v p).wf = true := by
  unfold Mem.store
  have h1 := write_wf k n v.toNat h
  split
  · exact setPsn_wf _ _ h1
  · split
    · exact setPsn_wf _ _ h1
    · exact h1

theorem disturb_wf {s : State} (k : Nat) (a : Bool) (h : s.mem.wf = true) : (disturb s k a).mem.wf = true := by
  unfold disturb
  dsimp only
  split
  · dsimp only
    split
    · exact write_wf _ _ _ (write_wf _ _ _ h)
    · exact wf_congr (write_wf _ _ _ (write_wf _ _ _ h)) rfl rfl rfl
  · exact h

theorem writeSram_wf {s : State} (c off n : Nat) (v : Word) (p : Bool) (w : WriterId) (h : s.mem.wf = true) :
    (writeSram s c off n v p w).mem.wf = true := disturb_wf _ _ (store_wf _ _ _ _ h)

theorem writeScratch_wf {s : State} (c off n : Nat) (v : Word) (p : Bool) (w : WriterId) (h : s.mem.wf = true) :
    (writeScratch s c off n v p w).mem.wf = true := disturb_wf _ _ (store_wf _ _ _ _ h)

theorem writeGlobal_wf {s : State} (off n : Nat) (v : Word) (p : Bool) (w : WriterId) (h : s.mem.wf = true) :
    (writeGlobal s off n v p w).mem.wf = true := wf_congr (store_wf _ _ _ _ h) rfl rfl rfl

theorem writeHost_wf {s : State} (off n : Nat) (v : Word) (p nc : Bool) (w : WriterId) (h : s.mem.wf = true) :
    (writeHost s off n v p nc w).mem.wf = true := by
  cases nc <;> exact wf_congr (store_wf _ _ _ _ h) rfl rfl rfl

theorem physWrite_wf {s : State} (pa : Nat) (v : Word) (w : WriterId) (h : s.mem.wf = true) :
    (physWrite s pa v w).mem.wf = true := by
  unfold physWrite
  split
  · split
    · exact writeHost_wf _ _ _ _ _ _ h
    · exact writeGlobal_wf _ _ _ _ _ h
  · exact h

/-- Folding a function that keeps the form keeps it. -/
theorem foldl_wf {α : Type} (f : State → α → State) (hf : ∀ s x, s.mem.wf = true → (f s x).mem.wf = true) (l : List α)
    (s : State) (h : s.mem.wf = true) : (l.foldl f s).mem.wf = true := by
  induction l generalizing s with
  | nil => exact h
  | cons x r ih => exact ih _ (hf s x h)

theorem putRecord_wf {s : State} (write : State → Nat → Word → State) (ws : List Word)
    (hw : ∀ s o v, s.mem.wf = true → (write s o v).mem.wf = true) (h : s.mem.wf = true) :
    (putRecord s write ws).mem.wf = true := foldl_wf _ (fun _ _ h => hw _ _ _ h) _ _ h

theorem coreErrRecord_wf {s : State} (c : Nat) (flags addr vaddr ctxw pc unit : Word) (h : s.mem.wf = true) :
    (coreErrRecord s c flags addr vaddr ctxw pc unit).mem.wf = true := by
  unfold coreErrRecord
  dsimp only
  split
  · exact h
  · rw [modCore_mem]
    exact putRecord_wf _ _ (fun s o v h => writeSram_wf _ _ _ _ _ _ h) h

theorem pkgErrRecord_wf {s : State} (flags addr vaddr ctxw pc unit : Word) (h : s.mem.wf = true) :
    (pkgErrRecord s flags addr vaddr ctxw pc unit).mem.wf = true := by
  unfold pkgErrRecord
  dsimp only
  split
  · exact h
  · exact putRecord_wf _ _ (fun s o v h => physWrite_wf _ _ _ h) h

theorem consumedRecord_wf {s : State} (c k kind : Nat) (src : ErrSource) (vaddr : Word) (h : s.mem.wf = true) :
    (consumedRecord s c k kind src vaddr).mem.wf = true := by
  unfold consumedRecord consumedAt
  split
  · exact h
  · exact coreErrRecord_wf _ _ _ _ _ _ _ h

/-! ### Traps keep the form -/

@[simp] theorem handoff_mem (s : State) (c : Nat) (r : TrapRec) : (handoff s c r).mem = s.mem := rfl

theorem freeze_wf {s : State} (c k : Nat) (h : s.mem.wf = true) : (freeze s c k).mem.wf = true := by
  unfold freeze
  dsimp only
  split <;> exact wf_congr h rfl rfl rfl

theorem handOrHold_mem (s : State) (c : Nat) (r : TrapRec) : (handOrHold s c r).mem = s.mem := by
  unfold handOrHold
  dsimp only
  split
  · rfl
  · split <;> rfl

theorem haltCore_wf {s : State} (c : Nat) (h : s.mem.wf = true) : (haltCore s c).mem.wf = true :=
  pkgErrRecord_wf _ _ _ _ _ _ h

theorem raiseAt_wf {s : State} (c k : Nat) (r : TrapRec) (h : s.mem.wf = true) : (raiseAt s c k r).mem.wf = true := by
  unfold raiseAt
  split
  · split
    · exact h
    · exact freeze_wf c k h
  · split
    · exact haltCore_wf c h
    · rw [handOrHold_mem]; exact freeze_wf c k h

@[simp] theorem raiseNotice_mem (s : State) (c : Nat) (r : TrapRec) : (raiseNotice s c r).mem = s.mem := by
  unfold raiseNotice
  split
  · rfl
  · exact handOrHold_mem s c r

/-- GRAPH at a boundary keeps the form. -/
theorem graphAt_wf {s : State} (c k : Nat) (n : Word) (h : s.mem.wf = true) : (graphAt s c k n).mem.wf = true :=
  raiseAt_wf _ _ _ h

theorem trapState_wf {s : State} (c : Cause) (v x : Word) (h : s.mem.wf = true) : (trapState c v x s).mem.wf = true :=
  raiseAt_wf _ _ _ h

@[simp] theorem endHandling_mem (s : State) (c : Nat) : (endHandling s c).mem = s.mem := rfl

@[simp] theorem handoffHeld_mem (s : State) (c : Nat) : (handoffHeld s c).mem = s.mem := by
  unfold handoffHeld
  split
  · rfl
  · split <;> rfl

@[simp] theorem resumeFrozen_mem (s : State) (c : Nat) (b : Word) : (resumeFrozen s c b).mem = s.mem := rfl

/-- Reset memory lists nothing. -/
theorem reset_mem_wf : State.reset.mem.wf = true := rfl

end Sys2Proof.Machine
end

