-- ==== Sys2Proof/Laws/ScalarFp.lean ====
section
/-!
SUPPORT. The shared operations of the scalar floating-point families.
-/

namespace Sys2Proof.Machine

@[simp] theorem raise_cur (s : State) (c k : Nat) (f : BitVec 5) : (s.raise c k f).cur = s.cur := by
  unfold State.raise
  split
  · rfl
  · dsimp only; split <;> rfl

/-- Raising flags changes FFLAGS of one context and CLFLAGS of one cluster (R228, R230). -/
theorem raise_spec (s : State) (c k : Nat) (f : BitVec 5) :
    OnlyContext c k { s with clusters := (s.raise c k f).clusters } (s.raise c k f) ∧
    (s.raise c k f).ctxAt c k = (s.ctxAt c k).raiseFlags f ∧
    ∀ n, (s.raise c k f).cluster n = if n = clusterOf c ∧ c ≠ mgmtCore then
      { s.cluster n with clflags := (s.cluster n).clflags ||| f, newFlags := (s.cluster n).newFlags ||| f }
        else s.cluster n := by
  unfold State.raise
  split
  · rename_i hf
    subst hf
    refine ⟨.refl .., by simp [Ctx.raiseFlags], fun n => ?_⟩
    split <;> simp
  · dsimp only
    split
    · rename_i hc
      refine ⟨onlyContext_modCtxAt .., by simp, fun n => ?_⟩
      simp [hc, State.cluster, State.modCtxAt, State.modCore]
    · rename_i hc
      refine ⟨?_, ?_, fun n => ?_⟩
      · have := onlyContext_modCtxAt { s with clusters :=
          ((s.modCtxAt c k (·.raiseFlags f)).modCluster (clusterOf c) fun n =>
            { n with clflags := n.clflags ||| f, newFlags := n.newFlags ||| f }).clusters } c k (·.raiseFlags f)
        exact this
      · show (s.modCtxAt c k (·.raiseFlags f)).ctxAt c k = _
        simp
      · rw [cluster_modCluster]
        have h : ∀ n, (s.modCtxAt c k (·.raiseFlags f)).cluster n = s.cluster n := fun _ => rfl
        by_cases hn : n = clusterOf c <;> simp [hn, hc, h]

/-- An instruction whose effect is one register result and flags. -/
theorem fpResult_next {i : Instr} {d : Reg} {srcs : List Reg} {v w : Ctx → Nat × Flags}
    (hi : ∀ s, exec i s = fpResult d srcs v s) (hv : ∀ x, v x = w x) : ComputesFloat i d srcs w := by
  intro s h
  have hvw : v = w := funext hv
  subst hvw
  obtain ⟨ha, hc, hn⟩ := raise_spec (s.modCtx fun x => x.result d srcs (BitVec.ofNat 64 (v s.ctx).1))
    s.cur.1 s.cur.2 (v s.ctx).2
  have hcur : ∀ f : Ctx → Ctx, (s.modCtx f).cur = s.cur := fun _ => rfl
  have hctx : ∀ c k f, ((s.modCtx fun x => x.result d srcs (BitVec.ofNat 64 (v s.ctx).1)).raise c k f).cur = s.cur := by
    intro c k f; exact raise_cur ..
  have hx : ((s.modCtx fun x => x.result d srcs (BitVec.ofNat 64 (v s.ctx).1)).raise s.cur.1 s.cur.2 (v s.ctx).2).ctx =
      (s.ctx.result d srcs (BitVec.ofNat 64 (v s.ctx).1)).raiseFlags (v s.ctx).2 := by
    show State.ctxAt _ _ _ = _
    rw [hctx, hc]
    congr 1
    exact ctx_modCtx s _
  refine ⟨_, (hi s).trans (unlessLocked_run h _), ?_, ?_, ?_, ?_, ?_⟩
  · refine ⟨⟨?_, ?_, ?_⟩, ?_⟩
    · have := ha.package; exact this
    · have h1 := ha.core
      have h2 := (alone_modCtx s fun x => x.result d srcs (BitVec.ofNat 64 (v s.ctx).1)).core
      exact h1.trans h2
    · intro e he
      exact (ha.others e he).trans ((alone_modCtx s fun x => x.result d srcs (BitVec.ofNat 64 (v s.ctx).1)).others e he)
    · intro j hj
      exact (ha.slots j hj).trans ((alone_modCtx s fun x => x.result d srcs (BitVec.ofNat 64 (v s.ctx).1)).slots j hj)
  · rw [hx]
    unfold Ctx.result Ctx.setReg
    split <;> rfl
  · intro n
    exact hn n
  · rw [hx]
    constructor <;> simp [Ctx.result, Ctx.raiseFlags]
  · rw [hx]
    exact fun r => writesReg_setReg s.ctx d _ _ r

end Sys2Proof.Machine
end

