-- ==== Sys2Proof/Tests/Slice0.lean ====
section
/-!
SUPPORT. Tests of the model: words written out bit by bit from the encoding tables of spec/, ill-formed terms that the
checks refuse, single steps whose results are worked out by hand from the rules, and for each statement of
Certificates/Slice0/Obligations.lean with hypotheses a state and operands that meet those of each of its clauses.
-/

namespace Sys2Proof.Tests

-- One theorem at a time: the kernel evaluations side by side would need too many threads at once.
set_option Elab.async false


open Sys2Proof Sys2Proof.Machine

/-! ### Small states -/

/-- A package whose core 64 and cluster 4 belong to realm 0. Bank 0 of the cluster is SCRATCH, bank 1 FIFO, the others
CACHE. The core translates five pages of 64 KiB from 0x1000_0000: LPDDR6, LPDDR6 with NC, the host aperture, device
registers, package 1. -/
def pkg : State :=
  let page (n ppage : Nat) (perms : BitVec 5) : TlbEntry :=
    { realm := 0, vpage := 0x10000000 + 0x10000 * n, logSize := 16, ppage, perms }
  let s := State.reset.modMem fun m => { m with ownCore := [(64, 0xE000)], ownCluster := [(4, 0xE000)] }
  let s := s.modCluster 4 fun n => { n with banks := [(0, { mode := .scratch }), (1, { mode := .fifo })] }
  let s := s.modRouter 1 fun r => { r with domainPorts := [(1, 0x80)] }
  let s := { s with host := { s.host with linkUp := true, bootstat := 9 } }
  s.modCore 64 fun x =>
    { x with microTlb := [page 0 0x10000 0b00111, page 1 0x20000 0b10011, page 2 0x10000000000 0b00011,
                          page 3 0x30000000000 0b00011, page 4 0x40000000000 0b00011] }

/-- Slot k of core 64 issues; its context is f of a fresh one. -/
def at_ (k : Nat) (f : Ctx → Ctx) : State :=
  { pkg with cur := (64, k) }.modCtxAt 64 k fun x => f { x with occupied := true, tbudget := 100 }

/-- A user context with g1 = a, g2 = b. -/
def user (a b : Word) : State := at_ 3 fun x => (x.setReg 1 a false).setReg 2 b false

/-- A user context whose g1 is poisoned. -/
def tainted (a b : Word) : State := at_ 3 fun x => (x.setReg 1 a true).setReg 2 b false

/-- The engine task of slot 0 with g1 = a, g2 = b. -/
def task0 (a b : Word) : State := at_ 0 fun x => (x.setReg 1 a false).setReg 2 b false

/-- The supervisor with g1 = a, g2 = b. -/
def boss (a b : Word) : State := at_ 7 fun x => (x.setReg 1 a false).setReg 2 b false

/-- The next state satisfies f. -/
def ends (o : Result) (f : State → Bool) : Bool :=
  match o with
  | .next t => f t
  | .fault _ | .refused _ => false

/-! ### Words (R311 to R328) -/

-- Each word is put together from the field tables of spec/13_encoding.md and of the family's rule: the major opcode, then
-- the fields of the format from the left.
theorem test_word_opr : decode? 0b000001_00011_00001_00010_1_0000_000000#32 = some (.add 3 1 2 true) := by
  decide +kernel
theorem test_word_immediate : decode? 0b000010_00101_00110_1111111111111111#32 = some (.addi 5 6 0xFFFF) := by
  decide +kernel
theorem test_word_shift : decode? 0b001000_11000_11001_10_0000000_0_110000#32 = some (.srai 24 25 false 48) := by
  decide +kernel
theorem test_word_upper : decode? 0b001001_00100_00000_1000000000000001#32 = some (.lui 4 0x8001) := by
  decide +kernel
theorem test_word_pc_relative : decode? 0b001011_00100_00000_0000000000000011#32 = some (.ldpc 4 3) := by
  decide +kernel
theorem test_word_opf : decode? 0b001100_00011_00001_00010_001_010_00011#32 = some (.fdiv 3 1 2 .f64 .rtz) := by
  decide +kernel
theorem test_word_conversion : decode? 0b001100_00011_00001_00010_001_111_01011#32 = some (.fcvtI 3 1 .i32 .f64 .dyn) := by
  decide +kernel
theorem test_word_fmac : decode? 0b001101_00001_00010_00011_00100_1_10_011#32 = some (.fnma 1 2 3 4 true .rtp) := by
  decide +kernel
theorem test_word_bit_field : decode? 0b001110_00001_00010_001000_001111_0010#32 = some (.bins 1 2 8 15) := by
  decide +kernel
theorem test_word_cellkey : decode? 0b001111_00001_00010_00000_00000000000#32 = some (.cellkey 1 2) := by
  decide +kernel
theorem test_word_load : decode? 0b010000_00111_01000_000000000011_0010#32 = some (.ld 7 8 3 .w) := by
  decide +kernel
theorem test_word_store : decode? 0b010001_00111_01000_100000000000_0011#32 = some (.st 7 8 0x800 .d) := by
  decide +kernel
theorem test_word_indexed_load : decode? 0b010010_00001_00010_00011_00000_11_0110#32 = some (.ldx 1 2 3 3 .wz) := by
  decide +kernel
theorem test_word_indexed_store : decode? 0b010011_00001_00010_00011_00000_01_0001#32 = some (.stx 1 2 3 1 .h) := by
  decide +kernel
theorem test_word_ordered_load : decode? 0b010100_11000_00101_00000_011_01_01_0000#32 = some (.ldo 24 5 .package .acq .d) := by
  decide +kernel
theorem test_word_atomic : decode? 0b010100_00001_00010_00011_001_11_00_1011#32 = some (.amoCas 1 2 3 .cluster .acqRel .w) := by
  decide +kernel
theorem test_word_full_empty : decode? 0b010101_11000_00111_00000_011_00_01_0000#32 = some (.ldfe 24 7 .package) := by
  decide +kernel
theorem test_word_quad_line : decode? 0b010110_11000_00100_00101_0_01_0000_0000#32 = some (.qread 24 4 5 1) := by
  decide +kernel
theorem test_word_cache : decode? 0b010111_00000_00100_00000_00000000011#32 = some (.zerol 4) := by
  decide +kernel
theorem test_word_branch : decode? 0b011001_00001_00010_1111111111111110#32 = some (.bne 1 2 0xFFFE) := by
  decide +kernel
theorem test_word_jump : decode? 0b011110_00001_000000000000000000011#32 = some (.jal 1 3) := by
  decide +kernel
theorem test_word_jump_register : decode? 0b011111_00000_00001_0000000000000000#32 = some (.jalr 0 1 0) := by
  decide +kernel
theorem test_word_vector_load : decode? 0b100000_0100_00100_00000_000_10_0000000#32 = some (.vld 4 4 0 .w) := by
  decide +kernel
theorem test_word_vector_store : decode? 0b100001_0001_00010_0_0011_100_01_0000010#32 = some (.vstx 1 2 3 4 .h) := by
  decide +kernel
theorem test_word_vop : decode? 0b100010_0001_0010_0011_010_110_1_1000000#32 = some (.vadd 1 2 3 2 .int8 true true) := by
  decide +kernel
theorem test_word_vop_scalar : decode? 0b100010_0001_00010_00011_0_011_0_0010010#32 = some (.vext 1 2 3 .int32) := by
  decide +kernel
theorem test_word_vfma : decode? 0b100011_0001_0010_0011_000_001_0_0000010#32 = some (.vfnma 1 2 3 0 .bf16 false) := by
  decide +kernel
theorem test_word_mask : decode? 0b100100_0001_0010_0011_000_000_0_0000001#32 = some (.mor 1 2 3) := by
  decide +kernel
theorem test_word_mask_scalar : decode? 0b100100_0001_00010_00000_0_110_0_0000100#32 = some (.mpopc 1 2 .int8) := by
  decide +kernel
theorem test_word_reduction : decode? 0b100101_0001_0010_0000_011_011_0_0000001#32 = some (.vredmax 1 2 3 .int32) := by
  decide +kernel
theorem test_word_permutation : decode? 0b100110_0001_0010_0011_000_101_1_0000001#32 = some (.vrot 1 2 3 0 .int16 true) := by
  decide +kernel
theorem test_word_event : decode? 0b100111_11000_01100_00101_00000000000#32 = some (.vscmac 24 12 5) := by
  decide +kernel
theorem test_word_narrowing : decode? 0b101000_0001_0010_0000_011_1000_010_0000#32 = some (.vcvt 1 2 .fp32 3 .e4m3 .rtz) := by
  decide +kernel
theorem test_word_quantizing : decode? 0b101000_0001_0010_0011_000_0110_111_0001#32 = some (.vquant 1 2 3 0 .int8 .dyn) := by
  decide +kernel
theorem test_word_activation : decode? 0b101001_0001_0010_0000_001_000_1_0000111#32 = some (.vact 1 2 1 true .tanh) := by
  decide +kernel
theorem test_word_matrix : decode? 0b101010_00001_00100_00101_00000000000#32 = some (.mma 1 4 5) := by
  decide +kernel
theorem test_word_merging : decode? 0b101011_0010_0100_0101_000_100_0_0000000#32 = some (.isect 1 4 5 true) := by
  decide +kernel
theorem test_word_repeat : decode? 0b101100_0001_00000111_01_01_00_00000000#32 = some (.rpt 1 7 1 1 0) := by
  decide +kernel
theorem test_word_message : decode? 0b101101_00000_00100_01100_1_01_00000_001#32 = some (.send 4 12 true 1) := by
  decide +kernel
theorem test_word_copy : decode? 0b101110_00000_00100_00101_1_0011_000_110#32 = some (.syncarm 4 5 true 3) := by
  decide +kernel
theorem test_word_walk : decode? 0b101111_00001_00010_00011_00000000010#32 = some (.wpermit 1 2 3) := by
  decide +kernel
theorem test_word_graph : decode? 0b110000_00001_00010_00000_00000000001#32 = some (.nfail 1 2) := by
  decide +kernel
theorem test_word_barrier : decode? 0b110001_000000000000000_010_00000_011#32 = some (.bararr 2) := by
  decide +kernel
theorem test_word_csr : decode? 0b110010_11000_00000_000000000000_0000#32 = some (.csrr 24 0) := by
  decide +kernel
theorem test_word_system : decode? 0b110011_00000_00000_00010101_0000_0001#32 = some (.trap 0x15) := by
  decide +kernel

-- Words that the spec gives whole (R33, R106, R188, R248, R251, R257, R258, R320, R322, R326 to R328).
theorem test_worked_words :
    decode? 0x57070310#32 = some (.ldfe 24 7 .package) ∧ decode? 0x8848D000#32 = some (.vadd 1 2 3 2 .fp32 false false) ∧
    decode? 0x8848D6C0#32 = some (.vadd 1 2 3 2 .int8 true true) ∧ decode? 0xB4046501#32 = some (.send 4 12 true 1) ∧
    decode? 0x9F0C2800#32 = some (.vscmac 24 12 5) ∧ decode? 0xC4000203#32 = some (.bararr 2) ∧
    decode? 0x5C040001#32 = some (.clean 4) ∧ decode? 0xB041D400#32 = some (.rpt 1 7 1 1 0) ∧
    decode? 0xA8202805#32 = some (.mxform 1 0 5) ∧ decode? 0xAC914401#32 = some (.union 1 4 5 true) ∧
    decode? 0xB8042CC6#32 = some (.syncarm 4 5 true 3) ∧ decode? 0xC8040011#32 = some (.csrw 0 4 1) ∧
    decode? 0xCC000501#32 = some (.trap 5) ∧ decode? 0x5005CB91#32 = some (.sto 5 25 .package .rel .d) := by
  decide +kernel

-- Words of reserved opcodes, functions, fields and combinations (R313 to R315, R196, R327).
theorem test_refused_words :
    decode? 0#32 = none ∧ decode? 0xD0000000#32 = none ∧ decode? 0b000001_00011_00001_00010_0_0001_000000#32 = none ∧
    decode? 0b000001_00011_00001_00010_1_0000_000010#32 = none ∧ decode? 0b001000_00001_00010_00_0000000_1_100000#32 = none ∧
    decode? 0b010100_11000_00101_00000_011_00_01_0000#32 = none ∧ decode? 0b110010_11000_00000_000000000000_0100#32 = none :=
  by decide +kernel

/-! ### Terms that are no instruction (R196, R315, R318, R322, R323, R325, R326) -/

-- One term for each check of WellFormed, which the check refuses, beside one that it admits.
theorem test_ill_formed :
    (Instr.slli 1 2 true 32).wf = false ∧ (Instr.slli 1 2 true 31).wf = true ∧
    (Instr.bext 1 2 60 4).wf = false ∧ (Instr.bext 1 2 60 3).wf = true ∧
    (Instr.ldo 1 2 .core .rel .d).wf = false ∧ (Instr.ldo 1 2 .group .plain .d).wf = false ∧
    (Instr.sto 1 2 .core .acq .d).wf = false ∧ (Instr.sto 1 2 .group .rel .d).wf = true ∧
    (Instr.amoAdd 1 2 3 .cluster .plain .w).wf = false ∧ (Instr.amoAdd 1 2 3 .core .plain .w).wf = true ∧
    (Instr.fence .core .plain false).wf = false ∧ (Instr.fence .core .acq true).wf = false ∧
    (Instr.vadd 1 2 3 0 .fp32 false true).wf = false ∧ (Instr.vabs 1 2 0 .n8 false).wf = false ∧
    (Instr.vand 1 2 3 0 .fp16 false).wf = false ∧ (Instr.vfma 1 2 3 0 .int8 false).wf = false ∧
    (Instr.vcvt 1 2 .e4m3 0 .e5m2 .rne).wf = false ∧ (Instr.vquant 1 2 3 0 .fp16 .rne).wf = false ∧
    (Instr.send 1 31 false 1).wf = false ∧ (Instr.send 1 30 false 1).wf = true ∧
    (Instr.hostApertureAccess (.read 0 0)).wf = false ∧ (Instr.hostApertureAccess (.write 0 [])).wf = false ∧
    (Instr.trapHandoff 4097).wf = false ∧ (Instr.trapHandoff 4096).wf = true := by
  decide +kernel

/-! ### Worked values

Each number is the spec's own, from the example of the rule that the comment names, or worked out by hand from its words. -/

/-- What an instruction leaves in g3. -/
def g3 (i : Instr) (s : State) : Option Word :=
  match exec i s with
  | .next t => some (t.ctx.reg 3)
  | .fault _ | .refused _ => none

-- R312, R314: sums wrap; the .W forms sign-extend from bit 31.
theorem test_add_wraps : g3 (.add 3 1 2 false) (user 0xFFFFFFFFFFFFFFFF 2) = some 1 ∧
    g3 (.add 3 1 2 true) (user 0x7FFFFFFF 1) = some 0xFFFFFFFF80000000 := by decide +kernel
-- R393: the high half of -1 × 2, signed and unsigned.
theorem test_mulh_sign : g3 (.mulh 3 1 2) (user 0xFFFFFFFFFFFFFFFF 2) = some 0xFFFFFFFFFFFFFFFF ∧
    g3 (.mulhu 3 1 2) (user 0xFFFFFFFFFFFFFFFF 2) = some 1 := by decide +kernel
-- R365, R398: DIVU.W by zero writes all ones; REMU.W of 0x8000_0005 by zero sign-extends it.
theorem test_divide_by_zero : g3 (.divu 3 1 2 true) (user 7 0) = some 0xFFFFFFFFFFFFFFFF ∧
    g3 (.remu 3 1 2 true) (user 0x80000005 0) = some 0xFFFFFFFF80000005 := by decide +kernel
-- R388: LUI of 0x8000.
theorem test_lui_sign : g3 (.lui 3 0x8000) (user 0 0) = some 0xFFFFFFFF80000000 := by decide +kernel
-- R351: bits 4 to 7 of 0x1F5 (which are 1111) sign-extended.
theorem test_bext_sign : g3 (.bext 3 1 4 3) (user 0x1F5 0) = some 0xFFFFFFFFFFFFFFFF := by decide +kernel
-- The example of CELLKEY: the key of (5, 3, 6).
theorem test_cellkey : g3 (.cellkey 3 1) (user 0x0000180000600005 0) = some 0x173 := by decide +kernel
-- The example of FCVT.I: 1.625 × 2^31 in a register whose high bits are ignored.
theorem test_fcvt_saturates : g3 (.fcvtI 3 1 .i32 .f32 .rtz) (user 0xDEAD00004F500000 0) = some 0x7FFFFFFF ∧
    g3 (.fcvtI 3 1 .n32 .f32 .rtz) (user 0xDEAD00004F500000 0) = some 0xD0000000 := by decide +kernel
-- The example of R232: 460, 464, 500 and 450 (under RTP) in E4M3, with NX (16) and OF (4).
theorem test_e4m3 :
    fpConvert e4m3 .rne (f32 0x43E60000) = (0x7E, 16) ∧ fpConvert e4m3 .rne (f32 0x43E80000) = (0x7E, 16) ∧
    fpConvert e4m3 .rne (f32 0x43FA0000) = (0x7E, 20) ∧ fpConvert e4m3 .rtp (f32 0x43E10000) = (0x7E, 20) := by
  decide +kernel
-- The example of the activations: act(6, +0) and act(1, -0).
theorem test_activations : act .logi 0 = (0x3F000000, 0) ∧ act .gelu 0x80000000 = (0x80000000, 0) := by decide +kernel
-- The example of R237: one legal metadata word and two that are not.
theorem test_sparse_metadata : metaIndices 4 0xE651 = some [1, 5, 6, 14] ∧ metaIndices 4 0xE561 = none ∧
    metaIndices 4 0x1E651 = none := by decide +kernel
-- The example of R257: two full windows whose last values are 60 and 33.
theorem test_merge_forms :
    let a : List Int := [3, 7, 9, 12, 20, 22, 30, 31, 33, 35, 36, 40, 41, 45, 50, 60]
    let b : List Int := [1, 3, 4, 9, 10, 11, 13, 14, 15, 16, 17, 18, 19, 22, 25, 33]
    let w := bounded a b
    (w.1.length, w.2.length) = (9, 16) ∧ isectOf w.1 w.2 = [3, 9, 22, 33] ∧ (unionOf w.1 w.2).length = 21 ∧
    (mergeOf w.1 w.2).length = 25 := by decide +kernel
-- The example of VQUANT: 100, -3, the FP32 nearest 0.01 and 900, scaled by 2^-2, in E4M3, raising NX and UF (24).
theorem test_vquant :
    let e : Engine := { v := [(2, 0x446100003C23D70AC040000042C80000), (3, 0x81)] }
    let r := quantVec 1 2 3 .e4m3 0 .rne e
    r.eng.vec 1 = 0x7601B45C ∧ r.fl = 24 ∧ (quantVec 1 2 3 .e4m3 0 .rna e).eng.vec 1 % 256 = 0x5D := by decide +kernel
-- The examples of R167 and R173: a window address, and the home slices of three lines.
theorem test_addresses : pkg.windowSram 583 0x100 = 0xFFFF800487000100 ∧ sliceOf 0x123480 = 3 ∧ sliceOf 0x122400 = 3 ∧
    sliceOf 0x123500 = 0 := by decide +kernel
-- R352: BRKPT saves the next instruction's address and the supervisor starts at TVEC.
theorem test_brkpt_traps : ends (exec .brkpt (user 0 0))
    (fun t => (t.core 64).trap.active && (t.core 64).trap.tpc == (user 0 0).ctx.pc + 4) = true := by decide +kernel

/-! ### States that meet the statements' hypotheses

Each theorem names the statement whose clauses it covers; the values stand at the ends of their ranges where a range is
given. -/

theorem witness_IntegerResults : Unlocked (user 5 6) [3] [1, 2] ∧ Unlocked (user 5 6) [31] [1] := by
  and_intros <;> constructor <;> decide +kernel

theorem witness_ProductsAndQuotients : Unlocked (user 5 0) [3] [1, 2] := by constructor <;> decide +kernel

theorem witness_MovesCountsAndFields :
    Unlocked (user 5 0) [3] [1, 2] ∧ Unlocked (user 5 0) [3] [3, 1] ∧ Unlocked (user 5 0) [3] [] ∧
    (60#6).toNat + (3#6).toNat < 64 := by
  and_intros <;> first | decide +kernel | (constructor <;> decide +kernel)

theorem witness_BranchesAndJumps :
    let s := user 6 6
    Unlocked s [] [1, 2] ∧ s.ctx.psn 1 = false ∧ s.ctx.psn 2 = false ∧ Unlocked s [3] [] ∧ Unlocked s [3] [1] ∧
    (s.ctx.reg 1 + (2#16).signExtend 64).toNat % 4 = 0 ∧ (s.ctx.reg 1 + (1#16).signExtend 64).toNat % 4 ≠ 0 ∧
    TakesTraps s ∧
    (let p := tainted 5 6
     TakesTraps p ∧ Unlocked p [] [2, 1] ∧ (if p.ctx.psn 2 then 2 else 1) = (1 : Reg) ∧ p.ctx.psn 1 = true ∧
      Unlocked p [3] [1]) := by
  and_intros <;> first | decide +kernel | (constructor <;> decide +kernel)

theorem witness_ScalarFloatArithmetic : Unlocked (user 5 6) [3] [1, 2] ∧ Unlocked (user 5 6) [3] [1, 2, 1] := by
  and_intros <;> constructor <;> decide +kernel

theorem witness_RoundedResults :
    (unpack fp32 0x7FC00000).isNan = true ∧ (unpack fp32 0x7F800001).isSnan = true ∧ e2m1.maxFinite ≤ e2m1.maxFinite := by
  decide +kernel

theorem witness_ScalarTestsAndConversions : Unlocked (user 5 6) [3] [1, 2] ∧ Unlocked (user 5 6) [3] [1] := by
  and_intros <;> constructor <;> decide +kernel

theorem witness_LoadsAndStoresArePosted :
    let s := user 0x10000000 1
    let u := user 0x7FFF8 0
    let h := user 0x10020000 0
    let p : Place := .global 0x10000 false false
    Unlocked s [3] [1] ∧ Unlocked s [3] [1, 2] ∧ Unlocked s [3] [] ∧ Unlocked s [] [2, 1] ∧ Unlocked s [] [3, 1, 2] ∧
    s.ctx.psn 1 = false ∧ s.ctx.psn 2 = false ∧ p.posts = true ∧ acquiring .plain = false ∧
    Accesses s 0x10000000 8 needLoad p ∧ Accesses s 0x1000FFF8 8 needLoad (.global 0x1FFF8 false false) ∧
    Accesses s (0x10000000 + 1 * 8) 8 needLoad (.global 0x10008 false false) ∧
    Accesses s 0x10000000 8 needStore p ∧ Accesses s 0x10000000 1 needStore p ∧
    Accesses u 0x7FFF8 8 needStore (.sram 64 0x7FFF8 false) ∧ Accesses u 8 8 needLoad (.sram 64 8 false) ∧
    Accesses h 0x10020000 8 needStore (.host 0x10000000000 false false) ∧
    Place.export (.host 0x10000000000 false false) = true := by
  and_intros <;> first | decide +kernel | (constructor <;> decide +kernel)

/-- Bank 1 of cluster 4 holds the entries l. -/
def queued (l : List (Word × Bool)) (s : State) : State :=
  s.modCluster 4 fun n => { n with banks := [(0, { mode := .scratch }), (1, { mode := .fifo, fifo := l })] }

/-- Bank 1 of cluster 4 is b, and slot 3 of core 64 sleeps at its port. -/
def sleeping (b : Bank) : State :=
  (at_ 3 fun x => { x with wait := some { kind := .fifo, val := 0x2000040, left := 9 } }).modCluster 4 fun n =>
    { n with banks := [(1, b)] }

theorem witness_OtherPackagesAndPorts :
    let s := user 0x10040000 5
    let t := at_ 3 fun x => { x.setReg 1 0x10040000 false with
      answer := some (7, false), asked := [(0x10040000, .other 1 0x40000000000 false)] }
    let f := queued [(9, true)] (user 0x2000040 0)
    let e := queued [] (user 0x2000040 0)
    Unlocked s [3] [1] ∧ Unlocked s [] [2, 1] ∧ s.ctx.psn 1 = false ∧ s.ctx.answer = none ∧ s.ctx.psn 2 = false ∧
    Accesses s 0x10040000 8 needLoad (.other 1 0x40000000000 false) ∧
    Accesses s 0x10040000 8 needStore (.other 1 0x40000000000 false) ∧
    t.ctx.answer = some (7, false) ∧ t.answered = some (.other 1 0x40000000000 false) ∧ Unlocked t [3] [1] ∧
    Unlocked t [] [3, 1] ∧ t.ctx.psn 1 = false ∧ t.ctx.psn 3 = false ∧
    Accesses f 0x2000040 8 needLoad (.fifo 4 1 0) ∧ Accesses f (0x2000040 + 8) 8 needLoad (.fifo 4 1 8) ∧
    settled f (.fifo 4 1 0) 8 = true ∧ (f.bank 4 1).fifo = [(9, true)] ∧ (f.bank 4 1).sleepers = [] ∧
    (e.bank 4 1).fifo = [] ∧ Accesses e 0x2000040 8 needStore (.fifo 4 1 0) ∧ releaseDone e .cluster = true ∧
    Accesses e (0x2000040 + 8) 8 needStore (.fifo 4 1 8) ∧ settled e (.fifo 4 1 8) 8 = true ∧
    ((sleeping { mode := .fifo, sleepers := [(64, 3, some (5, true), 0)] }).bank 4 1).sleepers = [(64, 3, some (5, true), 0)] ∧
    ((sleeping { mode := .fifo, sleepers := [(64, 3, none, 9)], fifo := [(5, true)] }).bank 4 1).sleepers = [(64, 3, none, 9)] ∧
    ((sleeping { mode := .fifo, sleepers := [(64, 3, none, 9)], fifo := [(5, true)] }).bank 4 1).fifo = [(5, true)] := by
  and_intros <;> first | decide +kernel | (constructor <;> decide +kernel)

theorem witness_OrderedLoadsAndStores :
    let s := user 0x10010000 5
    let p : Place := .global 0x20000 true false
    Unlocked s [3] [1] ∧ Unlocked s [] [1, 2] ∧ s.ctx.psn 1 = false ∧ p.key? s = some 0x20000 ∧
    cacheWaits s s.cur.1 p = false ∧ acquiring .acq = true ∧ Accesses s (s.ctx.reg 1) 8 needLdo p ∧
    settled s p 8 = true ∧ usesCache s s.cur.1 p = false ∧ p.direct = true ∧ 0x20000 % mBytes .d = 0 ∧
    Accesses s (s.ctx.reg 1) 8 needSto p ∧ p.export = false ∧ s.ctx.answer = none ∧ releaseDone s .domain = true ∧
    (s.cluster (clusterOf s.cur.1)).emptyWays 0x20000 ≠ [] := by
  and_intros <;> first | decide +kernel | (constructor <;> decide +kernel)

theorem witness_AtomicForms :
    let s := user 0x1000FFFC 5
    let p : Place := .global 0x1FFFC false false
    Unlocked s [3] [1, 2] ∧ s.ctx.psn 1 = false ∧ s.ctx.psn 2 = false ∧ s.ctx.psn 3 = false ∧
    Accesses s (s.ctx.reg 1) 4 needBoth p ∧ p.key? s = some 0x1FFFC ∧ s.ctx.answer = none ∧
    OrderMet s .acqRel .package p 4 ∧ OrderMet s .plain .core p 4 ∧ cacheWaits s s.cur.1 p = false ∧
    (flushed s p).mem.psn 0x1FFFC = false := by
  and_intros <;> first | decide +kernel | (constructor <;> decide +kernel)

/-- A posted store by slot 3 of core 64 to the first page, at home. -/
def posting (r : Req) : State := (user 0 0).modMem fun m => { m with reqs := [r], nextReq := 1 }

/-- A posted access of slot 3 of core 64. -/
def request (p : Place) (store done : Bool) : Req :=
  { id := 0, core := 64, slot := 3, gen := 0, realm := 0, va := 0x10000000, place := p, size := 8, store, data := 0xA5,
    d := 4, done }

theorem witness_Fences :
    acquireReady (user 0 0) .domain = true ∧ acquireReady (posting (request (.sram 64 8 false) true false)) .core = true ∧
    releaseDone (user 0 0) .package = true ∧
    releaseDone (posting (request (.global 0x10000 false false) true false)) .package = false := by
  decide +kernel

theorem witness_FullEmptyAccesses :
    let s := user 0x40 5
    let f := s.modMem (·.setFull (keySram 64 0x40) true)
    let p : Place := .sram 64 0x40 false
    Unlocked s [3] [1] ∧ Unlocked s [] [1, 2] ∧ s.ctx.psn 1 = false ∧ s.cur.1 ≠ mgmtCore ∧
    inGlobal (s.ctx.reg 1) = false ∧ Accesses s (s.ctx.reg 1) 8 needTake p ∧ Accesses s (s.ctx.reg 1) 8 needRead p ∧
    Accesses s (s.ctx.reg 1) 8 needWrite p ∧ p.key? s = some (keySram 64 0x40) ∧ settled s p 8 = true ∧
    s.mem.feServed (keySram 64 0x40) = false ∧ s.mem.isFull (keySram 64 0x40) = false ∧ releaseDone s .package = true ∧
    s.mem.isArmed (keySram 64 0x40 - keySram 64 0x40 % 16) = false ∧
    s.ctx.answer = none ∧ Unlocked f [3] [1] ∧ Accesses f (f.ctx.reg 1) 8 needTake p ∧ f.mem.isFull (keySram 64 0x40) = true ∧
    f.mem.feServed (keySram 64 0x40) = false ∧ releaseDone f .core = true := by
  and_intros <;> first | decide +kernel | (constructor <;> decide +kernel)

/-- Slot 3 of core 64 sleeps on the word at 0x40 of its SRAM. -/
def asleepOn (kind : FeKind) (full : Bool) : State :=
  (user 0x40 5).modMem fun m => { m.setFull (keySram 64 0x40) full with
    feq := [(keySram 64 0x40, [{ core := 64, slot := 3, kind, scope := .core }])] }

theorem witness_FullEmptyBitsAndService :
    let s := user 0x40 5
    let p : Place := .sram 64 0x40 false
    Accesses s (s.ctx.reg 1) 8 { needWrite with quiet := true } p ∧
    Accesses s (s.ctx.reg 1) 8 { needRead with quiet := true } p ∧ settled s p 8 = true ∧
    (asleepOn (.take 4) true).mem.sleepers (keySram 64 0x40) = [{ core := 64, slot := 3, kind := .take 4, scope := .core }] ∧
    (asleepOn (.take 4) true).mem.isFull (keySram 64 0x40) = true ∧
    (asleepOn (.stfe 9 false) false).mem.isFull (keySram 64 0x40) = false ∧
    (placeOfKey (keySram 64 0x40)).key? (asleepOn (.stfe 9 false) false) = some (keySram 64 0x40) ∧
    isForeign 64 = false ∧ s.ctx.psn 1 = false ∧ s.mem.feServed (keySram 64 0x40) = false ∧
    (asleepOn (.stfe 9 false) false).mem.isArmed (keySram 64 0x40 - keySram 64 0x40 % 16) = false ∧
    (let z : FeSleeper := { core := 64, slot := 3, kind := .take 4, scope := .core, turn := some 8 }
     let y : FeSleeper := { core := 64, slot := 4, kind := .ldfe 4, scope := .core, since := 9 }
     let l := [(keySram 64 0x40, [z, y])]
     let t : State := { (asleepOn (.take 4) true).modMem fun m => { m with feq := l } with cycle := 9 }
     t.mem.sleepers (keySram 64 0x40) = [z, y] ∧ (y.core, y.slot) ≠ (z.core, z.slot) ∧
      (∀ x ∈ [z, y], x.turn ≠ some t.cycle.toNat)) := by
  and_intros <;> first | decide +kernel | (constructor <;> decide +kernel)

theorem witness_CacheForms :
    let s := user 0x10000000 0
    let n := user 0x10010000 0
    let u := user 0x7FFFF 0
    let p : Place := .global 0x10000 false false
    let q : Place := .global 0x20000 true false
    let r : Place := .sram 64 0x7FFFF false
    Unlocked s [] [1] ∧ s.ctx.psn 1 = false ∧ settled s p.lineStart 128 = true ∧ cacheWaits s s.cur.1 p = false ∧
    AccessesLine s (s.ctx.reg 1) { rd := true, noOwner := true } p ∧ p.offset? = some 0x10000 ∧
    AccessesLine s (s.ctx.reg 1) needWrite p ∧ usesCache s s.cur.1 p = true ∧
    resolve s s.agent (s.ctx.reg 1) 1 {} false true = .ok p ∧
    (tlbLookup s s.cur.1 s.agent.realm (s.ctx.reg 1)).isSome = true ∧
    (s.cluster (clusterOf s.cur.1)).emptyWays 0x10000 ≠ [] ∧
    AccessesLine n (n.ctx.reg 1) needWrite q ∧ q.lineStart.key? n = some 0x20000 ∧ usesCache n n.cur.1 q = false ∧
    (∀ c x w, q ≠ .other c x w) ∧ AccessesLine u (u.ctx.reg 1) needWrite r ∧
    r.lineStart.key? u = some (keySram 64 0x7FF80) ∧
    (let first := request (.global 0x10000 false false) true false
     let next := { first with id := 1, chained := true }
     let t := s.modMem fun m => { m with reqs := [first, next], nextReq := 2 }
     t.mem.reqs.find? (fun x => x.id == next.id) = some next ∧ first ∈ t.mem.reqs ∧ first.id + 1 = next.id ∧
      first.done = false) := by
  and_intros <;> first | decide +kernel | (constructor <;> decide +kernel) | (intro _ _ _ h; cases h)

/-- The memory of s with the 64-bit words l: keys and values. -/
def withWords (l : List (Nat × Word)) (s : State) : State :=
  s.modMem fun m => l.foldl (fun m p => m.write p.1 8 p.2.toNat) m

/-- A reservation of slot 3 of core 64 on the line at 0x10000. -/
def reserved (broken : Bool) (s : State) : State :=
  s.modMem fun m => { m with resv := [⟨64, 3, [0x200], 1, none, broken, [], [0x10000000]⟩] }

theorem witness_QuadLines :
    let s := withWords [(keySram 64 0x7FFF8, 0x10000000)] (user 0x7FFF8 0x7FF80)
    let lines : List (Word × Place) := [(0x10000000, .global 0x10000 false false)]
    let u := user 0x7FE00 0
    let v := user 0x7FF80 0
    Unlocked s [3] [1, 2] ∧ s.ctx.psn 1 = false ∧ s.ctx.psn 2 = false ∧ s.cur.1 ≠ mgmtCore ∧
    (s.ctx.reg 1).toNat % 8 = 0 ∧ (s.ctx.reg 2).toNat % 128 = 0 ∧ (s.ctx.reg 1).toNat + 8 * (0 + 1) ≤ 0x80000 ∧
    (s.ctx.reg 2).toNat + 128 * (0 + 1) ≤ 0x80000 ∧
    (qreadLines s (s.ctx.reg 1) 1 []).getRight? = some lines ∧ (∀ l ∈ lines, l.2.offset? ≠ none) ∧
    (∀ l ∈ lines, ∀ m ∈ lines, homeOf s l.2 = homeOf s m.2) ∧ ownsCore s s.agent s.cur.1 needWrite = true ∧
    linesWatched s needRead (lines.map (·.1)) = none ∧ (∀ l ∈ lines, cacheWaits s s.cur.1 l.2 = false) ∧
    s.ctx.answer = none ∧ step1Done s .package = true ∧ engineIdle s = true ∧
    settled s (.sram s.cur.1 (s.ctx.reg 1).toNat false) 8 = true ∧
    (∀ l ∈ lines, (s.cluster (clusterOf s.cur.1)).line ((l.2.offset?).getD 0) = none) ∧
    (List.range 128).all (fun j => !s.mem.isArmed (keySram 64 0x7FF80 + j)) = true ∧
    Unlocked u [3] [1] ∧ (u.ctx.reg 1).toNat % 128 = 0 ∧ (u.ctx.reg 1).toNat + 128 * 4 ≤ 0x80000 ∧
    ownsCore u u.agent u.cur.1 needRead = true ∧ linesWatched (reserved false v) needWrite [0x10000000] = none ∧
    u.mem.resvOf u.cur.1 u.cur.2 = none ∧ step1Done u .package = true ∧ (v.ctx.reg 1).toNat + 128 ≤ 0x80000 ∧
    (reserved false v).mem.resvOf 64 3 = some ⟨64, 3, [0x200], 1, none, false, [], [0x10000000]⟩ ∧
    (reserved true v).mem.resvOf 64 3 = some ⟨64, 3, [0x200], 1, none, true, [], [0x10000000]⟩ ∧
    releaseDone (reserved false v) .package = true ∧ (reserved false v).ctx.answer = none ∧
    ((reserved false v).cluster 4).cacheBusy = false ∧ [0x200].Nodup ∧ 128 * 0x200 < 2 ^ 42 := by
  and_intros <;> first | decide +kernel | (constructor <;> decide +kernel)

/-- Cluster 4's cache holds the line at 0x10000 dirty. -/
def cached (s : State) : State :=
  s.modCluster 4 fun n => { n with lines := [(0x200, some { data := 7, present := 0xFF, dirty := 0xFF, writers := 1 })] }

theorem witness_PostedAccessesPerform :
    let r := request (.global 0x1FFF8 true false) true false
    let c := request (.global 0x1FFF8 false false) true false
    let l := request (.sram 64 0x7FFF8 false) false false
    let d := request (.sram 64 0x7FFF8 false) false true
    (posting r).mem.reqs.find? (fun q => q.id == r.id) = some r ∧ mayPerform (posting r) r = true ∧
    hostGone (posting r) r = false ∧ r.place.key? (posting r) = some 0x1FFF8 ∧
    usesCache (posting r) r.core r.place = false ∧ (posting r).mem.isArmed (0x1FFF8 - 0x1FFF8 % 16) = false ∧
    hostGone (posting c) c = false ∧ ((posting c).cluster (clusterOf c.core)).emptyWays 0x1FFF8 ≠ [] ∧ pkg.host.linkUp = true ∧
    mayPerform (posting c) c = true ∧ usesCache (posting c) c.core c.place = true ∧ c.place.offset? = some 0x1FFF8 ∧
    0x1FFF8 % 128 + c.size ≤ 128 ∧ mayPerform (posting l) l = true ∧ l.place.key? (posting l) = some (keySram 64 0x7FFF8) ∧
    d.done = true ∧ ((posting d).ctxAt d.core d.slot).gen = d.gen ∧ ((posting d).ctxAt d.core d.slot).occupied = true ∧
    ((posting { d with gen := 1 }).ctxAt d.core d.slot).gen ≠ 1 ∧
    (posting { r with done := true }).mem.reqs.find? (fun q => q.id == r.id) = some { r with done := true } ∧
    ((cached (user 0 0)).cluster 4).line (128 * 0x200) =
      some { data := 7, present := 0xFF, dirty := 0xFF, writers := 1 } := by
  and_intros <;> decide +kernel

theorem witness_AddressFaultsTrap :
    let s := user 0x80000 0
    let p := tainted 0x10000000 0
    let h := at_ 3 fun x => (x.setReg 1 0x10020000 false).setReg 2 5 true
    TakesTraps s ∧ Unlocked s [3] [1, 2] ∧ s.ctx.psn 1 = false ∧ s.answered = none ∧
    resolve s s.agent (s.ctx.reg 1) 8 needBoth true false = .bad .bounds ∧ TakesTraps p ∧ Unlocked p [3] [1] ∧
    p.ctx.psn 1 = true ∧ TakesTraps h ∧ Unlocked h [] [2, 1] ∧ h.ctx.psn 1 = false ∧ h.ctx.psn 2 = true ∧
    Accesses h (h.ctx.reg 1) 8 needStore (.host 0x10000000000 false false) := by
  and_intros <;> first | decide +kernel | (constructor <;> decide +kernel)

theorem witness_EngineFormsDispatch :
    let s := task0 0x7FFC0 0x40
    CanDispatch s 1 ∧ Unlocked s [3] [1, 2] ∧ clean [1, 2] s.ctx ∧ aligned [1, 2] 4 s.ctx ∧ layerOperands 1 2 s.ctx ∧
    anyOperands s.ctx ∧ encode (.vadd 1 2 3 0 .fp32 false false) = some 0x8848C000 ∧
    (encode (.mxform 1 0 2)).isSome = true ∧ engineIdle s = true ∧ s.cur.2 = 0 ∧ s.cur.1 ≠ mgmtCore ∧
    s.here.engine.fault = none := by
  and_intros <;> first
    | decide +kernel | trivial | (simp only [clean, aligned]; decide +kernel)
    | (constructor <;> decide +kernel)

/-- Core 64 with class 61 an event queue of 256 flits at address 0, n of them present. -/
def withRing (n : BitVec 17) (s : State) : State :=
  s.modCore 64 fun x => { x with classes := [(61, { mode := 2, logsize := 0, head := n, enabled := true })] }

theorem witness_PopsAndFramesDispatch :
    let s := withRing 17 (task0 61 0)
    let t := withWords [(keySram 64 0, 0x8848D000_00000000#64), (keySram 64 8, 0xB041D400_8848D000#64)] (task0 0 0)
    CanDispatch s 1 ∧ Unlocked s [] [1] ∧ s.ctx.psn 1 = false ∧ (encode (.evpopv 2 1)).isSome = true ∧
    (s.ctx.reg 1).toNat < 62 ∧ classDenied s (s.ctx.reg 1) = false ∧ (s.here.cls 61).isQueue = true ∧
    CanDispatch t 2 ∧ t.here.engine.rptHeld = none ∧
    (frameWords t 2 0).getRight? = some [0x8848D000, 0x8848D000] := by
  and_intros <;> first | decide +kernel | (constructor <;> decide +kernel)

/-- An entry of the engine of core 64. -/
def entryOf (w : IWord) (a : Word) : Entry := { seq := 0, pc := 0, word := w, opA := a }

/-- Core 64's engine runs the entry. -/
def runningOne (x : Entry) : State := (task0 0 0).modEngine 64 fun e => { e with running := [x], nextSeq := 1 }

theorem witness_EnginesRun :
    let h := entryOf 0x8848C000 0
    let q := (task0 0 0).modEngine 64 fun e => { e with queue := [h], nextSeq := 1 }
    let r := runningOne h
    let bad := runningOne (entryOf 0x80480100 0x80000)
    let f := (task0 0 0).modEngine 64 fun e => { e with fault := some (0, 5) }
    let x : Scan := { words := List.replicate 8 0, elem := 0, flit := some { word := 1 } }
    let c := (runningOne (entryOf 0x9F0C2802 0)).modEngine 64 fun e => { e with scan := some x }
    pipeFree q 64 (pipeOf h.word) = true ∧ nextGranted q 64 (pipeOf h.word) = some 64 ∧
    Runs r 64 h (.vadd 1 2 3 0 .fp32 false false) ∧
    (match effect none (.vadd 1 2 3 0 .fp32 false false) 64 h r with
      | .ok (some _, u) => (u.engine 64).old.isEmpty && taskLives u 64 h
      | _ => false) = true ∧
    Runs bad 64 (entryOf 0x80480100 0x80000) (.vld 1 4 0 .w) ∧
    (match effect none (.vld 1 4 0 .w) 64 (entryOf 0x80480100 0x80000) bad with
      | .error (.fault _ _ _ u) => (u.engine 64).fault.isNone && taskLives u 64 (entryOf 0x80480100 0x80000)
      | _ => false) = true ∧
    (f.engine 64).fault = some (0, 5) ∧ coprocReady (f.engine 64) = true ∧ (f.ctxAt 64 0).occupied = true ∧
    (f.engine 64).raised = false ∧ (f.core 64).stopped = false ∧ (f.ctxAt 64 0).joining = false ∧
    (f.ctxAt 64 0).pauseLeft = 0 ∧ (f.ctxAt 64 0).answer = none ∧ (f.ctxAt 64 0).await = none ∧
    (f.ctxAt 64 0).frozen = false ∧ (f.core 64).trap.active = false ∧ (f.core 64).trap.held = [] ∧
    (c.engine 64).old = [] ∧ x.nan = false ∧ x.emitted = 0 ∧ x.moved = false ∧ c.mayInject 64 (scanVc c 64 x.words) = true ∧
    (c.engine 64).running.find? (fun y => pipeOf y.word = 1) = some (entryOf 0x9F0C2802 0) ∧
    (c.core 64).stopped = false ∧ taskLives c 64 (entryOf 0x9F0C2802 0) = true ∧ scanEnd x.words 0 ≤ x.elem := by
  and_intros <;> first | decide +kernel | (constructor <;> rfl)

theorem witness_VectorResults :
    Runs (runningOne (entryOf 0x8848C000 0)) 64 (entryOf 0x8848C000 0) (.vadd 1 2 3 0 .fp32 false false) ∧
    VType.fp .fp32 ≠ none ∧ VType.fp .int8 = none := by
  and_intros <;> first | decide +kernel | (constructor <;> rfl)

/-- An entry of the engine of core 64 whose word is that of i. -/
def entryIs (i : Instr) (a b : Word) : Entry := { entryOf ((encode i).getD 0) a with opB := b }

/-- An entry that runs, as a computation. -/
theorem runs_of {s : State} {en : Entry} {i : Instr}
    (h : ((s.engine 64).running.find? (·.seq == en.seq) = some en ∧ decode? en.word = some i) ∧
      (en.frame.isNone && (s.engine 64).old.isEmpty && !(s.core 64).stopped && (s.engine 64).scan.isNone && taskLives s 64 en) =
        true) : Runs s 64 en i := by
  obtain ⟨⟨h1, h2⟩, h3⟩ := h
  simp only [Bool.and_eq_true, List.isEmpty_iff, Option.isNone_iff_eq_none, Bool.not_eq_true'] at h3
  obtain ⟨⟨⟨⟨h4, h5⟩, h6⟩, h7⟩, h8⟩ := h3
  refine ⟨h1, ?_, h4, h5, h6, h7, h8⟩
  revert h2
  unfold decode?
  cases decode en.word <;> simp

/-- Bytes of core 64's local SRAM that its realm owns. -/
theorem inSram_of {s : State} {en : Entry} {need : Need} {va : Word} {n : Nat}
    (h : (ownsCore s { core := 64, realm := en.realm, super := false } 64 need && decide (va.toNat + n ≤ 0x80000)) = true) :
    InSram s 64 en need va n := by
  simp only [Bool.and_eq_true, decide_eq_true_eq] at h
  exact ⟨h.1, h.2⟩

/-- Nothing is armed and no copy is posted. -/
theorem noArrivalWord_of {s : State} (h : (s.mem.armed.isEmpty && s.mem.copies.isEmpty) = true) : NoArrivalWord s 64 := by
  simp only [Bool.and_eq_true, List.isEmpty_iff] at h
  intro b hb
  simp [h.1, h.2] at hb

/-- MATCFG0 of one dense group of BF16, and of one sparse group of E4M3 with two elements of four; rows of A at 32 bytes and
of B at 128 (Table 10-4). -/
def bf16Entry : Entry := { entryIs (.mma 1 4 5) 0 0x1000 with cfg0 := 4 <<< 12 ||| 16 }
def e4m3Entry : Entry :=
  { entryIs (.mmas 1 4 5) 0 0x1000 with cfg0 := 1 <<< 40 ||| 1 <<< 36 ||| 4 <<< 12 ||| 16, cfg1 := 0x7FF00 }

/-- Core 64's engine runs x; the metadata words of e4m3Entry pick elements 0 and 1. -/
def sparse : State :=
  withWords ((List.range 32).map fun i => (keySram 64 (0x7FF00 + 8 * i), 0x0000001000000010)) (runningOne e4m3Entry)

theorem witness_MatrixAndMemoryResults :
    let st := { entryIs (.mstacc 1 4) 0 0 with cfg0 := 2 <<< 30 ||| 16 <<< 48 }
    let ld := { entryIs (.mldacc 1 4) 0 0 with cfg0 := 32 <<< 48 }
    let x (w : Word) := entryIs (.mxform 1 0 5) w 0
    Runs (runningOne bf16Entry) 64 bf16Entry (.mma 1 4 5) ∧ Runs sparse 64 e4m3Entry (.mmas 1 4 5) ∧
    Runs (runningOne st) 64 st (.mstacc 1 4) ∧ st.cfg0 &&& 0xF00000013F000000 = 0 ∧
    InSram (runningOne st) 64 st needWrite st.opA (63 * 128 + 128) ∧ NoArrivalWord (runningOne st) 64 ∧
    Runs (runningOne ld) 64 ld (.mldacc 1 4) ∧ InSram (runningOne ld) 64 ld needRead ld.opA (63 * 256 + 256) ∧
    Runs (runningOne (x 0x7F01)) 64 (x 0x7F01) (.mxform 1 0 5) ∧ (0x7F01 : Word) &&& 0xFFFFFFFFFFFF80FC = 0 ∧
    Runs (runningOne (x 0x602)) 64 (x 0x602) (.mxform 1 0 5) ∧ (0x602 : Word) &&& 0xFFFFFFFFFFFF80FC = 0 ∧
    ((0x602 : Word).extractLsb' 8 6).toNat ≤ 6 := by
  and_intros <;> first
    | decide +kernel | exact inSram_of (by decide +kernel) | exact noArrivalWord_of (by decide +kernel)
    | exact runs_of (by decide +kernel)

theorem witness_MatrixAndMemoryResults_dense : MmaArea.Good ⟨runningOne bf16Entry, 64, bf16Entry, false, bf16, bf16⟩ where
  formats := by decide +kernel
  reserved := by decide +kernel
  scaled := by decide +kernel
  dense := by decide +kernel
  strides := by decide +kernel
  aligned := by decide +kernel
  areas := ⟨inSram_of (by decide +kernel), inSram_of (by decide +kernel), nofun, fun h => absurd h (by decide +kernel)⟩
  legal := nofun

theorem witness_MatrixAndMemoryResults_sparse : MmaArea.Good ⟨sparse, 64, e4m3Entry, true, e4m3, e4m3⟩ where
  formats := by decide +kernel
  reserved := by decide +kernel
  scaled := by decide +kernel
  dense := by decide +kernel
  strides := by decide +kernel
  aligned := by decide +kernel
  areas := ⟨inSram_of (by decide +kernel), inSram_of (by decide +kernel), fun _ => inSram_of (by decide +kernel),
    fun h => absurd h (by decide +kernel)⟩
  legal := by
    have h : ∀ i, i < 64 → ∀ g, g < 1 →
        (MmaArea.metaWord ⟨sparse, 64, e4m3Entry, true, e4m3, e4m3⟩ i g = 0x10) := by decide +kernel
    intro _ i g hi hg
    have m := h i hi g hg
    have n : MmaArea.n ⟨sparse, 64, e4m3Entry, true, e4m3, e4m3⟩ = 2 := by decide +kernel
    rw [m, n]
    refine ⟨by decide, fun p hp => ?_⟩
    obtain rfl : p = 0 := by omega
    simp [MmaArea.index, m]

/-- The last of the 32 lanes of a VLD or VST of words that ends at the top of the SRAM. -/
theorem witness_MatrixAndMemoryResults_lanes :
    let en (i : Instr) : Entry := { entryIs i 0x7FF80 0 with prog := 31, popped := List.replicate 31 (0, false) }
    let l := en (.vld 1 4 0 .w)
    let t := en (.vst 1 4 0 .w)
    Runs (runningOne l) 64 l (.vld 1 4 0 .w) ∧ Runs (runningOne t) 64 t (.vst 1 4 0 .w) ∧
    (((List.range 32).filter (((runningOne l).engine 64).mask 0).getLsbD).drop l.popped.length) = [31] ∧
    (((List.range 32).filter (((runningOne t).engine 64).mask 0).getLsbD).filter (t.prog ≤ ·)) = [31] ∧
    (l.opA + BitVec.ofNat 64 (31 * 4)).toNat % 4 = 0 ∧
    InSram (runningOne l) 64 l needRead (l.opA + BitVec.ofNat 64 (31 * 4)) 4 ∧
    InSram (runningOne t) 64 t needWrite (t.opA + BitVec.ofNat 64 (31 * 4)) 4 ∧ NoArrivalWord (runningOne t) 64 := by
  and_intros <;> first
    | decide +kernel | exact inSram_of (by decide +kernel) | exact noArrivalWord_of (by decide +kernel)
    | exact runs_of (by decide +kernel)

/-- A layer of n neurons from 1000 on and columns 100 to 102 whose E4M3 weights core w of the quad holds, with a ring of two
slots and quanta of 2^-4 (Table 2-2). -/
def layer (w n : Nat) : List Word :=
  [BitVec.ofNat 64 (w * 2 ^ 60 + n * 2 ^ 32 + 0x4000), BitVec.ofNat 64 (100 * 2 ^ 32 + 3),
   BitVec.ofNat 64 (0x1000 * 2 ^ 32 + n * 2 ^ 19 + 0x2000), BitVec.ofNat 64 (2 ^ 48 + 2 * 2 ^ 40 + 0x3000),
   0x3F80000000FEFC08, BitVec.ofNat 64 (5 * 2 ^ 58 + 2 * 2 ^ 52 + 1000 * 2 ^ 22 + 777), 0, 0]

/-- Core 64's engine runs x with the layer l at 0x800; accumulator 0 is 1; cores 64 and 65 are the realm's. -/
def layered (l : List Word) (x : Entry) : State :=
  withWords ((keySram 64 0x2000, 0x3F800000) :: l.zipIdx.map fun p => (keySram 64 (0x800 + 8 * p.2), p.1))
    ((runningOne x).modMem fun m => { m with ownCore := [(64, 0xE000), (65, 0xE000)] })

/-- An event flit of kind 0 with one quantum for the last column. -/
def event (i : Instr) : Entry := entryIs i 0x800 (BitVec.ofNat 64 (2 ^ 44 + 102 * 2 ^ 22))

/-- The layer stands where its computable parts do. -/
theorem layerAt_of {s : State} {en : Entry} {l : List Word} {ring : Bool}
    (h : (ownsCore s { core := 64, realm := en.realm, super := false } 64 needRead &&
      ownsCore s { core := 64, realm := en.realm, super := false } 64 needBoth && decide (en.opA = 0x800) &&
      decide (l = (List.range 8).map fun i => s.mem.load (keySram 64 (0x800 + 8 * i)) 8) && s.mem.poison.isEmpty &&
      !layMalformed l ring && s.usableCore (64 + layField l 0 60 2) && s.mem.armed.isEmpty && s.mem.copies.isEmpty) = true)
    (a : Apart ([(0x800, 64), (layField l 2 0 19, 4 * layField l 2 19 13), (layField l 2 32 19, 4 * layField l 2 19 13),
      (layField l 3 0 19, 4 * layField l 3 40 5 * layField l 2 19 13)] ++
      if layField l 0 60 2 = 64 % 4 then [(layField l 0 0 19, (layField l 1 0 22 - 1) * layField l 0 32 20 +
        layField l 2 19 13 * if layField l 0 56 4 = 1 then 2 else 1)] else [])) : LayerAt s 64 en l ring := by
  simp only [Bool.and_eq_true, decide_eq_true_eq, List.isEmpty_iff, Bool.not_eq_true'] at h
  obtain ⟨⟨⟨⟨⟨⟨⟨⟨h1, h2⟩, h3⟩, h4⟩, h5⟩, h6⟩, h7⟩, h8⟩, h9⟩ := h
  have e : en.opA.toNat = 0x800 := by rw [h3]; rfl
  exact {
    reads := ⟨h1, by omega⟩
    writes := ⟨h2, by omega⟩
    aligned := by omega
    words := by rw [e]; exact h4
    clean := by simp [Mem.psn, h5]
    good := h6
    weights := h7
    apart := by rw [e]; exact a
    unarmed := by intro b hb; simp [h8, h9] at hb }

theorem witness_EventResults :
    let v := event (.vscmac 9 4 5)
    let r := event (.vdring 9 4 5)
    let t := entryIs (.vdtick 9 4) 0x800 0
    Runs (layered (layer 0 1) v) 64 v (.vscmac 9 4 5) ∧ LayerAt (layered (layer 0 1) v) 64 v (layer 0 1) false ∧
    Runs (layered (layer 0 1) r) 64 r (.vdring 9 4 5) ∧ LayerAt (layered (layer 0 1) r) 64 r (layer 0 1) true ∧
    LayerAt (layered (layer 1 2) v) 64 v (layer 1 2) false ∧
    resolve (layered (layer 1 2) v) { core := 64, realm := 0, super := false }
      ((layered (layer 1 2) v).windowSram 65 (0x4000 + 2 * 2)) 1 needRead false true = .ok (.sram 65 0x4004 true) ∧
    Runs (layered (layer 0 1) t) 64 t (.vdtick 9 4) ∧ LayerAt (layered (layer 0 1) t) 64 t (layer 0 1) false := by
  and_intros <;> first
    | decide +kernel | exact layerAt_of (by decide +kernel) (by unfold Apart; decide +kernel)
    | exact runs_of (by decide +kernel)

theorem witness_EventResults_scans :
    let d := entryIs (.vsdscan 9 4 5) 0x800 (2 ^ 63)
    let s (n : Nat) := layered (layer 0 n) d
    let x (n k : Nat) : Scan := { words := layer 0 n, elem := k, fl := d.fl, moved := false }
    let g : ScanFlit := { word := 1, recon := some 0 }
    let u := (s 1).modEngine 64 fun e => { e with scan := some { x 1 0 with flit := some g } }
    let w := (s 65).modEngine 64 fun e => { e with scan := some (x 65 64) }
    Runs ((s 1).modEngine 64 fun e => { e with scan := none }) 64 d (.vsdscan 9 4 5) ∧ ScanStands (s 1) 64 d (x 1 0) ∧
    (examine (s 1) 64 (layer 0 1) 0).n ≠ 0 ∧ ScanStands w 64 d (x 65 64) ∧ (examine w 64 (layer 0 65) 64).n = 0 ∧
    (examine w 64 (layer 0 65) 64).psn = false ∧ (u.engine 64).scan = some { x 1 0 with flit := some g } ∧
    LayerAt u 64 d (layer 0 1) false ∧ u.mayInject 64 (scanVc u 64 (layer 0 1)) = true ∧
    (u.engine 64).running.find? (fun y => pipeOf y.word = 1) = some d := by
  and_intros <;> first
    | decide +kernel | exact layerAt_of (by decide +kernel) (by unfold Apart; decide +kernel)
    | exact runs_of (by decide +kernel)

/-! ### Messages and tasks -/

/-- Route classes at router 1: class 1 for events on VC 4, class 2 for task messages, class 3 not valid. -/
def routed (s : State) : State :=
  s.modRouter 1 fun r =>
    { r with entries := [(1, { valid := true, vc := 4, lenmax := 4 }), (2, { valid := true, vc := 2, lenmax := 4 })] }

/-- A packet of class cls for core 64 of package 0. -/
def packet (vc cls : Nat) (l : List (Word × Bool)) : Packet :=
  { vc, flits := (BitVec.ofNat 64 (cls * 2 ^ 58 + 64), false) :: l, srcPkg := 0, srcCore := 65, entry := none, via := none }

/-- Clean words, as a computation. -/
theorem clean_of {l : List (Word × Bool)} (h : (l.all fun v => !v.2) = true) : ∀ v ∈ l, v.2 = false :=
  fun v m => by simpa using List.all_eq_true.mp h v m

theorem witness_MessagesAreSent :
    let s := routed (user (1 <<< 58 ||| 64) 5)
    let t := routed (user (2 <<< 58 ||| 64) 5)
    let u := routed (user (2 <<< 58 ||| (64 <<< 11)) 5)
    let p (x : Packet) : State := at_ 3 fun y => { y with sending := some x }
    Unlocked s [] [1] ∧ s.ctx.psn 1 = false ∧ messageCheck s false 1 0 1 = none ∧
    releaseDone s (messageScope s 1 0) = true ∧ Unlocked t [] (1 :: (payload t.ctx 2 0).map (·.1)) ∧
    Unlocked t [] (1 :: (payload t.ctx 28 3).map (·.1)) ∧ messageCheck t true 2 0 2 = none ∧
    messageCheck t true 2 0 5 = none ∧ retryFull t.here = false ∧ (∀ v ∈ (payload t.ctx 2 0).map (·.2), v.2 = false) ∧
    messageCheck u true 2 ((u.ctx.reg 1).extractLsb' 23 10).toNat 2 = none ∧
    ((p (packet 4 1 [])).ctxAt 64 3).sending = some (packet 4 1 []) ∧
    (p (packet 4 1 [])).mayInject 64 4 = true ∧ (p (packet 2 2 [])).mayInject 64 2 = true ∧
    ((p (packet 2 2 [])).ctxAt 64 3).sending = some (packet 2 2 []) ∧ pktTok (packet 2 2 []) = false ∧
    fget ((p (packet 2 2 [])).core 64).retry none 0 = none := by
  and_intros <;> first | exact clean_of (by decide +kernel) | decide +kernel | (constructor <;> decide +kernel)

theorem witness_ClassesAndTokens :
    let s := withRing 1 (user 61 0)
    let e := withRing 0 (user 61 0)
    let t := user 62 0
    let u := user 63 0
    Unlocked s [3] [1] ∧ Unlocked s [] [1] ∧ s.ctx.psn 1 = false ∧ (s.ctx.reg 1).toNat < 62 ∧
    classDenied s (s.ctx.reg 1) = false ∧ (s.here.cls 61).isQueue = true ∧ (s.here.cls 61).head ≠ (s.here.cls 61).tail ∧
    (s.here.cls 61).pending = false ∧ (e.here.cls 61).head = (e.here.cls 61).tail ∧ (t.ctx.reg 1).toNat = 62 ∧
    Unlocked t [3] [1] ∧ (u.ctx.reg 1).toNat = 63 ∧ Unlocked s [3] [] ∧ s.cur.1 < 4096 ∧ s.cur.2 < 8 := by
  and_intros <;> first | decide +kernel | (constructor <;> decide +kernel)

/-- Router 1 holds a packet at its inputs, or at its outputs. -/
def holding (i : List (CameFrom × Packet)) (o : List OutCopy) : State :=
  (routed (user 0 0)).modRouter 1 fun r => { r with inq := i, outq := o }

/-- Wiolo port 5 in state st, with nothing held. -/
def ported (st : BitVec 2) (s : State) : State := { s with wioloPorts := [(5, { state := st })] }

theorem witness_FabricMovesPackets :
    let s := holding [(.row 0, packet 4 1 [])] []
    let t := holding [(.localPort 4, packet 2 2 [])] []
    let u := holding [(.row 0, packet 4 3 [])] []
    let g : OutCopy := { out := .cluster 4 1, p := packet 4 1 [], src := .row 0, id := 0 }
    let h : OutCopy := { out := .router 2, p := packet 2 2 [(1, false)], src := .localPort 4, id := 0 }
    let w : OutCopy := { out := .wiolo 5, p := packet 2 2 [(1, false)], src := .localPort 4, id := 0 }
    let x : OutCopy := { w with p := packet 1 2 [] }
    let first (s : State) (g : OutCopy) : Bool :=
      ((s.router 1).outq.take 0).all (fun h => !(h.out.key == g.out.key && sameStream h.p g.p)) && outRoom s 1 g &&
        linkVc s 1 g.out == some g.p.vc
    firstOfStream ((s.router 1).inq.map (·.2)) 0 = true ∧ (s.entry 1 1).valid = true ∧ (s.entry 1 1).cast = false ∧
    (s.router 1).inq[0]? = some (.row 0, packet 4 1 []) ∧ (CameFrom.row 0).atSource = false ∧
    (s.entry 1 1).coal = false ∧ pktPkg (packet 4 1 []) = s.package.toNat ∧ pktCore (packet 4 1 []) / 64 = 1 ∧
    s.usableCore (pktCore (packet 4 1 [])) = true ∧ (packet 4 3 []).entry = none ∧
    firstOfStream ((t.router 1).inq.map (·.2)) 0 = true ∧ (t.entry 1 2).valid = true ∧ (packet 2 2 []).vc = 2 ∧
    (u.entry 1 3).valid = false ∧ firstOfStream ((u.router 1).inq.map (·.2)) 0 = true ∧
    unitWaits s 1 (.row 0) 4 = false ∧ unitWaits t 1 (.localPort 4) 2 = false ∧
    ((holding [] [g]).router 1).outq[0]? = some g ∧ first (holding [] [g]) g = true ∧
    ((holding [] [h]).router 1).outq[0]? = some h ∧ first (holding [] [h]) h = true ∧
    ((ported 2 (holding [] [w])).router 1).outq[0]? = some w ∧ first (ported 2 (holding [] [w])) w = true ∧
    (fget (ported 2 (holding [] [w])).wioloPorts {} 5).state = 2 ∧
    (fget (ported 1 (holding [] [x])).wioloPorts {} 5).state ≠ 2 ∧ first (ported 1 (holding [] [x])) x = true ∧
    (t.router 1).inq[0]? = some (.localPort 4, packet 2 2 []) ∧ 0 = (t.router 1).outq.length + 0 ∧
    (61#6).toNat < 62 ∧ 2 ≤ (2#64).toNat % 32 ∧ (16#64).toNat % 32 ≤ 16 := by
  and_intros <;> decide +kernel

/-- Core 64 with packets at its interface. -/
def arriving (l : List Packet) (s : State) : State := s.modCore 64 fun x => { x with arrivals := l }

theorem witness_EventFlitsReachRings :
    let s := arriving [packet 4 61 []] (withRing 63 (user 0 0))
    let t := arriving [packet 5 61 []] ((withRing 64 (user 0 0)).modCore 64 fun x => { x with droplogCount := 64 })
    let u := (withRing 0 (user 0 0)).modCore 64 fun x => { x with vc4buf := [packet 4 61 []] }
    let r := (s.core 64).cls 61
    let i := holding [(.row 0, packet 4 1 [])] []
    let g : OutCopy := { out := .cluster 4 1, p := packet 4 1 [], src := .row 0, id := 0 }
    let o := holding [] [g]
    ((i.router 1).inq[0]? = some (.row 0, packet 4 1 []) ∧ firstOfStream ((i.router 1).inq.map (·.2)) 0 = true ∧
      (CameFrom.row 0).atSource = false ∧ (i.entry 1 1).valid = true ∧ (i.entry 1 1).cast = false ∧
      (i.entry 1 1).coal = false ∧ pktPkg (packet 4 1 []) = i.package.toNat ∧ pktCore (packet 4 1 []) / 64 = 1 ∧
      i.usableCore (pktCore (packet 4 1 [])) = true) ∧
    ((o.router 1).outq[0]? = some g ∧ linkVc o 1 g.out = some g.p.vc ∧ outRoom o 1 g = true ∧
      ((o.router 1).outq.take 0).all (fun h => !(h.out.key == g.out.key && sameStream h.p g.p)) = true) ∧
    firstOfStream (s.core 64).arrivals 0 = true ∧ (packet 4 61 []).vc ≠ 2 ∧ (pktHead (packet 4 61 [])).getLsbD 57 = false ∧
    pktCls (packet 4 61 []) = 61 ∧ r.isQueue = true ∧ r.full = false ∧ (s.core 64).waits 61 = false ∧
    s.mem.isArmed (keySram 64 (r.slot r.head) - keySram 64 (r.slot r.head) % 16) = false ∧
    ((t.core 64).cls 61).full = true ∧ (packet 5 61 []).vc = 5 ∧ ((t.core 64).cls 61).thresh = 0 ∧
    (t.core 64).droplogCount.toNat = 64 ∧ firstOfStream (t.core 64).arrivals 0 = true ∧
    (u.core 64).vc4buf = [packet 4 61 []] ∧ ((u.core 64).cls 61).full = false ∧ ((u.core 64).cls 61).isQueue = true := by
  and_intros <;> decide +kernel

/-- Core 64 with class 2 a task class for the normal slots. -/
def handling (s : State) : State :=
  s.modCore 64 fun x => { x with classes := [(2, { mode := 1, handler := 0x40, enabled := true })] }

/-- Slots 1 to 6 of core 64 are occupied. -/
def crowded (s : State) : State :=
  [1, 2, 3, 4, 5, 6].foldl (fun s k => s.modCtxAt 64 k fun x => { x with occupied := true }) s

theorem witness_MessagesStartTasks :
    let p := packet 2 2 [(1, false), (2, false), (3, false), (4, true)]
    let s := arriving [p] (handling pkg)
    let t := arriving [p] (crowded (handling pkg))
    let q := { p with flits := (BitVec.ofNat 64 (2 * 2 ^ 58 + 2 ^ 54 + 3 * 2 ^ 51), false) :: p.flits.tail }
    let u := arriving [q] (handling (user 0 0))
    let v := arriving [q] (handling pkg)
    let st := messageStart ((s.core 64).cls 2) p
    let w := pkg.modCore 64 fun x => { x with starts := [st] }
    let left (s : State) : State := { s with cycle := 1 }.modCtxAt 64 6 fun x => { x with occupied := false, freed := some 0 }
    let y := left (crowded w)
    let z := left ((crowded pkg).modCore 64 fun x => { x with refusals := [(0, 65, false)] })
    firstOfStream (s.core 64).arrivals 0 = true ∧ p.vc = 2 ∧ pktTok p = false ∧ ((s.core 64).cls (pktCls p)).isTask = true ∧
    ((s.core 64).cls (pktCls p)).enabled = true ∧ freeSlot s 64 false = some 1 ∧
    handlerEngine ((s.core 64).cls (pktCls p)).handler = false ∧ p.flits.length ≤ 5 ∧ freeSlot t 64 false = none ∧
    (t.core 64).refusals.length < 8 ∧ (t.core 64).refusals.contains (p.srcPkg, p.srcCore, false) = false ∧
    pktTok q = true ∧ ((pktHead q).extractLsb' 51 3).toNat = 3 ∧ (u.ctxAt 64 3).occupied = true ∧
    (u.ctxAt 64 3).gen = (pktHead q).extractLsb' 43 8 ∧
    (List.range 32).all (fun j => !u.mem.isArmed (keySram 64 (0x7FF00 + 96) + j)) = true ∧ (v.ctxAt 64 3).occupied = false ∧
    ((u.core 64).cls (pktCls q)).isTask = true ∧ (w.core 64).starts = [st] ∧ st.engine = false ∧
    freedSlot w 64 false = none ∧ freeSlot w 64 false = some 1 ∧ (∀ cls, cls < 62 → handlerWaits (w.core 64) cls = false) ∧
    (y.core 64).starts = [st] ∧ freedSlot y 64 false = some 6 ∧ (y.ctxAt 64 6).occupied = false ∧
    freeSlot y 64 false = none ∧ (∀ cls, cls < 62 → handlerWaits (y.core 64) cls = false) ∧
    y.usableCore 64 = true ∧ z.usableCore 64 = true ∧ (z.core 64).starts = [] ∧ freedSlot z 64 false = some 6 ∧
    (z.core 64).refusals = [(z.package, 65, false)] ∧ (z.core 64).refusalOverflow = false ∧
    (∀ cls, cls < 62 → handlerWaits (z.core 64) cls = false) := by
  and_intros <;> decide +kernel

theorem witness_NoticesArrive :
    let n (x : Note) : State := { pkg with notes := [x] }
    let r (x : Note) : State :=
      (n x).modCore 64 fun y => { y with retry := [(3, some { packet := packet 2 2 [], order := 0 })] }
    (n (.acceptance 64 3)).notes[0]? = some (.acceptance 64 3) ∧
    fget ((r (.refuse 64 3)).core 64).retry none 3 = some { packet := packet 2 2 [], order := 0 } ∧
    (let q : Retry := { packet := packet 2 2 [], order := 0, refused := true }
     let f := (n (.free 64 (some 65))).modCore 65 fun y => { y with retry := [(3, some q)] }
     f.notes[0]? = some (.free 64 (some 65)) ∧ (∀ q ∈ refusedFor (f.core 65) 64, q.2.packet.vc = 2) ∧
      (refusedFor (f.core 65) 64).length = 1 ∧
      roomAfter (routerOf 65) 2 ((f.router (routerOf 65)).buffered (.localPort (clusterOf 65)) 2 + 0) = true) ∧
    (let w := (n (.watch 64 5 9)).modCore 64 fun y => { y with stopped := true }
     (w.core 64).stopped = true ∧ (w.core 64).trap.held = [] ∧ w.usableCore 64 = true) ∧
    ((n (.watch 64 5 9)).core 64).stopped = false ∧
    (n (.watch 64 5 9)).notes[0]? = some (.watch 64 5 9) ∧
    ((5 : Word).extractLsb' 12 10).toNat = (n (.watch 64 5 9)).package.toNat ∧
    (n (.watch 64 5 9)).usableCore 64 = true ∧ ((n (.watch 64 5 9)).core 64).trap.active = false ∧
    ((n (.watch 64 5 9)).core 64).trap.held = [] ∧
    (let s := { n (.watch 64 5 9) with badCores := [64] }
     s.notes[0]? = some (.watch 64 5 9) ∧ s.usableCore 64 = false) := by
  and_intros <;> decide +kernel

/-! ### Barriers and copies -/

/-- Tag 2 is enabled with the members l. -/
def tagged (l : List Member) (s : State) : State := s.modTag 2 fun t => { t with enable := true, members := l }

theorem witness_Barriers :
    let m : Member := { core := 64, slot := 3, first := 0, next := 0 }
    let s := tagged [m] (at_ 3 fun x => { x with barMember := 4 })
    let a := tagged [{ m with next := 1 }] (at_ 3 fun x => { x with barMember := 4, barArr := 0x10 })
    let b := tagged [{ m with next := 2 }] (at_ 3 fun x => { x with barMember := 4, barArr := 0x20 })
    let j := tagged [] (user 0 0)
    let o : TreeOp := ⟨64, 3, 2, .join, some 0⟩
    let jo : State := { (tagged [] (at_ 3 fun x => { x with joining := true })) with treeOps := [o] }
    let c := tagged [{ m with next := 1 }] (user 0 0) |>.modTag 2 fun t => { t with arrivals := [(0, 1)] }
    let r := { (a.modTag 2 fun t => { t with completed := [(0, 0)], done := 1 }) with cycle := 48 }
    let far := s.modTag 2 fun t => { t with xdom := true, pkgmap := 2, completed := [(0, 0)], done := 1 }
    let x : State := { far with cycle := 24 }
    slotOwes jo 64 3 = false ∧ TakesTraps s ∧ ((s.tag 2).enable = true ∧ (s.tag 2).realm = s.ctx.realm ∧
      s.ctx.inTag 2 = true ∧ MayUseTag s 2 ∧
      s.ctx.barResume = false ∧ releaseDone s (tagScope (s.tag 2).scope) = true ∧ s.ctx.arr 2 < 2 ∧ s.ctx.arr 2 = 0) ∧
    (j.ctx.inTag 2 = false ∧ j.ctx.joining = false ∧ (j.tag 2).enable = true ∧ (j.tag 2).realm = j.ctx.realm) ∧
    (a.ctx.arr 2 = 1 ∧ MayUseTag a 2 ∧ a.ctx.barResume = false ∧ a.ctx.arr 2 < 2 ∧ 2 ≤ b.ctx.arr 2 ∧ MayUseTag b 2 ∧
      b.ctx.barResume = false ∧ releaseDone b (tagScope (b.tag 2).scope) = true) ∧
      (TakesTraps (user 0 0) ∧ ((user 0 0).tag 2).enable = false) ∧
    (jo.treeOps = [o] ∧ (∀ t, t < 8 → (jo.tag t).completes = false) ∧ (jo.ctxAt 64 3).joining = true ∧
      o.asker = some (jo.ctxAt 64 3).gen) ∧
    (c.tag 2).completes = true ∧ (r.tag 2).completed = [(0, 0)] ∧ releaseDue r (r.tag 2) = some 48 ∧ 48 ≤ r.cycle.toNat ∧
    ((r.tag 2).members.map fun m => (m.core, m.slot)).Nodup ∧ flitOwed x (x.tag 2) 1 = some 0 ∧
    ((x.tag 2).pkgmap.getLsbD 1 = true ∧ 1 = (x.tag 2).gen + 1 ∧
      (x.tag 2).flits.any (fun h => h.1 == 1 && h.2.1 == 1) = false) ∧
    (j.tag 2).members = [] ∧ (s.tag 2).members ≠ [] ∧
    ((0x4000000000000000 : Word).extractLsb' 60 3 : BitVec 3).toNat ∈ [1, 2, 3, 4] := by
  and_intros <;> first | decide +kernel | (constructor <;> decide +kernel)

/-- The descriptor of four words at 0x40 of core 64's SRAM, g1 its address. -/
def described (a b c d : Word) : State :=
  let k := keySram 64 0x40
  withWords [(k, a), (k + 8, b), (k + 16, c), (k + 24, d)] (user 0x40 0)

/-- Addresses are good where each one is. -/
theorem good_of {s : State} {l : List Word} (h : l.all (fun v => copyCanonical s v && v.toNat % 8 == 0) = true) :
    GoodAddresses s l := fun v hv => by simpa using List.all_eq_true.1 h v hv

theorem witness_CopiesArePosted :
    let s := at_ 3 fun x => ((x.setReg 3 0x100 false).setReg 1 0x10000000 false).setReg 2 0xFFFFFFF8 false
    let t := described 0x100 0x10000000 0x80000000000008 0xFFFF000000000FF8
    let u := described 0x10000000 0x40 0x80 (2 + 2 ^ 60 + 4 * 2 ^ 61)
    Unlocked s [] [3, 1, 2] ∧ s.ctx.psn 3 = false ∧ s.ctx.psn 1 = false ∧ s.ctx.psn 2 = false ∧
    (s.ctx.reg 2).toNat < 2 ^ 32 ∧ (s.ctx.reg 2).toNat % 8 = 0 ∧ GoodAddresses s [s.ctx.reg 3, s.ctx.reg 1] ∧
    DescriptorAt t 1 ∧ (descWord t 1 3).getLsbD 47 = false ∧ (descWord t 1 3).toNat % 8 = 0 ∧
    (descWord t 1 2).toNat % 8 = 0 ∧ (descWord t 1 2).toNat / 2 ^ 32 % 8 = 0 ∧
    GoodAddresses t [descWord t 1 0, descWord t 1 1] ∧
    DescriptorAt u 1 ∧ (descWord u 1 3).extractLsb' 32 8 = 0#8 ∧ (descWord u 1 3).getLsbD 59 = false ∧
    ((descWord u 1 3).extractLsb' 61 3).toNat ≤ 4 ∧ GoodAddresses u [descWord u 1 0, descWord u 1 2] ∧
    copyCanonical u (descWord u 1 1) = true ∧ (descWord u 1 1).toNat % 8 = 0 ∧
    (match inCluster u (descWord u 1 1), inCluster u (descWord u 1 2) with
      | some x, some z => decide (x.off + 2 * 8 ≤ x.size ∧ z.off + 2 * 128 ≤ z.size)
      | _, _ => false) = true := by
  and_intros <;> first
    | exact good_of (by decide +kernel) | decide +kernel | (constructor <;> decide +kernel)
    | (constructor <;> first | decide +kernel | (constructor <;> decide +kernel))

/-- One copy of slot 3 of core 64 is posted. -/
def copying (x : Copy) : State := (user 0 0).modMem fun m => { m with copies := [x], nextReq := 1 }

theorem witness_CopiesRun :
    let x : Copy :=
      { Copy.blank .linear 0 with core := 64, slot := 3, dst := 0x100, src := 0x10000000, rowBytes := 8, rows := 1 }
    let g : Copy :=
      { Copy.blank .gather 2 with core := 64, slot := 3, dst := 0x100, src := 0x10000000, idx := 0x200, esize := 8,
                                  iw64 := true, count := 1 }
    let s := copying x
    let t := copying g
    let c := at_ 3 fun x => { x with batches := List.replicate 15 { num := 1 } }
    let b := at_ 3 fun x => { x with batches := [{ num := 1, fault := some ⟨.page, 8, 0⟩ }] }
    let f := at_ 3 fun x => { x with batches := [{ num := 1 }] }
    let a := user 0x7FFF0 0xFFFFFFFF
    (s.mem.copies.find? (fun y => y.id == x.id) = some x ∧ x.fault = none ∧ x.aw = none ∧ s.stop.phase = 0 ∧
      x.kind = .linear ∧ x.rows = 1 ∧ x.prog < x.rowBytes / 8 ∧ x.ahead = [] ∧ fget x.got none x.prog = none ∧
      x.done 0 = false ∧
      x.inRow 0 x.src = false ∧ Place.direct (.global 0x10000 false false) = true ∧
      resolve s x.agent x.src 8 needRead true true = .ok (.global 0x10000 false false) ∧
      resolve (noteWalk s x.agent x.src) x.agent x.dst 8 needWrite true true = .ok (.sram 64 0x100 false) ∧
      Place.key? s (.global 0x10000 false false) = some 0x10000 ∧
      Place.key? s (.sram 64 0x100 false) = some (keySram 64 0x100) ∧ s.mem.psn 0x10000 = false ∧
      s.mem.isArmed (keySram 64 0x100 - keySram 64 0x100 % 16) = false) ∧
    (t.mem.copies.find? (fun y => y.id == g.id) = some g ∧ g.kind = .gather ∧ g.count = 1 ∧ g.esize = 8 ∧ g.prog = 0 ∧
      g.iw64 = true ∧ g.pending = [] ∧ g.got = [] ∧ inGlobal g.idx = false ∧ inGlobal g.dst = false ∧
      Place.direct (.sram 64 0x200 false) = true ∧
      Place.key? t (.sram 64 0x200 false) = some (keySram 64 0x200) ∧
      (noteWalk (noteWalk t g.agent (g.src + t.mem.load (keySram 64 0x200) 8 * 8)) g.agent g.dst).mem = t.mem ∧
      resolve t g.agent g.idx 8 needRead true true = .ok (.sram 64 0x200 false) ∧
      t.mem.psn (keySram 64 0x200) = false ∧
      resolve t g.agent (g.src + t.mem.load (keySram 64 0x200) 8 * 8) 8 needRead true true = .ok (.global 0x10000 false false) ∧
      resolve t g.agent g.dst 8 needWrite true true = .ok (.sram 64 0x100 false)) ∧
    (Unlocked c [3] [] ∧ c.ctx.batches.length < 16 ∧ Unlocked c [] [1] ∧ c.ctx.psn 1 = false ∧
      (∀ b ∈ (user 16 0).ctx.batches, b.fault = none) ∧ (user 16 0).ctx.batches.length ≤ Min.min ((user 16 0).ctx.reg 1).toNat 16) ∧
    (TakesTraps b ∧ b.ctx.batches = [{ num := 1, fault := some ⟨.page, 8, 0⟩ }] ∧ b.ctx.reg 1 = 0 ∧ Unlocked b [] [1]) ∧
    ((f.ctxAt 64 3).batches = [{ num := 1 }] ∧
      f.mem.copies.any (fun y => y.by 64 3 (f.ctxAt 64 3).gen && y.batch = some 1) = false) ∧
    (Unlocked a [] [1, 2] ∧ a.ctx.psn 1 = false ∧ a.ctx.psn 2 = false ∧ a.cur.1 ≠ mgmtCore ∧ inGlobal (a.ctx.reg 1) = false ∧
      (a.ctx.reg 1).toNat % 16 = 0 ∧ a.ctx.reg 2 ≠ 0 ∧ (a.ctx.reg 2).toNat < 2 ^ 32 ∧
      resolve a { a.agent with super := true } (a.ctx.reg 1) 1 needWrite false false = .ok (.sram 64 0x7FFF0 false) ∧
      resolve a a.agent (a.ctx.reg 1) 1 needWrite false false = .ok (.sram 64 0x7FFF0 false) ∧
      settled a (.sram 64 0x7FFF0 false) 16 = true) := by
  and_intros <;> first | decide +kernel | (constructor <;> decide +kernel)

/-! ### Walkers -/

/-- A launch record of four tiles of one element: target cluster 4, completion word at 0x400 of core 64, every permit
granted, one IN operand of 8-byte elements at 0x1000_0100 that goes to offset 0x1000. -/
def record : List Word :=
  [0x504C010000100010, 0, 0xFFFF800080000400, 0x100000001, 0x400000000, 0, 0, 0, 0x10, 0, 0, 0, 0, 0, 0, 0,
   0x10000100, 0x1800100000001000, 1, 0] ++ List.replicate 12 0

/-- The record at 0x1000_0000, and the state s. -/
def recorded (s : State) : State := withWords (record.zipIdx.map fun p => (0x10000 + 8 * p.2, p.1)) s

theorem witness_RequestsAreSent :
    let s := recorded (user 0x10000000 5)
    let p : Place := .global 0x10000 false false
    s.ctx.psn 1 = false ∧ s.ctx.psn 2 = false ∧ Unlocked s [3] [1] ∧ Unlocked s [3] [1, 2] ∧
    (s.ctx.reg 1).toNat % 64 = 0 ∧ inGlobal (s.ctx.reg 1) = true ∧
    resolve s s.agent (s.ctx.reg 1) 1 needRead false false = .ok p ∧
    ¬(s.ctx.reg 1).toNat < (((s.ctx.reg 1) + 255) &&& ~~~0xFFFF).toNat ∧ releaseDone s .package = true := by
  and_intros <;> first | decide +kernel | (constructor <;> decide +kernel)

/-- Walker slot 4 holds w. -/
def walking (w : Walker) : State := { recorded (user 0 0) with walkers := [(4, w)] }

/-- A running part of the record: instance 0x0104. -/
def part : Walker :=
  { sgen := 1, state := .run, record := 0x10000000, words := record, cur := 0, end_ := 4, root := 0x104, mask := [4] }

theorem witness_WalkerRequestsAreServed :
    let q (fn : Nat) (a b : Word) : WReq := { core := 64, slot := 3, gen := 0, d := 3, realm := 0, fn, opA := a, opB := b }
    let g := { recorded (user 0 0) with wreqs := [q 0 0x10000000 0] }
    let b := { user 0 0 with wreqs := [q 0 0x10000000 0] }
    let decided (s : State) : State := s.modRouter 1 fun r => { r with walkCycle := some 0 }
    let v := { decided (walking part) with wreqs := [q 1 0x104 0] }
    let p := { decided (walking part) with wreqs := [q 2 0x104 1] }
    let t0 (s : State) : State :=
      noteWalk (launchServed { s with wreqs := s.wreqs.eraseIdx 0 } (q 0 0x10000000 0)) (walkAgent (routerOf 64) 0) 0x10000000
    firstRequest g 0 = true ∧ firstRequest b 0 = true ∧ firstRequest v 0 = true ∧ firstRequest p 0 = true ∧
    hasDecided v 4 = true ∧ permitDue p (q 2 0x104 1) = true ∧
    launchDue g (q 0 0x10000000 0) = true ∧ launchDue b (q 0 0x10000000 0) = true ∧
    (g.stop.phase = 0 ∧ g.wreqs[0]? = some (q 0 0x10000000 0) ∧
      checkRecord (t0 g) (routerOf 64) 0 0x10000000 none = .good 0x10000 record ∧ placeRoot (t0 g) record = some 4) ∧
    checkRecord (t0 b) (routerOf 64) 0 0x10000000 none = .malformed 0 ∧
    ((splitVictim v (q 1 0x104 0)).getRight? = some 4 ∧ (v.walker 4).state = .run ∧
      (v.walker 4).splitCycle ≠ some v.cycle.toNat ∧
      2 * recMinSplit (v.walker 4).words ≤ (v.walker 4).end_ - (v.walker 4).cur ∧ freeWalker v 1 = some 5) ∧
    (p.holds 0x104 = true ∧ (0x104 : Word).toNat < 2 ^ 16 ∧ (p.walker 4).realm = 0 ∧ (p.walker 4).state = .run ∧
      ownedBy p 64 0 = true ∧ (p.walker 4).frozen = false ∧
      (p.walker 4).mask.contains (clusterOf 64) = true ∧ (1 : Word).toNat < 2 ^ recSets (p.walker 4).words) ∧
    ((user 0 0).ctxAt 64 3).occupied = true ∧ ((user 0 0).ctxAt 64 3).graphTrap = none ∧
    ((user 0 0).ctxAt 64 2).occupied = false := by
  and_intros <;> decide +kernel

theorem witness_WalkersRun :
    let l := walking { part with state := .load, words := [], asker := some (64, 3, 0, 3) }
    let r := walking { part with cur := 3, permits := [(64, 1)] }
    let c := walking { part with cancelPending := true }
    let d (f : Walker → Walker) := walking (f { part with state := .drain, cur := 4 })
    (r.walker 4).frozen = false ∧ (c.walker 4).frozen = false ∧ ((d id).walker 4).frozen = false ∧
    (l.holds 0x104 = true ∧ (l.walker 4).frozen = false ∧ (l.walker 4).state = .load ∧
      checkRecord l (walkRouter 4) 0 0x10000000 none = .good 0x10000 record) ∧
    (r.holds 0x104 = true ∧ walkTurn r (walkRouter 4) = some 4 ∧
      (r.router (walkRouter 4)).walkCycle ≠ some r.cycle.toNat ∧ chooseCore r (r.walker 4) = some 64) ∧
    (c.holds 0x104 = true ∧ (c.walker 4).cancelPending = true ∧ (c.walker 4).state = .run) ∧
    ((d id).holds 0x104 = true ∧ ((d id).walker 4).tiles = [] ∧ ((d id).walker 4).children = 0 ∧
      ((d id).walker 4).parent = 0 ∧ ((d id).walker 4).node = none ∧
      (match doneUnit (d id) (recDone record) with
        | some u => u.core == some 64 && u.pkg == (d id).package.toNat && ownsUnit (d id) u 0 &&
            !(d id).mem.isArmed (u.key u.off - u.key u.off % 16)
        | none => false) = true ∧ ((d id).walker 4).flags = 0) ∧
    ((d fun w => { w with parent := 0x105 }).walker 4).parent ≠ 0 ∧
    ((d fun w => { w with node := some 9 }).walker 4).node = some 9 := by
  and_intros <;> decide +kernel

theorem witness_TilesRun :
    let t (p : Phase) (f : Tile → Tile) :=
      walking { part with state := .drain, cur := 4, tiles := [f { index := 3, core := 64, set := 0, phase := p }] }
    let x (p : Phase) : Tile := { index := 3, core := 64, set := 0, phase := p }
    let f := t .fetching id
    let w := t .writingBack id
    let e := t .fetching fun y => { y with fault := some (5, false, 0, 0) }
    let st := tileStartOf f 0x104 (x .starting)
    let i := (t .starting id).modCore 64 fun y => { y with incoming := [st] }
    let other : Walker := { part with tiles := [{ index := 0, core := 64, set := 0, phase := .started }] }
    let b : State := { i with walkers := i.walkers ++ [(5, other)] }
    let n := crowded i
    (f.tile? 0x104 3 = some (x .fetching) ∧
      tileChecks f 0x104 (x .fetching) false = .places [(8, 0x1000, .global 0x10118 false false)] ∧
      clipped record (tileCoords record 3) = false ∧ (x .fetching).moved = [] ∧ (x .fetching).got = [] ∧
      Place.direct (.global 0x10118 false false) = true ∧ bufferOverlap record 0x1000 8 = false ∧
      setShared f 0x104 (x .fetching) = false ∧ (noteMoves f 0x104 (x .fetching) false).mem = f.mem ∧
      f.mem.isArmed (keySram 64 0x1000 - keySram 64 0x1000 % 16) = false) ∧
    (w.tile? 0x104 3 = some (x .writingBack) ∧ storesPending w (x .writingBack) = false ∧
      outOverlap w 0x104 0 3 (keyGlobal 0x10000) 8 = false ∧ (noteMoves w 0x104 (x .writingBack) true).mem = w.mem ∧
      tileChecks w 0x104 (x .writingBack) true = .places []) ∧
    (e.tile? 0x104 3 = some { x .fetching with fault := some (5, false, 0, 0) } ∧
      tileFault e 0x104 { x .fetching with fault := some (5, false, 0, 0) } = some (5, false, 0, 0) ∧
      (e.core 64).trap.active = false ∧ (e.core 64).trap.held = [] ∧ (e.core 64).stopped = false) ∧
    ((i.core 64).incoming[0]? = some st ∧ st.walkid.extractLsb' 0 16 = 0x104#16 ∧ (st.walkid.extractLsb' 32 32).toNat = 3 ∧
      setBusy i 0x104 (x .starting) = false ∧ freeSlot i 64 st.engine = some 1 ∧ i.tile? 0x104 3 = some (x .starting)) ∧
    setBusy b 0x104 (x .starting) = true ∧ freeSlot n 64 st.engine = none ∧ setBusy n 0x104 (x .starting) = false := by
  and_intros <;> decide +kernel

/-! ### The Ephemeris -/

/-- Word k of record n in scheduler memory. -/
def recordAt (n k : Nat) (v : Word) : Nat × Word := (nodeKey n k, v)

/-- Graph 1 in state st: realm 0, one node, number 2, the root, listed behind it. The node is a TASK for core 64 in
status ns. -/
def graph (st ns : Nat) (extra : List (Nat × Word)) : State :=
  let s := withWords ([recordAt 1 0 (BitVec.ofNat 64 (st * 2 ^ 60 + 7 * 2 ^ 57 + 1)), recordAt 1 1 (2 ^ 48 + 384),
    recordAt 3 0 2, recordAt 2 0 (BitVec.ofNat 64 (ns * 2 ^ 60 + 2 * 2 ^ 57 + 1)),
    recordAt 2 5 0x100000040] ++ extra) (user 0 0)
  { s with eph := { s.eph with bindings := [(5, { enable := true, bstat := 2, graph := 1 })] } }

theorem witness_BindingsAndTriggers :
    let idle := graph 0 0 []
    let run := graph 1 1 []
    let checking (h : BitVec 32) : State :=
      { idle with eph := { idle.eph with bindings := [(5, { enable := true, bstat := 1, graph := h })] } }
    let v : Word := 0x8000000000000001
    hostReaches idle = true ∧ hostReaches run = true ∧
    (v.getLsbD 62 = false ∧ (idle.binding 5).bstat = 2 ∧ isRunning idle 1 = false ∧ hHeld idle 1 = false) ∧
    (isRunning run 1 = true ∧ (run.binding 5).bstat = 2) ∧
    ((checking 1).binding 5).bstat = 1 ∧ checkGraph (checking 1) 1 0 = none ∧ (checkGraph (checking 2) 2 0).isSome = true ∧
    ((v ||| 0x4000000000000000).getLsbD 62 = true ∧ isBound run 1 = true ∧ fget run.eph.heldTrigger none 1 = none) ∧
    (idle.stop.phase = 0 ∧ (idle.binding 6).bstat ≠ 2 ∧ idle.host.queue.length < 256) ∧ hHeld run 1 = false ∧
    (5 : Word).extractLsb' 16 48 = 0#48 ∧ hRoots idle 1 = [2] ∧
    (nget idle 1 1 0 32 + 4 * nget idle 1 1 48 16 ≤ 128 * 1 ∨ 128 * (1 + 1 + (extent idle 1).nodes) ≤ nget idle 1 1 0 32) ∧
    (∀ n ∈ hRoots idle 1, inGraph idle 1 n = true ∧ nTemplate idle n = false) := by
  and_intros <;> decide +kernel

theorem witness_NodesRun :
    let tok (left : Word) : State :=
      { graph 1 1 [recordAt 2 1 (left <<< 32)] with eph := { (graph 1 1 []).eph with tokens := [2] } }
    let rdy := { graph 1 2 [] with eph := { (graph 1 2 []).eph with ready := [(2, 0)] } }
    let fin (join : Word) :=
      { graph 1 3 [recordAt 2 2 (join <<< 32)] with eph := { (graph 1 3 []).eph with ends := [(2, false)] } }
    let dn (x : Done) : State := { walking { part with children := 1 } with dones := [x] }
    let lau : State := { graph 1 3 [] with dones := [{ inst := 0, node := some 2, status := 1 }] }
    ((tok 2).eph.tokens[0]? = some 2 ∧ nStatus (tok 2) 2 = 1 ∧ nget (tok 2) 2 1 32 32 = 2 ∧ nget (tok 1) 2 1 32 32 = 1) ∧
    (((rdy.eph.ready.map (·.1)).filter (· % 16 = (2#4).toNat)).foldl noteLaunch rdy = rdy ∧
      choosePick rdy (rdy.eph.ready.filter fun r => r.1 % 16 = (2#4).toNat && dispatchable rdy r.1) = some 2 ∧
      nKind rdy 2 = 2 ∧ taskCore rdy 2 (hRealm rdy (nGraph rdy 2)) = some 64 ∧
      freeSlot rdy 64 (nget rdy 2 0 51 1 = 1) = some 1) ∧
    ((fin 0).eph.ends[0]? = some (2, false) ∧ nodeOwes (fin 0) 2 = false ∧ nodeOwes (fin 1) 2 = false ∧
      nStatus (fin 0) 2 = 3 ∧ (fin 0).eph.taken.contains 2 = false ∧
      nJoin (fin 0) 2 = 0 ∧ nJoin (fin 1) 2 ≠ 0) ∧
    (dn { inst := 0x104, node := none, status := 1 }).holds 0x104 = true ∧
    (lau.eph.faults.any (·.1 == 2) = false ∧ nStatus lau 2 = 3 ∧ nJoin lau 2 = 0 ∧ lau.eph.taken.contains 2 = false) := by
  and_intros <;> decide +kernel

theorem witness_FaultsAndRunsEnd :
    let bad (w : Word) : State :=
      let t := graph 1 3 [recordAt 2 0 (3 <<< 60 ||| 2 <<< 57 ||| w ||| 1)]
      { t with eph := { t.eph with faults := [(2, 255, 9)] } }
    let swp : State :=
      let t := graph 2 2 []
      { t with eph := { t.eph with sweeps := [(1, { queue := [2] })], ready := [(2, 0)] } }
    let fin := graph 1 5 [recordAt 1 6 (1 <<< 32)]
    let ring : State := { user 0 0 with host := { (user 0 0).host with cren := true, queue := [⟨5, 1, 2, 3, none⟩] } }
    let q : WReq := { core := 64, slot := 3, gen := 0, d := 3, realm := 0, fn := 2, opA := 2, opB := 0 }
    let ask : State := { graph 1 3 [] with eph := { (graph 1 3 []).eph with requests := [q] } }
    ((bad 0).stop.phase = 0 ∧ (bad 0).eph.taken = [] ∧ (bad 0).eph.faults[0]? = some (2, 255, 9) ∧ nStatus (bad 0) 2 = 3 ∧
      nodeOwes (bad 0) 2 = false ∧ ownGraph (bad 0) 2 = some 1 ∧ ownGraph (bad (1 <<< 54 ||| 1 <<< 32)) 2 = some 1 ∧
      inGraph (bad 0) (nGraph (bad 0) 2) 2 = true ∧ nPolicy (bad 0) 2 = 0 ∧ launchRuns (bad 0) 2 = false ∧
      launchRuns (bad (1 <<< 54 ||| 1 <<< 32)) 2 = false) ∧
    (nPolicy (bad (1 <<< 54 ||| 1 <<< 32)) 2 = 1 ∧ nget (bad (1 <<< 54 ||| 1 <<< 32)) 2 0 32 8 ≠ 0 ∧
      nJoin (bad (1 <<< 54 ||| 1 <<< 32)) 2 = 0 ∧ nStatus (bad (1 <<< 54 ||| 1 <<< 32)) 2 = 3) ∧
    (isBound swp 1 = true ∧ nStatus swp 1 = 2 ∧ (swp.sweep 1).due ≤ swp.cycle.toNat ∧ (swp.sweep 1).cancelling = false ∧
      (swp.sweep 1).queue = [2] ∧ nStatus swp 2 = 2 ∧ inGraph swp 1 2 = true) ∧
    (isBound fin 1 = true ∧ runEnded fin 1 = true ∧ runOwes fin 1 = false ∧ fin.host.queue.length < 256 ∧
      fget fin.eph.heldTrigger none 1 = none) ∧
    (ring.host.queue = [⟨5, 1, 2, 3, none⟩] ∧ ringRoom ring = true) ∧
    (match graphAct { ask with eph := { ask.eph with requests := [] } } q with
      | .value _ u => (u.ctxAt 64 3).occupied && (u.ctxAt 64 3).gen == 0
      | .poison => false) = true := by
  and_intros <;> decide +kernel

/-! ### Tasks, registers, traps -/

/-- Core 64's supervisor handles a trap of slot 3 at pc 0x40, or of nobody. -/
def handled (cause : Cause) (slot : Option Nat) (ctx : Word) (s : State) : State :=
  s.modCore 64 fun x =>
    { x with trap := { x.trap with active := true, tpc := 0x40, slot := 3, wskip := true,
                                   handled := some { cause, pc := 0x40, val := 0, ctx, seq := 0, slot, imprec := false } } }

/-- The supervisor of core 64 with g1 = a, and a frozen task in slot 3. -/
def overFrozen (a : Word) : State :=
  handled .page (some 3) 0 ((boss a 0).modCtxAt 64 3 fun x => { x with occupied := true, frozen := true })

theorem witness_TasksEnd :
    let s := user 0 0
    let e := task0 0 0
    let n := at_ 3 fun x => { x with tinfo := 3 }
    let y : Tile := { index := 3, core := 64, set := 0, phase := .started }
    let l := { walking { part with tiles := [y] } with cur := (64, 3) }.modCtxAt 64 3
      fun x => { x with tinfo := 2, walkid := 0x300000104 }
    let b := overFrozen 9
    let f (node : Option Nat) : State :=
      handled .page (some 3) 0 ({ graph 1 3 [] with
        cur := (64, 7)
        walkers := [(4, { part with node, tiles := [{ index := 3, core := 64, set := 0, phase := .started }] })] }.modCtxAt 64 3
          fun x => { x with occupied := true, frozen := true, tinfo := 2, walkid := 0x300000104 })
    let lost (s : State) : Bool :=
      s.isSuper && s.here.trap.active && (s.here.trap.handled.map (·.slot)) == some (some 3) && !s.ctx.psn 1 &&
      tiKind (s.ctxAt 64 3).tinfo == 2 && (s.tile? 0x104 3).isSome && (s.walker 4).state == .run &&
      (s.ctxAt 64 3).walkid == 0x300000104
    (lost (f none) = true ∧ Unlocked (f none) [2] [1] ∧ ((f none).walker 4).node = none) ∧
    (let t := f (some 2)
     lost t = true ∧ Unlocked t [2] [1] ∧ (t.walker 4).node = some 2 ∧ t.stop.phase = 0 ∧ t.eph.taken = [] ∧
      nStatus t 2 = 3 ∧ nPolicy t 2 = 0 ∧ ownGraph t 2 = some 1 ∧ inGraph t 1 2 = true) ∧
    tileStored s = true ∧ tileStored e = true ∧ tileStored n = true ∧ tileStored l = true ∧ s.isSuper = false ∧
    s.ctx.lock.any (·.2) = false ∧ s.ctx.openN = 0 ∧ s.ctx.batches = [] ∧
    s.ctx.barMember = 0 ∧ tiKind s.ctx.tinfo ≠ 3 ∧ engineIdle e = true ∧ e.here.engine.fault = none ∧
    tiKind n.ctx.tinfo = 3 ∧ releaseDone n .package = true ∧ tiKind l.ctx.tinfo = 2 ∧
    l.tile? (l.ctx.walkid.extractLsb' 0 16) (l.ctx.walkid.extractLsb' 32 32).toNat =
      some { index := 3, core := 64, set := 0, phase := .started } ∧
    b.isSuper = true ∧ b.here.trap.active = true ∧
    (b.here.trap.handled.map (·.slot)) = some (some 3) ∧ Unlocked b [2] [1] ∧ b.ctx.psn 1 = false ∧
    tiKind (b.ctxAt 64 3).tinfo ≠ 2 := by
  and_intros <;> first | decide +kernel | (constructor <;> decide +kernel)

theorem witness_ControlRegisters :
    let s := user 5 0
    let b := boss 5 0
    let e := task0 5 0
    csrAssigned (decide (s.cur.1 = mgmtCore)) 0 = true ∧ csrSuper 0 = false ∧ engineIdle e = true ∧
    csrAssigned (decide (b.cur.1 = mgmtCore)) 0x9FF = true ∧ csrSuper 0x9FF = true ∧ b.isSuper = true ∧
    Unlocked s [3] [] ∧ Unlocked b [3] [1] ∧ b.ctx.psn 1 = false ∧ TakesTraps s ∧ csrSuper 0x800 = true ∧
    (encode (.csrw 3 1 0x800)).isSome = true ∧ csrSuper 0x7FF = false ∧ csrAssigned false 0x7FF = false ∧
    (encode (.csrs 3 1 0x32)).isSome = true ∧ csrSuper 0x32 = false ∧ csrAssigned false 0x32 = true ∧
    e.inSlot0 = true ∧ e.cur.1 ≠ mgmtCore := by
  and_intros <;> first | decide +kernel | (constructor <;> decide +kernel)

theorem witness_TrapsAreTaken :
    let s := user 0 0
    let f := at_ 3 fun x => { x with pc := 0x80000 }
    let p := (user 0 0).modMem (·.setPsn (keySram 64 0) true)
    let b := at_ 3 fun x => { x with tbudget := 0 }
    let v : Wait := { kind := .event, val := 3, left := 0 }
    let w := at_ 3 fun x => { x with tbudget := 0, wait := some v }
    let l := at_ 3 fun x => { x with wait := some v }
    let r : TrapRec := { cause := .page, pc := 0, val := 0, ctx := 0, seq := 0, slot := some 3, imprec := false }
    let h := (user 0 0).modCore 64 fun x => { x with trap := { x.trap with held := [r] } }
    TakesTraps s ∧ TakesTraps f ∧ fetchWord f 64 3 0x80000 = .fault .prot 0x80000 0 ∧
    fetchWord p 64 3 0 = .fault .poison 0 6 ∧ TakesTraps p ∧ (boss 0 0).isSuper = true ∧ (boss 0 0).cur.1 ≠ mgmtCore ∧
    (b.core 64).trap.active = false ∧ (b.core 64).trap.held = [] ∧ coprocPends b 64 3 = false ∧ coprocPends w 64 3 = false ∧
    coprocPends l 64 3 = false ∧ asleep (l.core 64) (l.ctxAt 64 3) = true ∧ (w.core 64).trap.active = false ∧
    (w.core 64).trap.held = [] ∧ (l.core 64).trap.active = false ∧ (l.core 64).trap.held = [] ∧
    atBoundary b 64 3 = true ∧ budgetSpent b 64 3 = true ∧ (b.ctxAt 64 3).wait = none ∧
    atBoundary w 64 3 = true ∧ budgetSpent w 64 3 = true ∧ (w.ctxAt 64 3).wait = some v ∧ v.redo = false ∧ v.left = 0 ∧
    budgetSpent l 64 3 = false ∧ (l.ctxAt 64 3).graphTrap = none ∧ atBoundary l 64 3 = true ∧ (l.ctxAt 64 3).wait = some v ∧
    (h.core 64).trap.held = [r] ∧ (h.core 64).trap.active = false ∧ (h.core 64).halted = false ∧
      (h.core 64).stopped = false := by
  and_intros <;> first | decide +kernel | (constructor <;> decide +kernel)

theorem witness_ReturnsAndWaits :
    let b := overFrozen 0x100000000
    let n := handled .watch none 0 (boss 0 0)
    let t : Tile := { index := 3, core := 64, set := 0, phase := .fetching, fault := some (1, false, 0, 0), raised := true }
    let w := handled .walk none 0x10400000003 { walking { part with state := .fault, tiles := [t] } with cur := (64, 7) }
    let p := at_ 3 fun x => { x.setReg 1 15 false with pulse := 0x8000 }
    let q := at_ 3 fun x => { x with pauseLeft := 1 }
    b.isSuper = true ∧ b.here.trap.active = true ∧ (b.here.trap.handled.map (·.slot)) = some (some 3) ∧
    b.here.trap.slot.toNat = 3 ∧ (b.here.trap.handled.map (·.cause)) = some .page ∧ Unlocked b [] [1] ∧ b.ctx.psn 1 = false ∧
    n.isSuper = true ∧ (n.here.trap.handled.map (·.slot)) = some none ∧ Unlocked n [] [1] ∧
    (w.here.trap.handled.map fun r => (r.slot, r.cause)) = some (none, .walk) ∧ w.isSuper = true ∧
    w.tile? (walkTile 0x10400000003).1 (walkTile 0x10400000003).2 = some t ∧ (w.walker 4).state ≠ .cancel ∧
    p.isSuper = false ∧ Unlocked p [] [1] ∧ (p.ctx.reg 1).toNat < 16 ∧ p.ctx.pulse.getLsbD (p.ctx.reg 1).toNat = true ∧
    (user 15 0).ctx.pulse.getLsbD 15 = false ∧ (q.ctxAt 64 3).pauseLeft = 1 ∧ (boss 0 0).isSuper = true ∧
    (boss 0 0).here.trap.active = false := by
  and_intros <;> first | decide +kernel | (constructor <;> decide +kernel)

theorem witness_PrivilegedForms :
    TakesTraps (user 0 0) ∧ (encode (.ctxload 3 1)).isSome = true ∧ (encode (.tlbinvPg 1 2 .package)).isSome = true ∧
    (encode (.tlbinvRl 2 .core)).isSome = true ∧ (encode (.nfail 3 1)).isSome = true := by
  and_intros <;> first | decide +kernel | (constructor <;> decide +kernel)

theorem witness_ContextImages :
    let s := overFrozen 0x7FE00
    let places : List Place := (List.range 8).map fun i => .sram 64 (0x7FE00 + 64 * i) false
    let l := withWords [(keySram 64 (0x7FE00 + 0x100), 0x8000000000000000)] (boss 0x7FE00 0)
    let rd (o : Nat) : Word := l.mem.load (keySram 64 (0x7FE00 + o)) 8
    s.isSuper = true ∧ s.cur.1 ≠ mgmtCore ∧ s.ctx.psn 1 = false ∧ Unlocked s [] [1] ∧ s.here.trap.active = true ∧
    (s.here.trap.handled.map (·.slot)) = some (some 3) ∧ imagePlaces s needWrite 8 (s.ctx.reg 1) = .ok places ∧
    frozenDone s 64 3 = true ∧ (s.ctx.reg 1).toNat % 64 = 0 ∧
    (List.range 32).all (fun j => !(dropCopies s 64 3).mem.isArmed (keySram 64 (0x7FE00 + 16 * j))) = true ∧
    Unlocked l [3] [1] ∧ imagePlaces l needRead 8 (l.ctx.reg 1) = .ok places ∧ (rd 0x100).getLsbD 62 = false ∧
    freeSlot (crowded l) 64 false = none ∧ freeSlot l 64 false = some 1 ∧ (rd 0x100).getLsbD 63 = true ∧
    (rd 0x100).getLsbD 61 = false ∧ imageReserved false rd = false ∧
    (∀ i, i < 32 → l.mem.psn (keySram 64 (0x7FE00 + (0x100 + 8 * i))) = false) := by
  and_intros <;> first | decide +kernel | (constructor <;> decide +kernel)

theorem witness_Translations :
    let s := boss 0x10000000 0xFFF
    let a := at_ 7 fun x => { x with answer := some (0, false) }
    let w := at_ 7 fun x => { x with await := some 1 }
    let wk : Walk := { id := 0, core := 64, slot := 3, gen := 0, realm := 0, va := 0x20000008 }
    let walks (l : List (Nat × Word)) : State := withWords l ((user 0 0).modMem fun m => { m with walks := [wk], nextReq := 1 })
    let good := walks [(0, 0x8000000000004000), (0x4000, 0x8001), (0x8000 + 8 * 4, 0xC001), (0xC000, 0x50007)]
    s.isSuper = true ∧ Unlocked s [] [1, 2] ∧ s.ctx.psn 1 = false ∧ (s.ctx.reg 2).toNat < 2 ^ 12 ∧ s.ctx.answer = none ∧
    a.ctx.answer.isSome = true ∧ (w.ctxAt 64 7).await = some 1 ∧
    (∀ r ∈ w.mem.reqs, r.id ≠ 1 ∧ (1 ≤ r.id ∨ r.done = true ∨ r.place.translated = false)) ∧
    (∀ x ∈ w.mem.copies, x.pending = []) ∧
    good.mem.walks.find? (·.id == 0) = some wk ∧ (walkTables good 64 0 wk.va).entry.isSome = true ∧
    (walkTables (walks []) 64 0 wk.va).entry = none ∧ (walkTables (walks []) 64 0 wk.va).poison = none ∧
    ((walks []).ctxAt 64 3).occupied = true ∧ ((walks []).ctxAt 64 3).gen = wk.gen ∧
    ((walks []).ctxAt 64 3).frozen = false ∧ ((walks []).core 64).halted = false ∧ ((walks []).core 64).stopped = false ∧
    coprocPends (walks []) 64 3 = false ∧ budgetSpent (walks []) 64 3 = false ∧
    ((walks []).ctxAt 64 3).graphTrap = none ∧ ((walks []).core 64).trap.active = false ∧
    ((walks []).core 64).trap.held = [] := by
  and_intros <;> first | decide +kernel | (constructor <;> decide +kernel)

/-! ### The package -/

theorem witness_RegisterWrites :
    hostReaches pkg = true ∧ hostReaches State.reset = false ∧ (0x189000#22).toNat % 8 = 0 ∧ (0x10#22) ∈ [0x10#22, 0x1000#22] ∧
    isCore 4031 = true ∧ isCluster 251 = true ∧
    (let s := pkg.modCluster 4 fun n => { n with qcyc := 0xFD000, qcount := 0 }
     (s.cluster 4).qcyc ≠ 0 ∧ (s.cluster 4).qcount = 0 ∧ (s.cluster 4).oldQuanta = [] ∧ (0xFCFFF : Word).toNat % 2 ^ 32 ≠ 0 ∧
      (s.cluster 4).qcyc.toNat = max ((0xFCFFF : Word).toNat % 2 ^ 32) 0xFD000 ∧
      max ((0xFD001 : Word).toNat % 2 ^ 32) 0xFD000 ≠ (s.cluster 4).qcyc.toNat) ∧
    62 ≤ (62#6).toNat ∧ (61#6).toNat < 62 ∧ 2 ≤ (2 : Word).toNat % 32 ∧ (16 : Word).toNat % 32 ≤ 16 ∧
    ((List.range 16).all fun b => (pkg.bank 4 b).sleepers.isEmpty) = true ∧
    (let b : Bank := { mode := .cache, busy := true, from_ := .fifo, due := 9 }
     let s := { pkg with cycle := 9 }.modCluster 4 fun n => { n with banks := [(15, b)] }
     (s.bank 4 15).busy = true ∧ (s.bank 4 15).due ≤ s.cycle.toNat ∧ (s.bank 4 15).from_ = .fifo ∧
      (s.bank 4 15).mode = .cache ∧ (s.bank 4 15).sleepers = []) := by and_intros <;> decide +kernel

theorem witness_BanksSwitch :
    let busy (m f : BankMode) : State :=
      { user 0 0 with cycle := 9 }.modCluster 4 fun n =>
        { n with banks := [(15, { mode := m, busy := true, from_ := f, due := 9 })] }
    let wake (b : Bank) : State := pkg.modCluster 4 fun n => { n with banks := [(1, b)] }
    ((busy .scratch .fifo).bank 4 15).busy = true ∧ ((busy .scratch .fifo).bank 4 15).due ≤ (busy .scratch .fifo).cycle.toNat ∧
    (let s := sleeping { mode := .fifo, sleepers := [(64, 3, none, 9)] }
     ((s.bank 4 1).mode = .fifo ∧ (s.bank 4 1).busy = false ∧ ((0x4 : Word).extractLsb' 2 2).toNat < 2 ∧
      (s.bank 4 1).sleepers = [(64, 3, none, 9)] ∧
      ((List.range 16).all fun j => j == 1 || (s.bank 4 j).sleepers.isEmpty) = true ∧ (s.core 64).trap.active = false ∧
      (s.core 64).trap.held = [] ∧ othersPend s 64 3 = false ∧
      (s.ctxAt 64 3).wait = some { kind := .fifo, val := 0x2000040, left := 9 })) ∧
    ((List.range 16).all fun b => (pkg.bank 4 b).mode != .fifo || (pkg.bank 4 b).sleepers.isEmpty) = true ∧
    ((List.range 16).all fun b => (pkg.bank 4 b).sleepers.isEmpty) = true ∧ ((busy .cache .fifo).bank 4 15).from_ ≠ .scratch ∧
    ((busy .scratch .cache).bank 4 15).from_ = .cache ∧
    ((busy .scratch .fifo).bank 4 15).from_ ≠ .cache ∧ ((busy .cache .fifo).bank 4 15).mode ≠ .scratch ∧
    (pkg.bank 4 1).busy = false ∧ ((0x4 : Word).extractLsb' 2 2).toNat ≠ (pkg.bank 4 1).mode.code ∧
    ((wake { mode := .fifo, sleepers := [(64, 3, some (5, true), 0)] }).bank 4 1).sleepers = [(64, 3, some (5, true), 0)] ∧
    ((wake { mode := .fifo, sleepers := [(64, 3, none, 9)], fifo := [(5, true)] }).bank 4 1).fifo = [(5, true)] := by
  and_intros <;> decide +kernel

theorem witness_BringUpAndHost :
    let image (kind : Word) : FwImage :=
      { w0 := 0x4D49000000000001 + (kind <<< 40), w1 := 0x40, restZero := true, matched := true, signed := true, digest := 5 }
    let r : BringupResult :=
      { ok := true, badCores := [65], badQuads := [], badClusters := [], package := 0, trip := none,
        config := some (image 2), root := some (image 1), service := some (image 3) }
    let h (n : BitVec 7) : State := { pkg with host := { pkg.host with bootstat := n } }
    (h 7).host.bootstat.toNat < 8 ∧ r.ok = true ∧ imagesOk (h 0) r 1 = true ∧ imagesOk (h 6) r 7 = true ∧
    imagesOk (h 7) r 8 = true ∧ imagesOk (h 0) { r with root := none } 1 = false ∧ hostReaches (h 8) = true ∧
    hostReaches (h 7) = false ∧ (2 ^ 40 - 1) + 1 ≤ 2 ^ pkg.host.bar4 ∧ ¬2 ^ 40 + 1 ≤ 2 ^ pkg.host.bar4 ∧
    0x3FFFF8 < 0x400000 ∧ 0x3FFFF8 % 8 = 0 ∧ (h 4).host.bootstat = 4 ∧ 8 ≤ (h 8).host.bootstat.toNat ∧
    (h 8).host.bootstat = 8 ∧ (0x8000000000000000 : Word).getLsbD 63 = true ∧ hostReaches pkg = true ∧
    aperReaches (pkg.host.aperbase.toNat * 2 ^ 30 + (2 ^ 40 - 1)) 1 = true ∧
    aperReaches (pkg.host.aperbase.toNat * 2 ^ 30 + 2 ^ 40) 1 = false ∧
    pkg.mem.psn (keyGlobal (pkg.host.aperbase.toNat * 2 ^ 30)) = false := by
  and_intros <;> decide +kernel

/-- A package whose one usable core is 64, which is stopped; slot 3 holds a context, the other slots none. -/
def lone (phase : BitVec 2) : State :=
  { user 0 0 with
    badClusters := (List.range 256).filter (· ≠ 4), badCores := (List.range 15).map (65 + ·)
    stop := { phase } }.modCore 64 fun x => { x with stopped := true }

/-- The same with an image of slot 3 of which every word after R0 to R31 but VALID is 0. -/
def imaged : State := (lone 3).modMem fun m => m.write (keyGlobal (imageBase (lone 3) 64 3 + 0x100)) 8 (2 ^ 63)

theorem witness_StopsAndResumes :
    let s (p : BitVec 2) : State := { user 0 0 with stop := { phase := p } }
    (1 : Word).setWidth 2 = 1#2 ∧ (s 0).stop.phase = 0 ∧ stopbaseValid (s 0) = true ∧
    stopbaseValid { s 0 with stop := { stopbase := 0xFFFFFFFF } } = false ∧ (2 : Word).setWidth 2 = 2#2 ∧
    (s 2).stop.phase = 2 ∧ (s 1).usableCore 64 = true ∧
    (((s 1).core 64).stopped = false ∧ ((s 1).engine 64).running.any (fun en =>
      (en.instr.map haltable).getD false) = false) := by
  and_intros <;> decide +kernel

/-- Core 64 alone is usable. -/
def only64 (s : State) : Prop := ∀ c, s.usableCore c = (c == 64)

theorem lone_only64 (p : BitVec 2) : only64 (lone p) := by
  intro c
  have b : (lone p).badClusters = (List.range 256).filter (· ≠ 4) := rfl
  have d : (lone p).badCores = (List.range 15).map (65 + ·) := rfl
  by_cases h : c = 64
  · subst h; revert p; decide +kernel
  · simp only [State.usableCore, isCore, b, d, clusterOf, show (c == 64) = false from by simpa using h]
    by_cases h2 : c ∈ (List.range 15).map (65 + ·)
    · simp [h2]
    · have : ¬(64 < c ∧ c < 80) := fun h3 => h2 (List.mem_map.2 ⟨c - 65, List.mem_range.2 (by omega), by omega⟩)
      by_cases h4 : c < 4096
      · have : ((List.range 256).filter (· ≠ 4)).contains (c / 16) = true := by
          simp only [List.contains_iff_mem, List.mem_filter, List.mem_range, decide_eq_true_eq]
          omega
        simp only [this, Bool.not_true, Bool.and_false]
      · simp [h4]

theorem imaged_only64 : only64 imaged := lone_only64 3

theorem witness_StopsAndResumes_images :
    stopDrained (lone 1) = true ∧ savedCores (lone 1) = [64] ∧ savedCores imaged = [64] ∧
    ((lone 1).ctxAt 64 2).occupied = false ∧ ((lone 1).ctxAt 64 3).occupied = true ∧ imagesAnswered imaged = true ∧
    imaged.eph.kept = [] ∧ imaged.stop.phase = 3 ∧
    savedWord imaged (imageBase imaged 64 3 + 0x100) = 2 ^ 63 ∧
    imageReserved false (fun o => savedWord imaged (imageBase imaged 64 3 + o)) = false := by
  have a := lone_only64 1
  have b := imaged_only64
  refine ⟨?_, ?_, ?_, by decide +kernel, by decide +kernel, ?_, by decide +kernel, by decide +kernel, by decide +kernel,
    by decide +kernel⟩
  · simp only [stopDrained, allStopped, a _]
    decide +kernel
  · simp only [savedCores, a _]
    decide +kernel
  · simp only [savedCores, b _]
    decide +kernel
  · simp only [imagesAnswered, savedCores, b _]
    decide +kernel

/-- Port 15 is UP; router r holds n packets of it at its inputs. -/
def waiting (r n : Nat) : State :=
  { State.reset with wioloPorts := [(15, { state := 2 })]
                     routers := [(r, { inq := List.replicate n (.wiolo 15, packet 2 2 []) })] }

/-- However many packets the buffer holds, it can be full (R61). -/
theorem witness_WioloPorts_full (r : Nat) : ∃ n, (waiting r n).bufferRoom r (.wiolo 15) 2 = false := by
  refine ⟨Config.bufferPackets r 2 + 1, ?_⟩
  have h (n : Nat) : ((waiting r n).router r).buffered (.wiolo 15) 2 = n := by
    simp [waiting, Router.buffered, Router.leaving, State.router, packet, fget]
  simp [State.bufferRoom, roomAfter, h]

theorem witness_WioloPorts :
    let s (x : WioloPort) : State := { pkg with wioloPorts := [(15, x)] }
    let f : Frame := { seq := 0, crcOk := true, ack := 1, packets := [packet 2 2 []] }
    (fget (s { state := 2 }).wioloPorts {} 15).state = 2 ∧ f.crcOk = true ∧
    f.seq = (fget (s { state := 2 }).wioloPorts {} 15).recvSeq ∧
    (packet 2 2 []).vc = 2 ∧
    (s { state := 2 }).bufferRoom (portRouter 15 (pktCore (packet 2 2 []) / 64)) (.wiolo 15) 2 = true ∧
    (fget (s { state := 2, replay := [f] }).wioloPorts {} 15).replay ≠ [] ∧
    (fget (s { state := 1, held := [packet 2 2 []] }).wioloPorts {} 15).state ≠ 2 ∧ (14#4) ≠ 15#4 ∧
    f.packets = [packet 2 2 []] ∧
    { f with seq := 1 }.seq ≠ (fget (s { state := 2 }).wioloPorts {} 15).recvSeq ∧ { f with crcOk := false }.crcOk = false := by
  and_intros <;> decide +kernel

theorem witness_ErrorsAndManagement :
    let m (f : State → State) : State := f { pkg with cur := (mgmtCore, 7) }
    let p := m fun s => { s with mgmt := { mperiod := 1, pollCount := 1, mpend := 8, mentryEn := 8 } }
    let o := m fun s => { s with overcurrent := true, cycle := 1600000 }
    let h := m fun s => s.modCore mgmtCore fun x => { x with halted := true }
    let e : SoftError := { ukind := 2, unit := 0, key := keyScratch 4 8, kind := .uncorrectable, syndrome := 0 }
    (e.queued = none ∧ e.ukind < 5 ∧
      (pkg.bank ((e.key - 2 ^ 48 - 2 ^ 31) / 0x800000) ((e.key - 2 ^ 48 - 2 ^ 31) % 0x800000 / 0x80000)).mode = .scratch ∧
      pkg.mem.psn e.key = false) ∧ 7 ≤ pkg.host.bootstat.toNat ∧ pkg.host.linkUp = true ∧
    1 ≤ 6 ∧ (pkg.errs.cerec = false ∧ pkg.errs.en = false ∧ pkg.mem.psn (keySram 64 0) = false) ∧ o.overcurrent = true ∧
    o.belowSince + 1600000 ≤ o.cycle.toNat ∧ p.mgmt.mperiod ≠ 0 ∧ p.mgmt.mperiod.toNat ≤ p.mgmt.pollCount ∧
    (p.ctxAt mgmtCore 1).occupied = false ∧ (p.core mgmtCore).trap.active = false ∧ (p.core mgmtCore).halted = false ∧
    p.mgmtPending.getLsbD 3 = true ∧ p.mgmt.mentryEn.getLsbD 3 = true ∧ p.mgmtPending.getLsbD 0 = false ∧
    p.mgmt.mrxbuf.toNat * 64 / 2 ^ 42 = p.package.toNat ∧ aperReaches 0 4 = true ∧ 2 ≤ pkg.host.bootstat.toNat ∧
    pkg.host.bootstat ≠ 0x7F ∧ (h.core mgmtCore).halted = true := by
  and_intros <;> decide +kernel

theorem witness_StepRunsDecoded :
    let s := State.reset.withFetchWord 32 0x08A60001
    let u := issuing { s with agenda := [] } 64 7
    s.agenda = [.issue 64 7] ∧ u.ready 64 7 = true ∧ u.ctx.answerErr = none ∧ coprocPends u 64 7 = false ∧
    u.ctx.graphTrap = none ∧ budgetSpent u 64 7 = false ∧
    fetchWord u 64 7 u.ctx.pc = .word 0x08A60001 ∧ watchHit u 3 u.ctx.pc 4 = none ∧
    decode? 0x08A60001 = some (.addi 5 6 1) := by
  and_intros <;> decide +kernel

theorem witness_DecodeEncode : (Instr.csrw 3 1 0xFFF).wf = true ∧ (encode (.csrw 3 1 0xFFF)).isSome = true := by decide +kernel

theorem witness_EncodeDecode : (decode 0xC8040011).toOption = some (.csrw 0 4 1) := by decide +kernel

theorem witness_MemoryStaysCanonical :
    State.reset.mem.wf = true ∧ (recorded pkg).mem.wf = true ∧
    ends (step (State.reset.withFetchWord 32 0x08A60001)) (fun _ => true) = true := by decide +kernel

end Sys2Proof.Tests
end

-- ==== Proofs: register writes outside the cores ====
section
/-!
PROOFS. Register writes outside the cores: what a write of a device register, of an ownership word, of QUANTUM, CLFLAGSCLR,
HOSTSEQ, a route-class entry, MSGMAX and BANKMODE leaves in the machine, and what a quantum's expiry and the end of a bank's
transition do.
-/

namespace Sys2Proof.Machine

/-! ### Frames of the unit updates -/

theorem modCluster_frame (s : State) (n : Nat) (f : Cluster → Cluster) :
    { s.modCluster n f with clusters := s.clusters } = s := rfl

theorem modRouter_frame (s : State) (n : Nat) (f : Router → Router) :
    { s.modRouter n f with routers := s.routers } = s := rfl

theorem modMem_frame (s : State) (f : Mem → Mem) : { s.modMem f with mem := s.mem } = s := rfl

theorem modBank_frame (s : State) (n b : Nat) (f : Bank → Bank) :
    { modBank s n b f with clusters := s.clusters } = s := rfl

@[simp] theorem bank_modBank_same (s : State) (n b : Nat) (f : Bank → Bank) :
    (modBank s n b f).bank n b = f (s.bank n b) := by
  simp [modBank, State.bank]

/-! ### Device registers (R4, R281) -/

theorem exec_registerWrite_reached {who : Writer} {s : State} (h : who = .host → hostReaches s = true) (off : BitVec 22)
    (v : Word) : exec (.registerWrite who off v) s = .next (devWrite s who off.toNat v) := by
  have run : exec (.registerWrite who off v) s
      = .next (if who = .host && !hostReaches s then s else devWrite s who off.toNat v) := rfl
  rw [run, if_neg]
  simpa using h

theorem exec_registerWrite_unreached {s : State} (h : hostReaches s = false) (off : BitVec 22) (v : Word) :
    exec (.registerWrite .host off v) s = .next s := by
  have run : exec (.registerWrite .host off v) s
      = .next (if !hostReaches s then s else devWrite s .host off.toNat v) := rfl
  rw [run, h, Bool.not_false, if_pos rfl]

theorem devWrite_misaligned {o : Nat} (h : o % 8 ≠ 0) (s : State) (who : Writer) (v : Word) : devWrite s who o v = s := by
  simp [devWrite, h]

/-- DEVSEQ, the floor map, the address of scheduler memory and STOPCYC take no write. -/
theorem devWrite_readOnly {o : Nat} (h : o ∈ [0x10, 0x1000, 0x160000, 0x170010]) (s : State) (who : Writer) (v : Word) :
    devWrite s who o v = s := by
  simp only [List.mem_cons, List.not_mem_nil, or_false] at h
  rcases h with rfl | rfl | rfl | rfl <;> simp [devWrite, devSuper, hostWrite]

theorem devWrite_realmtab {who : Writer} (h : who ≠ .serviceFirmware) (s : State) (v : Word) :
    devWrite s who 0x189000 v = s.modMem fun m => { m with realmtab := v.extractLsb' 16 36 } := by
  simp [devWrite, h]

theorem devWrite_stopbase {who : Writer} (h : who = .host ∨ who = .rootFirmware) (s : State) (v : Word) :
    devWrite s who 0x170008 v = { s with stop := { s.stop with stopbase := v.extractLsb' 20 32 } } := by
  rcases h with rfl | rfl <;> simp [devWrite]

/-! ### Ownership words (R170) -/

theorem ownerWrite_core (s : State) (n : Nat) (v : Word) :
    ownerWrite s false n v = if isCore n then
      s.modMem fun m => { m with ownCore := fset m.ownCore 0 n (v &&& 0xEFFFEFFFEFFFEFFF) } else s := rfl

theorem ownerWrite_cluster (s : State) (n : Nat) (v : Word) :
    ownerWrite s true n v = if isCluster n then
      s.modMem fun m => { m with ownCluster := fset m.ownCluster 0 n (v &&& 0xEFFFEFFFEFFFEFFF) } else s := rfl

theorem ownerWrite_frame (s : State) (cluster : Bool) (n : Nat) (v : Word) :
    { ownerWrite s cluster n v with mem := s.mem } = s := by
  cases cluster with
  | false => rw [ownerWrite_core]; split <;> rfl
  | true => rw [ownerWrite_cluster]; split <;> rfl

theorem ownerWrite_mem_frame (s : State) (cluster : Bool) (n : Nat) (v : Word) :
    { (ownerWrite s cluster n v).mem with ownCore := [], ownCluster := [] }
      = { s.mem with ownCore := [], ownCluster := [] } := by
  cases cluster with
  | false => rw [ownerWrite_core]; split <;> rfl
  | true => rw [ownerWrite_cluster]; split <;> rfl

/-- A word of an ownership map after a write that counts only at a number that names a unit. -/
theorem fget_fset_if (m : FMap Word) (v : Word) (unit : Nat → Bool) (n k : Nat) :
    fget (if unit n then fset m 0 n v else m) 0 k = if k = n ∧ unit k = true then v else fget m 0 k := by
  by_cases hk : k = n
  · subst hk; split <;> simp_all
  · split <;> simp [hk, fget_fset_other]

theorem ownCore_ownerWrite (s : State) (cluster : Bool) (n k : Nat) (v : Word) :
    fget (ownerWrite s cluster n v).mem.ownCore 0 k
      = if cluster = false ∧ k = n ∧ isCore k = true then v &&& 0xEFFFEFFFEFFFEFFF else fget s.mem.ownCore 0 k := by
  cases cluster with
  | false => rw [ownerWrite_core, apply_ite State.mem, apply_ite Mem.ownCore, modMem_mem, fget_fset_if]; simp
  | true => rw [ownerWrite_cluster]; split <;> rfl

theorem ownCluster_ownerWrite (s : State) (cluster : Bool) (n k : Nat) (v : Word) :
    fget (ownerWrite s cluster n v).mem.ownCluster 0 k
      = if cluster = true ∧ k = n ∧ isCluster k = true then v &&& 0xEFFFEFFFEFFFEFFF else fget s.mem.ownCluster 0 k := by
  cases cluster with
  | false => rw [ownerWrite_core]; split <;> rfl
  | true => rw [ownerWrite_cluster, apply_ite State.mem, apply_ite Mem.ownCluster, modMem_mem, fget_fset_if]; simp

/-! ### QUANTUM (R100, R102, log 71) -/

/-- The quantum that a write of QUANTUM stores: a nonzero value below QMIN becomes QMIN. -/
def storedQuantum (v : Word) : BitVec 32 :=
  let q : BitVec 32 := v.setWidth 32
  if q ≠ 0 && q.toNat < qmin then BitVec.ofNat 32 qmin else q

/-- A cluster that takes a quantum: a change keeps the old one for the tasks that run under it. -/
def Cluster.takeQuantum (c : Cluster) (q : BitVec 32) : Cluster :=
  if q = c.qcyc then c
  else
    { c with qcyc := q, qcount := q.toNat, qver := c.qver + 1
             oldQuanta := fset c.oldQuanta (0, 0) c.qver (c.qcyc.toNat, c.qcount) }

theorem quantumWrite_eq (s : State) (n : Nat) (v : Word) :
    quantumWrite s n v = s.modCluster n (·.takeQuantum (storedQuantum v)) := rfl

theorem storedQuantum_toNat (v : Word) :
    (storedQuantum v).toNat = if v.toNat % 2 ^ 32 = 0 then 0 else max (v.toNat % 2 ^ 32) 0xFD000 := by
  have low : (v.setWidth 32 : BitVec 32).toNat = v.toNat % 2 ^ 32 := BitVec.toNat_setWidth ..
  have zero : (v.setWidth 32 : BitVec 32) = 0 ↔ v.toNat % 2 ^ 32 = 0 := by
    rw [← low, BitVec.toNat_eq]; rfl
  by_cases h0 : v.toNat % 2 ^ 32 = 0
  · rw [if_pos h0]; simp [storedQuantum, zero.2 h0]
  · by_cases small : v.toNat % 2 ^ 32 < qmin
    · have raised : storedQuantum v = BitVec.ofNat 32 qmin := by
        simp only [storedQuantum, low, ne_eq, zero, h0, small, not_false_eq_true, decide_true, Bool.and_self, if_true]
      rw [raised, if_neg h0, Nat.max_eq_right (show _ ≤ 0xFD000 from Nat.le_of_lt small)]
      rfl
    · have kept : storedQuantum v = v.setWidth 32 := by
        simp only [storedQuantum, low, small, decide_false, Bool.and_false, if_false, Bool.false_eq_true]
      rw [kept, low, if_neg h0, Nat.max_eq_left (show 0xFD000 ≤ _ from Nat.le_of_not_lt small)]

theorem takeQuantum_qcyc (c : Cluster) (q : BitVec 32) : (c.takeQuantum q).qcyc = q := by
  unfold Cluster.takeQuantum
  split
  · next h => exact h.symm
  · rfl

theorem takeQuantum_same {c : Cluster} {q : BitVec 32} (h : q.toNat = c.qcyc.toNat) : c.takeQuantum q = c :=
  if_pos (BitVec.eq_of_toNat_eq h)

theorem takeQuantum_changed {c : Cluster} {q : BitVec 32} (h : q.toNat ≠ c.qcyc.toNat) :
    (c.takeQuantum q).qcount = q.toNat ∧ (c.takeQuantum q).qver = c.qver + 1 ∧
      fget (c.takeQuantum q).oldQuanta (0, 0) c.qver = (c.qcyc.toNat, c.qcount) := by
  have change : q ≠ c.qcyc := fun e => h (congrArg BitVec.toNat e)
  simp [Cluster.takeQuantum, change]

/-! ### Event-line pulses (R266) -/

/-- The contexts that an event line of a cluster reaches: slots 0 to 6 of its 16 cores. -/
def pulseTargets (n : Nat) : List (Nat × Nat) :=
  (List.range 16).flatMap fun q => [0, 1, 2, 3, 4, 5, 6].map fun k => (16 * n + q, k)

/-- The pulse at one context: it is set if the context holds a task of which p is true. -/
def pulseAt (line : Nat) (p : Ctx → Bool) (s : State) (z : Nat × Nat) : State :=
  if (s.ctxAt z.1 z.2).occupied && p (s.ctxAt z.1 z.2) then
    s.modCtxAt z.1 z.2 fun x => { x with pulse := x.pulse ||| BitVec.ofNat 16 (2 ^ line) }
  else s

theorem pulseIn_eq_foldl (s : State) (n line : Nat) (p : Ctx → Bool) :
    pulseIn s n line p = (pulseTargets n).foldl (pulseAt line p) s := by
  rw [pulseTargets, List.foldl_flatMap]
  simp only [List.foldl_map]
  rfl

theorem mem_pulseTargets {n q k : Nat} (hq : q < 16) (hk : k < 7) : (16 * n + q, k) ∈ pulseTargets n := by
  have slot : k ∈ [0, 1, 2, 3, 4, 5, 6] := by simp only [List.mem_cons, List.not_mem_nil, or_false]; omega
  exact List.mem_flatMap.2 ⟨q, List.mem_range.2 hq, List.mem_map_of_mem slot⟩

theorem pulseTargets_nodup (n : Nat) : (pulseTargets n).Nodup := by
  refine List.pairwise_flatMap.2 ⟨fun q _ => ?oneCore, List.Pairwise.imp ?twoCores List.pairwise_lt_range⟩
  case oneCore =>
    have slots : [0, 1, 2, 3, 4, 5, 6].Pairwise (· ≠ ·) := by decide
    exact List.pairwise_map.2 (slots.imp fun differ same => differ (Prod.mk.inj same).2)
  case twoCores =>
    intro a b less x hx y hy same
    obtain ⟨j, -, rfl⟩ := List.mem_map.1 hx
    obtain ⟨k, -, rfl⟩ := List.mem_map.1 hy
    have cores : 16 * n + a = 16 * n + b := (Prod.mk.inj same).1
    omega

theorem ctxAt_pulseAt (line : Nat) (p : Ctx → Bool) (s : State) (z : Nat × Nat) (c k : Nat) :
    (pulseAt line p s z).ctxAt c k =
      if (c, k) = z ∧ ((s.ctxAt c k).occupied && p (s.ctxAt c k)) = true then
        { s.ctxAt c k with pulse := (s.ctxAt c k).pulse ||| BitVec.ofNat 16 (2 ^ line) }
      else s.ctxAt c k := by
  unfold pulseAt
  by_cases hz : (c, k) = z
  · subst hz; split <;> simp_all
  · have other : ¬(c = z.1 ∧ k = z.2) := fun ⟨h1, h2⟩ => hz (Prod.ext h1 h2)
    split <;> simp [ctxAt_modCtxAt, hz, other]

/-- Each context is visited at most once, so a pulse sees it as it stood before. -/
theorem ctxAt_foldl_pulseAt (line : Nat) (p : Ctx → Bool) {l : List (Nat × Nat)} (h : l.Nodup) (s : State) (c k : Nat) :
    (l.foldl (pulseAt line p) s).ctxAt c k =
      if (c, k) ∈ l ∧ ((s.ctxAt c k).occupied && p (s.ctxAt c k)) = true then
        { s.ctxAt c k with pulse := (s.ctxAt c k).pulse ||| BitVec.ofNat 16 (2 ^ line) }
      else s.ctxAt c k := by
  induction l generalizing s with
  | nil => simp
  | cons z l ih =>
    obtain ⟨fresh, h⟩ := List.nodup_cons.1 h
    rw [List.foldl_cons, ih h, ctxAt_pulseAt]
    by_cases hz : (c, k) = z
    · subst hz; simp [fresh]
    · simp [hz]

theorem ctxAt_pulseIn (s : State) {n q k : Nat} (line : Nat) (p : Ctx → Bool) (hq : q < 16) (hk : k < 7) :
    (pulseIn s n line p).ctxAt (16 * n + q) k =
      if ((s.ctxAt (16 * n + q) k).occupied && p (s.ctxAt (16 * n + q) k)) = true then
        { s.ctxAt (16 * n + q) k with pulse := (s.ctxAt (16 * n + q) k).pulse ||| BitVec.ofNat 16 (2 ^ line) }
      else s.ctxAt (16 * n + q) k := by
  rw [pulseIn_eq_foldl, ctxAt_foldl_pulseAt line p (pulseTargets_nodup n)]
  simp only [mem_pulseTargets hq hk, true_and]

theorem pulseAt_mem_clusters (line : Nat) (p : Ctx → Bool) (s : State) (z : Nat × Nat) :
    (pulseAt line p s z).mem = s.mem ∧ (pulseAt line p s z).clusters = s.clusters := by
  unfold pulseAt
  split <;> exact ⟨rfl, rfl⟩

theorem pulseIn_mem_clusters (s : State) (n line : Nat) (p : Ctx → Bool) :
    (pulseIn s n line p).mem = s.mem ∧ (pulseIn s n line p).clusters = s.clusters := by
  rw [pulseIn_eq_foldl]
  refine List.foldlRecOn (motive := fun t : State => t.mem = s.mem ∧ t.clusters = s.clusters) _ _ ⟨rfl, rfl⟩ ?_
  intro t ⟨hmem, hclusters⟩ z _
  obtain ⟨hm, hc⟩ := pulseAt_mem_clusters line p t z
  exact ⟨hm.trans hmem, hc.trans hclusters⟩

theorem pulseIn_cluster (s : State) (n line m : Nat) (p : Ctx → Bool) : (pulseIn s n line p).cluster m = s.cluster m := by
  unfold State.cluster
  rw [(pulseIn_mem_clusters s n line p).2]

/-! ### QUANTUM's expiry (R100, R102) -/

theorem exec_quantumExpiry_sole {s : State} {n : BitVec 8} (hq : (s.cluster n.toNat).qcyc ≠ 0)
    (h0 : (s.cluster n.toNat).qcount = 0) (ho : (s.cluster n.toNat).oldQuanta = []) :
    exec (.quantumExpiry n) s = .next (pulseIn (s.modCluster n.toNat fun c => { c with qcount := c.qcyc.toNat }) n.toNat 15
      (·.qver == (s.cluster n.toNat).qver)) := by
  change execQuantumExpiry n s = _
  simp only [execQuantumExpiry, ho, h0, List.foldl_nil, decide_true, Bool.and_true, decide_eq_true_eq, if_pos hq]

/-! ### Route-class entries (R65, R66) -/

theorem routeClassWrite_reserved {cls : Nat} (h : 62 ≤ cls) (s : State) (r : Nat) (hi : Bool) (v : Word) :
    routeClassWrite s r cls hi v = s := if_pos h

theorem routeClassWrite_frame (s : State) (r cls : Nat) (hi : Bool) (v : Word) :
    { routeClassWrite s r cls hi v with routers := s.routers } = s := by
  unfold routeClassWrite
  split <;> rfl

theorem entries_routeClassWrite {cls : Nat} (h : cls < 62) (s : State) (r k : Nat) (hi : Bool) (v : Word) :
    fget ((routeClassWrite s r cls hi v).router r).entries {} k =
      if k = cls then
        (if hi then { fget (s.router r).entries {} k with localmask := v } else (fget (s.router r).entries {} k).write v)
      else fget (s.router r).entries {} k := by
  rw [routeClassWrite, if_neg (by omega), router_modRouter, if_pos rfl, fget_fset]
  by_cases hk : k = cls
  · subst hk; rfl
  · simp [hk]

/-! ### MSGMAX (R73) -/

theorem msgmaxWrite_eq (s : State) (v : Word) :
    msgmaxWrite s v =
      if 2 ≤ v.toNat % 32 ∧ v.toNat % 32 ≤ 16 then { s with msgmax := v.setWidth 5 } else s := by
  have low : (v.setWidth 5 : BitVec 5).toNat = v.toNat % 32 := BitVec.toNat_setWidth ..
  simp only [msgmaxWrite, low, Bool.and_eq_true, decide_eq_true_eq]

/-! ### BANKMODE (R177, R178) -/

/-- A read after a run of writes gives the value written where its key is among those written. -/
theorem fget_foldl_fset {α : Type} [DecidableEq α] (d : α) (g : Nat → α) (l : List Nat) (m : FMap α) (k : Nat) :
    fget (l.foldl (fun m b => fset m d b (g b)) m) d k = if k ∈ l then g k else fget m d k := by
  induction l generalizing m with
  | nil => simp
  | cons b l ih =>
    rw [List.foldl_cons, ih, fget_fset]
    by_cases hb : k = b
    · subst hb; simp
    · simp [hb]

/-- Every bank of cluster n takes the mode that a value of BANKMODE gives it. -/
def switchBanks (s : State) (n : Nat) (v : Word) : State :=
  s.modCluster n fun c =>
    { c with banks := (List.range 16).foldl (fun m b =>
        fset m {} b ((s.bank n b).switch (v.extractLsb' (2 * b) 2).toNat s.cycle.toNat)) c.banks }

/-- Where no context sleeps at a port, a write of BANKMODE does nothing but switch the banks. -/
theorem bankmodeWrite_awake {s : State} {n : Nat} (h : ∀ b, b < 16 → (s.bank n b).sleepers = []) (v : Word) :
    bankmodeWrite s n v = switchBanks s n v := by
  have none_ends : ((List.range 16).flatMap fun b =>
      if (s.bank n b).mode = .fifo && ((s.bank n b).switch (v.extractLsb' (2 * b) 2).toNat s.cycle.toNat).mode ≠ .fifo
      then (s.bank n b).sleepers else []) = [] := by
    simp only [List.flatMap_eq_nil_iff, List.mem_range]
    intro b hb
    rw [h b hb, ite_self]
  simp only [bankmodeWrite, none_ends, List.foldl_nil, switchBanks]

theorem bank_switchBanks (s : State) (n : Nat) (v : Word) {b : Nat} (hb : b < 16) :
    (switchBanks s n v).bank n b = (s.bank n b).switch (v.extractLsb' (2 * b) 2).toNat s.cycle.toNat := by
  simp only [switchBanks, State.bank, cluster_modCluster_same]
  rw [fget_foldl_fset {} fun b => (fget (s.cluster n).banks {} b).switch (v.extractLsb' (2 * b) 2).toNat s.cycle.toNat,
    if_pos (List.mem_range.2 hb)]

/-- A transition from FIFO to CACHE has neither lines to write back nor bytes to clear. -/
theorem exec_bankSwitchDone_fifo_cache {s : State} {n : BitVec 8} {b : BitVec 4}
    (busy : (s.bank n.toNat b.toNat).busy = true) (due : (s.bank n.toNat b.toNat).due ≤ s.cycle.toNat)
    (left : (s.bank n.toNat b.toNat).from_ = .fifo) (mode : (s.bank n.toNat b.toNat).mode = .cache)
    (awake : (s.bank n.toNat b.toNat).sleepers = []) :
    exec (.bankSwitchDone n b) s = .next (modBank s n.toNat b.toNat fun k =>
      { k with busy := false, from_ := .cache, due := 0, fifo := [], sleepers := [] }) := by
  change execBankSwitchDone n b s = _
  simp [execBankSwitchDone, busy, left, mode, awake, Nat.not_lt.2 due]

/-! ### The registers' writes together -/

/-- Settles O48, register by register from the lemmas above. -/
theorem registerWrites : Obligations.RegisterWrites := by
  unfold Obligations.RegisterWrites
  intro s v
  refine ⟨fun who off reach => ⟨?realmtab, ?ignored, ?stopbase⟩, fun off h => exec_registerWrite_unreached h off v,
    ?ownership, ?quantum, ?expiry, ?clflagsclr, ?hostseq, ?hostseqUnreached, ?routeClass, ?msgmax, ?bankmode, ?switchDone⟩
  case realmtab =>
    rintro rfl hw
    have run := exec_registerWrite_reached reach 0x189000#22 v
    rw [show (0x189000#22).toNat = 0x189000 from rfl, devWrite_realmtab hw] at run
    exact ⟨_, run, modMem_frame .., rfl⟩
  case ignored =>
    intro h
    rw [exec_registerWrite_reached reach]
    rcases h with h | h
    · have named : off.toNat ∈ [0x10, 0x1000, 0x160000, 0x170010] := List.mem_map_of_mem (f := BitVec.toNat) h
      rw [devWrite_readOnly named]
    · rw [devWrite_misaligned h]
  case stopbase =>
    rintro rfl hw
    have run := exec_registerWrite_reached reach 0x170008#22 v
    rw [show (0x170008#22).toNat = 0x170008 from rfl, devWrite_stopbase hw] at run
    exact ⟨_, run, rfl, rfl⟩
  case ownership =>
    intro cluster n
    exact ⟨ownerWrite s cluster n.toNat v, rfl, ownerWrite_frame .., ownerWrite_mem_frame ..,
      fun k => ownCore_ownerWrite .., fun k => ownCluster_ownerWrite ..⟩
  case quantum =>
    intro n c q
    refine ⟨s.modCluster n.toNat (·.takeQuantum (storedQuantum v)), rfl, modCluster_frame .., fun m hm => ?_, ?_⟩
    · rw [cluster_modCluster, if_neg hm]
    · have hq : (storedQuantum v).toNat = q := storedQuantum_toNat v
      simp only [cluster_modCluster_same, takeQuantum_qcyc, ← hq, true_and]
      exact ⟨takeQuantum_same, takeQuantum_changed⟩
  case expiry =>
    intro n c hq h0 ho
    refine ⟨_, exec_quantumExpiry_sole hq h0 ho, ?_, (pulseIn_mem_clusters ..).1, fun q k hq hk => ?_⟩
    · rw [pulseIn_cluster, cluster_modCluster_same]
    · simp only [ctxAt_pulseIn _ _ _ hq hk, ctxAt_modCluster, Bool.and_eq_true, beq_iff_eq]
      rfl
  case clflagsclr =>
    intro n
    refine ⟨clflagsClear s n.toNat v, rfl, modCluster_frame .., cluster_modCluster_same .., fun m hm => ?_⟩
    rw [clflagsClear, cluster_modCluster, if_neg hm]
  case hostseq =>
    intro h
    exact ⟨hostWrite s 0x18 v, congrArg Host.Outcome.next (if_pos h), rfl, rfl⟩
  case hostseqUnreached =>
    intro h
    exact congrArg Host.Outcome.next (if_neg (by simp [h]))
  case routeClass =>
    intro router cls hi
    exact ⟨fun h => congrArg Host.Outcome.next (routeClassWrite_reserved h ..),
      fun h => ⟨_, rfl, routeClassWrite_frame .., fun k => entries_routeClassWrite h ..⟩⟩
  case msgmax => exact congrArg Host.Outcome.next (msgmaxWrite_eq s v)
  case bankmode =>
    intro n h
    exact ⟨switchBanks s n.toNat v, congrArg Host.Outcome.next (bankmodeWrite_awake h v), modCluster_frame ..,
      fun b hb => bank_switchBanks s n.toNat v hb⟩
  case switchDone =>
    intro n b x busy due left mode awake
    refine ⟨_, exec_bankSwitchDone_fifo_cache busy due left mode awake, modBank_frame .., ?_⟩
    rw [bank_modBank_same, ← awake]

end Sys2Proof.Machine
end

-- ==== Proofs: packets in the fabric ====
section
/-!
PROOFS. Packets in the fabric: how a router takes a packet from its inputs and routes it, what an output hands to the
next router, to the cores of a cluster or to a Wiolo port, and what link errors leave on a packet and in the counters.
-/

namespace Sys2Proof.Machine

/-! ### Taking an element out of a list -/

theorem takeAt_eq {α : Type} {l : List α} {i : Nat} {x : α} (h : l[i]? = some x) :
    takeAt l i = some (x, l.eraseIdx i) := by
  induction l generalizing i with
  | nil => simp at h
  | cons y l ih =>
    cases i with
    | zero => simpa [takeAt] using h
    | succ i => simp [takeAt, ih (i := i) (by simpa using h)]

/-! ### Counters of a router (Table 3-8) -/

@[simp] theorem countBy_mem (s : State) (r i n : Nat) : (countBy s r i n).mem = s.mem := rfl

@[simp] theorem countBy_cores (s : State) (r i n : Nat) : (countBy s r i n).cores = s.cores := rfl

theorem router_countBy (s : State) (r i n m : Nat) :
    (countBy s r i n).router m = if m = r then
      { s.router r with
        counters := fset (s.router r).counters 0 i (fget (s.router r).counters 0 i + BitVec.ofNat 64 n) }
    else s.router m := router_modRouter ..

@[simp] theorem inq_countBy (s : State) (r i n m : Nat) : ((countBy s r i n).router m).inq = (s.router m).inq := by
  rw [router_countBy]; split
  · next h => subst h; rfl
  · rfl

@[simp] theorem outq_countBy (s : State) (r i n m : Nat) : ((countBy s r i n).router m).outq = (s.router m).outq := by
  rw [router_countBy]; split
  · next h => subst h; rfl
  · rfl

theorem counters_countBy (s : State) (r i n j : Nat) :
    fget ((countBy s r i n).router r).counters 0 j =
      fget (s.router r).counters 0 j + if j = i then BitVec.ofNat 64 n else 0 := by
  rw [router_countBy, if_pos rfl, fget_fset]
  split
  · next h => rw [h]
  · exact (BitVec.add_zero _).symm

/-! ### A packet leaves its input (R67) -/

/-- Packet i of a router's inputs has been taken out, and a number has been given to its copies. -/
def taken (s : State) (r i : Nat) : State :=
  (s.modRouter r fun x => { x with inq := (s.router r).inq.eraseIdx i }).modRouter r fun x =>
    { x with nextCopy := (s.router r).nextCopy + 1 }

@[simp] theorem taken_mem (s : State) (r i : Nat) : (taken s r i).mem = s.mem := rfl

@[simp] theorem taken_cores (s : State) (r i : Nat) : (taken s r i).cores = s.cores := rfl

@[simp] theorem taken_package (s : State) (r i : Nat) : (taken s r i).package = s.package := rfl

@[simp] theorem usableCore_taken (s : State) (r i c : Nat) : (taken s r i).usableCore c = s.usableCore c := rfl

theorem router_taken (s : State) (r i : Nat) :
    (taken s r i).router r =
      { s.router r with inq := (s.router r).inq.eraseIdx i, nextCopy := (s.router r).nextCopy + 1 } := by
  simp only [taken, router_modRouter, if_true]

@[simp] theorem entry_taken (s : State) (r i cls : Nat) : (taken s r i).entry r cls = s.entry r cls := by
  simp only [State.entry, router_taken]

/-- A class packet first in its stream, of no unit that waits, is routed by its class. -/
theorem exec_routerPacketArrival_class {s : State} {router : BitVec 6} {i : Nat} {from_ : CameFrom} {p : Packet}
    (here : (s.router router.toNat).inq[i]? = some (from_, p))
    (first : firstOfStream ((s.router router.toNat).inq.map (·.2)) i = true)
    (ready : unitWaits s router.toNat from_ p.vc = false) (h1 : p.vc ≠ 1) (h3 : p.vc ≠ 3) :
    exec (.routerPacketArrival router i) s =
      .next (classAt (taken s router.toNat i) router.toNat from_ p (s.router router.toNat).nextCopy) := by
  change execRouterPacketArrival router i s = _
  simp [execRouterPacketArrival, takeAt_eq here, first, ready, routeAt, taken, router_modRouter, h1, h3]

/-! ### A class that is not valid (R67, R94) -/

theorem accept_mem (s : State) (r : Nat) (p : Packet) : (accept s r p).mem = s.mem := by
  unfold accept
  split
  · rfl
  · split <;> rfl

theorem outq_accept (s : State) (r m : Nat) (p : Packet) : ((accept s r p).router m).outq = (s.router m).outq := by
  unfold accept
  split
  · rfl
  · split
    · rfl
    · rw [toPort, router_modRouter]
      split
      · next h => subst h; split <;> rfl
      · rfl

/-- The answer to a sender of this package is a notice, and touches no router. -/
theorem router_accept_near {s : State} {p : Packet} (near : p.entry = none ∨ p.srcPkg = s.package) (r m : Nat) :
    (accept s r p).router m = s.router m := by
  unfold accept
  split
  · rfl
  · next e he =>
    have own : p.srcPkg = s.package := near.resolve_left (by simp [he])
    rw [if_pos own]
    rfl

theorem classAt_invalid {s : State} {r : Nat} {p : Packet} (invalid : (s.entry r (pktCls p)).valid = false)
    (from_ : CameFrom) (id : Nat) : classAt s r from_ p id = accept (count s r 1) r p := by
  simp [classAt, invalid]

/-! ### Unicast (R57, R69) -/

/-- A packet on the channel that its class's entry gives it at its source router (R68). -/
def onChannel (e : RouteEntry) (from_ : CameFrom) (p : Packet) : Packet :=
  if from_.atSource && p.vc ≠ 2 then { p with vc := e.vc.toNat } else p

theorem pktHead_onChannel (e : RouteEntry) (from_ : CameFrom) (p : Packet) :
    pktHead (onChannel e from_ p) = pktHead p := by
  unfold onChannel
  split <;> rfl

theorem pktPkg_onChannel (e : RouteEntry) (from_ : CameFrom) (p : Packet) : pktPkg (onChannel e from_ p) = pktPkg p := by
  simp only [pktPkg, pktHead_onChannel]

theorem pktCore_onChannel (e : RouteEntry) (from_ : CameFrom) (p : Packet) :
    pktCore (onChannel e from_ p) = pktCore p := by
  simp only [pktCore, pktHead_onChannel]

/-- A task message keeps its channel. -/
theorem onChannel_message {p : Packet} (h : p.vc = 2) (e : RouteEntry) (from_ : CameFrom) : onChannel e from_ p = p := by
  simp [onChannel, h]

theorem classAt_unicast {s : State} {r : Nat} {from_ : CameFrom} {p : Packet}
    (valid : (s.entry r (pktCls p)).valid = true) (single : (s.entry r (pktCls p)).cast = false ∨ p.vc = 2)
    (events : from_.atSource = false ∨ p.vc = 2 ∨ (s.entry r (pktCls p)).vc ≠ 2) (id : Nat) :
    classAt s r from_ p id =
      unicastAt s r (s.entry r (pktCls p)) from_ (onChannel (s.entry r (pktCls p)) from_ p) id := by
  have event : ¬(from_.atSource && p.vc ≠ 2 && (s.entry r (pktCls p)).vc = 2) = true := by
    simp only [Bool.and_eq_true, decide_eq_true_eq]
    rintro ⟨⟨atSource, notMessage⟩, taskClass⟩
    rcases events with h | h | h
    · simp [h] at atSource
    · exact notMessage h
    · exact h taskClass
  have unicast : ¬((s.entry r (pktCls p)).cast && (onChannel (s.entry r (pktCls p)) from_ p).vc ≠ 2) = true := by
    rcases single with h | h
    · simp [h]
    · simp [onChannel_message h, h]
  unfold onChannel at unicast ⊢
  simp only [classAt, valid, Bool.not_true, Bool.false_eq_true, if_false, if_neg event, if_neg unicast]

/-- A class that does not coalesce puts each copy at the end of the queues. -/
theorem enqueue_apart (s : State) (r : Nat) (g : OutCopy) :
    enqueue s r false g = s.modRouter r fun x => { x with outq := x.outq ++ [g] } := rfl

/-- A copy queued for a packet that has been taken out (R67). -/
theorem enqueue_taken (s : State) (r i : Nat) (g : OutCopy) :
    let t := enqueue (taken s r i) r false g
    t.mem = s.mem ∧ t.cores = s.cores ∧ (t.router r).inq = (s.router r).inq.eraseIdx i ∧
      (t.router r).outq = (s.router r).outq ++ [g] := by
  refine ⟨rfl, rfl, ?_⟩
  rw [enqueue_apart, router_modRouter, if_pos rfl, router_taken]
  exact ⟨rfl, rfl⟩

theorem getLsbD_single {n : Nat} (hn : n < 16) (q : Nat) : (BitVec.ofNat 16 (2 ^ n)).getLsbD q = decide (q = n) := by
  rw [BitVec.getLsbD_ofNat, Nat.testBit_two_pow]
  by_cases h : n = q
  · subst h; simp [hn]
  · simp [h, Ne.symm h]

/-- The only core of a unicast copy is live where it is usable. -/
theorem liveCores_single {s : State} {c : Nat} (h : s.usableCore c = true) :
    s.liveCores (c / 16) (BitVec.ofNat 16 (2 ^ (c % 16))) = BitVec.ofNat 16 (2 ^ (c % 16)) := by
  have live (q : Nat) : ((BitVec.ofNat 16 (2 ^ (c % 16))).getLsbD q && s.usableCore (16 * (c / 16) + q)) =
      decide (q = c % 16) := by
    rw [getLsbD_single (Nat.mod_lt _ (by decide))]
    by_cases hq : q = c % 16
    · simp [hq, Nat.div_add_mod, h]
    · simp [hq]
  have sum : ∀ n < 16,
      (List.range 16).foldl (fun a q => if decide (q = n) = true then a + 2 ^ q else a) 0 = 2 ^ n := by decide
  simp only [State.liveCores, live]
  rw [sum _ (Nat.mod_lt _ (by decide))]

/-- Where every core of a copy is live, it goes to the local port as it is. -/
theorem deliverAt_live {s : State} {n : Nat} {m : BitVec 16} (live : s.liveCores n m = m) (some_core : m ≠ 0#16)
    (r : Nat) (coal : Bool) (g : OutCopy) :
    deliverAt s r coal n m g = enqueue s r coal { g with out := .cluster n m } := by
  simp [deliverAt, live, some_core]

theorem single_ne_zero {n : Nat} (hn : n < 16) : BitVec.ofNat 16 (2 ^ n) ≠ 0#16 := by
  intro zero
  have bit := getLsbD_single hn n
  rw [zero] at bit
  simp at bit

theorem deliverAt_single {s : State} {c : Nat} (h : s.usableCore c = true) (r : Nat) (coal : Bool) (g : OutCopy) :
    deliverAt s r coal (c / 16) (BitVec.ofNat 16 (2 ^ (c % 16))) g =
      enqueue s r coal { g with out := .cluster (c / 16) (BitVec.ofNat 16 (2 ^ (c % 16))) } :=
  deliverAt_live (liveCores_single h) (single_ne_zero (Nat.mod_lt _ (by decide))) r coal g

theorem unicastAt_here {s : State} {r c : Nat} {p : Packet} (own : pktPkg p = s.package.toNat) (core : pktCore p = c)
    (here : c / 64 = r) (usable : s.usableCore c = true) (e : RouteEntry) (from_ : CameFrom) (id : Nat) :
    unicastAt s r e from_ p id =
      enqueue s r e.coal { out := .cluster (c / 16) (BitVec.ofNat 16 (2 ^ (c % 16))), p, src := from_, id } := by
  simp only [unicastAt, if_pos own, core, if_pos here.symm, deliverAt_single usable]

theorem unicastAt_hop {s : State} {r c : Nat} {p : Packet} (own : pktPkg p = s.package.toNat) (core : pktCore p = c)
    (away : c / 64 ≠ r) (e : RouteEntry) (from_ : CameFrom) (id : Nat) :
    unicastAt s r e from_ p id = enqueue s r e.coal { out := .router (nextHop r (c / 64)), p, src := from_, id } := by
  simp only [unicastAt, if_pos own, core, if_neg away.symm]

/-! ### Link errors (R59) -/

/-- The flits of n that the link's code finds uncorrectable. -/
abbrev lostFlits (q : List Secded) (n : Nat) : Nat :=
  ((List.range n).filter fun j => flitOutcome q j == .uncorrectable).length

theorem flits_strike (q : List Secded) (p : Packet) (j : Nat) :
    (strike q p).flits[j]? = p.flits[j]?.map fun f => (f.1, f.2 || flitOutcome q j == .uncorrectable) := by
  simp [strike, List.getElem?_zipIdx, Function.comp_def]

@[simp] theorem strike_length (q : List Secded) (p : Packet) : (strike q p).flits.length = p.flits.length := by
  simp [strike]

/-- What every count of a router keeps, the counts of its links' errors keep. -/
theorem countErrors_keeps {P : State → Prop} {m : Nat} (step : ∀ t i n, P t → P (countBy t m i n)) {s : State}
    (h : P s) (q : List Secded) (n : Nat) : P (countErrors s m q n) := by
  simp only [countErrors]
  split
  · split
    · exact h
    · exact step _ _ _ h
  · split
    · exact step _ _ _ h
    · exact step _ _ _ (step _ _ _ h)

@[simp] theorem countErrors_mem (s : State) (m n : Nat) (q : List Secded) : (countErrors s m q n).mem = s.mem :=
  countErrors_keeps (P := fun t => t.mem = s.mem) (fun _ _ _ h => h) rfl q n

@[simp] theorem countErrors_cores (s : State) (m n : Nat) (q : List Secded) : (countErrors s m q n).cores = s.cores :=
  countErrors_keeps (P := fun t => t.cores = s.cores) (fun _ _ _ h => h) rfl q n

@[simp] theorem inq_countErrors (s : State) (m n k : Nat) (q : List Secded) :
    ((countErrors s m q n).router k).inq = (s.router k).inq :=
  countErrors_keeps (P := fun t => (t.router k).inq = (s.router k).inq) (fun _ _ _ h => (inq_countBy ..).trans h) rfl q n

@[simp] theorem outq_countErrors (s : State) (m n k : Nat) (q : List Secded) :
    ((countErrors s m q n).router k).outq = (s.router k).outq :=
  countErrors_keeps (P := fun t => (t.router k).outq = (s.router k).outq) (fun _ _ _ h => (outq_countBy ..).trans h) rfl
    q n

/-- LINKPSN counts the uncorrectable flits; counting none is no change. -/
theorem linkpsn_countErrors (s : State) (m n : Nat) (q : List Secded) :
    fget ((countErrors s m q n).router m).counters 0 6 =
      fget (s.router m).counters 0 6 + BitVec.ofNat 64 (lostFlits q n) := by
  simp only [countErrors, lostFlits]
  generalize ((List.range n).filter fun j => flitOutcome q j == .uncorrectable).length = lost
  generalize ((List.range n).filter fun j => flitOutcome q j == .corrected).length = corrected
  have linkcorr : fget ((if corrected = 0 then s else countBy s m 5 corrected).router m).counters 0 6 =
      fget (s.router m).counters 0 6 := by
    split
    · rfl
    · rw [counters_countBy, if_neg (by decide)]
      exact BitVec.add_zero _
  split
  · next none =>
    rw [linkcorr, none]
    exact (BitVec.add_zero _).symm
  · rw [counters_countBy, if_pos rfl, linkcorr]

/-- An error on a link from a cluster or an I/O die strikes the packet where it waits at the input. -/
theorem exec_linkFlitReceive_input {s : State} {router : BitVec 6} {j : Nat} {o : CameFrom} {p : Packet}
    (here : (s.router router.toNat).inq[j]? = some (o, p)) (unit : ∃ n, o = .localPort n ∨ o = .wiolo n)
    (q : List Secded) :
    exec (.linkFlitReceive router ((s.router router.toNat).outq.length + j) q) s =
      .next ((countErrors s router.toNat q p.flits.length).modRouter router.toNat fun x =>
        { x with inq := x.inq.set j (o, strike q p) }) := by
  change execLinkFlitReceive router _ q s = _
  have past : ¬(s.router router.toNat).outq.length + j < (s.router router.toNat).outq.length := by omega
  simp only [execLinkFlitReceive, if_neg past, Nat.add_sub_cancel_left, here]
  rcases unit with ⟨n, rfl | rfl⟩ <;> rfl

/-! ### A record of poison that leaves the package (R278, R280) -/

theorem physWrite_frame (s : State) (pa : Nat) (v : Word) (w : WriterId) :
    { physWrite s pa v w with mem := s.mem, notes := s.notes } = s := by
  unfold physWrite
  split
  · split <;> rfl
  · rfl

/-- A record in the package ring reaches no router and no Wiolo port. -/
theorem exportRecord_units (s : State) (unit : Nat) (addr : Word) :
    (exportRecord s unit addr).routers = s.routers ∧ (exportRecord s unit addr).wioloPorts = s.wioloPorts := by
  simp only [exportRecord, pkgErrRecord]
  split
  · exact ⟨rfl, rfl⟩
  · refine List.foldlRecOn (motive := fun t : State => t.routers = s.routers ∧ t.wioloPorts = s.wioloPorts) _ _
      ⟨rfl, rfl⟩ ?_
    intro t ⟨routers, ports⟩ x _
    exact ⟨(congrArg State.routers (physWrite_frame t ..)).trans routers,
      (congrArg State.wioloPorts (physWrite_frame t ..)).trans ports⟩

theorem exportRecord_off {s : State} (off : s.errs.en = false) (unit : Nat) (addr : Word) :
    (exportRecord s unit addr).mem = s.mem := by
  simp [exportRecord, pkgErrRecord, off]

/-! ### A packet at a Wiolo port (R81, log 77) -/

/-- A Wiolo port that a packet has reached: UP and with nothing held it frames the packet alone, else it holds it. -/
def WioloPort.reached (x : WioloPort) (p : Packet) : WioloPort :=
  if x.state = 2 ∧ x.held = [] then
    { x with sendSeq := x.sendSeq + 1
             replay := x.replay ++ [{ seq := x.sendSeq, crcOk := true, ack := x.recvSeq, packets := [p] }] }
  else { x with held := x.held ++ [p] }

theorem reached_up {x : WioloPort} (up : x.state = 2 ∧ x.held = []) (p : Packet) :
    (x.reached p).held = [] ∧ (x.reached p).replay.map (·.packets) = x.replay.map (·.packets) ++ [[p]] := by
  rw [WioloPort.reached, if_pos up]
  exact ⟨up.2, List.map_append⟩

theorem reached_holds {x : WioloPort} (not_up : ¬(x.state = 2 ∧ x.held = [])) (p : Packet) :
    (x.reached p).held = x.held ++ [p] ∧ (x.reached p).replay = x.replay := by
  rw [WioloPort.reached, if_neg not_up]
  exact ⟨rfl, rfl⟩

/-- The state in which a packet goes to the port: with a record of it where it is poisoned. -/
def recorded (s : State) (port : Nat) (p : Packet) : State := if pktPoisoned p then exportRecord s port 0 else s

theorem recorded_units (s : State) (port : Nat) (p : Packet) :
    (recorded s port p).routers = s.routers ∧ (recorded s port p).wioloPorts = s.wioloPorts := by
  unfold recorded
  split
  · exact exportRecord_units ..
  · exact ⟨rfl, rfl⟩

theorem recorded_mem {s : State} {p : Packet} (h : pktPoisoned p = false ∨ s.errs.en = false) (port : Nat) :
    (recorded s port p).mem = s.mem := by
  unfold recorded
  split
  · next poisoned => exact exportRecord_off (h.resolve_left (by simp [poisoned])) ..
  · rfl

theorem reachPort_eq (s : State) (port : Nat) (p : Packet) :
    reachPort s port p =
      { recorded s port p with
        wioloPorts := fset s.wioloPorts {} port ((fget s.wioloPorts {} port).reached p) } := by
  obtain ⟨-, ports⟩ := recorded_units s port p
  have branches : reachPort s port p =
      if (fget (recorded s port p).wioloPorts {} port).state = 2 &&
          (fget (recorded s port p).wioloPorts {} port).held.isEmpty then sendFrame (recorded s port p) port p
      else
        { recorded s port p with
          wioloPorts := fset (recorded s port p).wioloPorts {} port
            { fget (recorded s port p).wioloPorts {} port with
              held := (fget (recorded s port p).wioloPorts {} port).held ++ [p] } } := rfl
  rw [branches, sendFrame, ports]
  unfold WioloPort.reached
  simp only [Bool.and_eq_true, decide_eq_true_eq, List.isEmpty_iff]
  split <;> rfl

/-! ### A copy leaves on its output (R59, R61) -/

/-- A copy has left: its queue is shorter, and the turn of its output's channels has moved on. -/
def departed (s : State) (n i : Nat) (g : OutCopy) : State :=
  s.modRouter n fun x =>
    { x with outq := (s.router n).outq.eraseIdx i
             vcLast := if g.p.vc < 2 then x.vcLast else fset x.vcLast 5 g.out.key g.p.vc }

/-- One core of a cluster gets a packet, if the copy goes to it. -/
def handTo (c : Nat) (m : BitVec 16) (p : Packet) (s : State) (k : Nat) : State :=
  if m.getLsbD k then s.modCore (16 * c + k) fun x => { x with arrivals := x.arrivals ++ [p] } else s

/-- A packet from router n is received at the end of an output, with the outcomes of the link's code. -/
def received (n : Nat) (q : List Secded) (p : Packet) (s : State) : OutPort → State
  | .router m => (countErrors s m q p.flits.length).modRouter m fun x => { x with inq := x.inq ++ [(hopFrom n m, p)] }
  | .cluster c m => (List.range 16).foldl (handTo c m p) s
  | .wiolo port => reachPort s port p

/-- The copy whose turn it is, with room at the receiver and no earlier one of its stream, leaves. -/
theorem exec_linkFlitReceive_output {s : State} {router : BitVec 6} {i : Nat} {g : OutCopy}
    (here : (s.router router.toNat).outq[i]? = some g) (turn : linkVc s router.toNat g.out = some g.p.vc)
    (room : outRoom s router.toNat g = true)
    (first : ((s.router router.toNat).outq.take i).all (fun h => !(h.out.key == g.out.key && sameStream h.p g.p)) = true)
    (q : List Secded) :
    exec (.linkFlitReceive router i q) s =
      .next (received router.toNat q (strike q g.p) (departed s router.toNat i g) g.out) := by
  have inside : i < (s.router router.toNat).outq.length := (List.getElem?_eq_some_iff.1 here).1
  have none_before :
      ((s.router router.toNat).outq.take i).any (fun h => h.out.key == g.out.key && sameStream h.p g.p) = false := by
    rw [List.any_eq_not_all_not, first]; rfl
  change execLinkFlitReceive router i q s = _
  simp only [execLinkFlitReceive, if_pos inside, linkSend, here, takeAt_eq here, turn, room, none_before, ne_eq,
    not_true_eq_false, decide_false, Bool.not_true, Bool.or_self, Bool.false_eq_true, if_false, departed]
  cases g.out <;> rfl

theorem router_departed (s : State) (n i : Nat) (g : OutCopy) :
    (departed s n i g).router n =
      { s.router n with
        outq := (s.router n).outq.eraseIdx i
        vcLast := if g.p.vc < 2 then (s.router n).vcLast else fset (s.router n).vcLast 5 g.out.key g.p.vc } := by
  rw [departed, router_modRouter, if_pos rfl]

theorem router_departed_other {n m : Nat} (h : m ≠ n) (s : State) (i : Nat) (g : OutCopy) :
    (departed s n i g).router m = s.router m := by
  rw [departed, router_modRouter, if_neg h]

/-! ### The cores of a cluster get a packet (R69) -/

theorem handTo_fabric (c : Nat) (m : BitVec 16) (p : Packet) (s : State) (l : List Nat) :
    (l.foldl (handTo c m p) s).mem = s.mem ∧ (l.foldl (handTo c m p) s).routers = s.routers := by
  refine List.foldlRecOn (motive := fun t : State => t.mem = s.mem ∧ t.routers = s.routers) _ _ ⟨rfl, rfl⟩ ?_
  intro t ⟨hmem, hrouters⟩ k _
  unfold handTo
  split <;> exact ⟨hmem, hrouters⟩

theorem arrivals_handTo (c : Nat) (m : BitVec 16) (p : Packet) (s : State) (j k : Nat) :
    ((handTo c m p s j).core (16 * c + k)).arrivals =
      (s.core (16 * c + k)).arrivals ++ if k = j ∧ m.getLsbD k = true then [p] else [] := by
  unfold handTo
  by_cases hk : k = j
  · subst hk; split <;> simp_all
  · split <;> simp [core_modCore, hk]

/-- Each core is visited at most once. -/
theorem arrivals_foldl_handTo (c : Nat) (m : BitVec 16) (p : Packet) {l : List Nat} (h : l.Nodup) (s : State) (k : Nat) :
    ((l.foldl (handTo c m p) s).core (16 * c + k)).arrivals =
      (s.core (16 * c + k)).arrivals ++ if k ∈ l ∧ m.getLsbD k = true then [p] else [] := by
  induction l generalizing s with
  | nil => simp
  | cons j l ih =>
    obtain ⟨fresh, h⟩ := List.nodup_cons.1 h
    rw [List.foldl_cons, ih h, arrivals_handTo]
    by_cases hk : k = j
    · subst hk; simp [fresh]
    · simp [hk]

/-! ### What a received packet leaves -/

/-- Only a record of poison writes memory. -/
theorem received_mem {q : List Secded} {p : Packet} {s : State} {o : OutPort}
    (h : (∀ n, o ≠ .wiolo n) ∨ pktPoisoned p = false ∨ s.errs.en = false) (n : Nat) :
    (received n q p s o).mem = s.mem := by
  cases o with
  | router m => exact countErrors_mem ..
  | cluster c m => exact (handTo_fabric c m p s _).1
  | wiolo port =>
    rw [received, reachPort_eq]
    exact recorded_mem (h.resolve_left fun never => never port rfl) port

theorem outq_received (n : Nat) (q : List Secded) (p : Packet) (s : State) (o : OutPort) (k : Nat) :
    ((received n q p s o).router k).outq = (s.router k).outq := by
  cases o with
  | router m =>
    rw [received, router_modRouter]
    split
    · next h => subst h; exact outq_countErrors ..
    · exact outq_countErrors ..
  | cluster c m => simp only [received, State.router, (handTo_fabric c m p s _).2]
  | wiolo port => simp only [received, reachPort_eq, State.router, (recorded_units s port p).1]

theorem received_router (n m : Nat) (q : List Secded) (p : Packet) (s : State) :
    (received n q p s (.router m)).cores = s.cores ∧
      ((received n q p s (.router m)).router m).inq = (s.router m).inq ++ [(hopFrom n m, p)] ∧
      fget ((received n q p s (.router m)).router m).counters 0 6 =
        fget (s.router m).counters 0 6 + BitVec.ofNat 64 (lostFlits q p.flits.length) := by
  refine ⟨countErrors_cores .., ?_, ?_⟩
  · rw [received, router_modRouter, if_pos rfl, inq_countErrors]
  · rw [received, router_modRouter, if_pos rfl]
    exact linkpsn_countErrors ..

theorem received_cluster (n c : Nat) (m : BitVec 16) (q : List Secded) (p : Packet) (s : State) {k : Nat} (hk : k < 16) :
    ((received n q p s (.cluster c m)).core (16 * c + k)).arrivals =
      (s.core (16 * c + k)).arrivals ++ if m.getLsbD k then [p] else [] := by
  rw [received, arrivals_foldl_handTo c m p List.nodup_range]
  simp only [List.mem_range, hk, true_and]

theorem received_wiolo (n port : Nat) (q : List Secded) (p : Packet) (s : State) :
    fget (received n q p s (.wiolo port)).wioloPorts {} port = (fget s.wioloPorts {} port).reached p := by
  rw [received, reachPort_eq, fget_fset_same]

/-! ### The fabric's moves together -/

/-- Settles O26, move by move from the lemmas above; that a port frames one packet alone is the model's choice (log 77). -/
theorem fabricMovesPackets : Obligations.FabricMovesPackets := by
  unfold Obligations.FabricMovesPackets
  intro s router i
  refine ⟨?arrival, ?output, ?input, ?routeClass, ?msgmax⟩
  case arrival =>
    intro from_ p here first ready h1 h3
    have routed := exec_routerPacketArrival_class here first ready h1 h3
    constructor
    · intro invalid
      rw [classAt_invalid (by rwa [entry_taken])] at routed
      refine ⟨_, routed, accept_mem .., ?_, fun near => ?_⟩
      · rw [outq_accept, count, outq_countBy, router_taken]
      · rw [router_accept_near (s := count (taken s router.toNat i) router.toNat 1) near, count, inq_countBy,
          counters_countBy, router_taken]
        exact ⟨rfl, rfl⟩
    · intro valid single apart events own f sent
      rw [classAt_unicast (by rwa [entry_taken]) (by rwa [entry_taken]) (by rwa [entry_taken]), entry_taken] at routed
      have core := pktCore_onChannel (s.entry router.toNat (pktCls p)) from_ p
      have package := (pktPkg_onChannel (s.entry router.toNat (pktCls p)) from_ p).trans own
      refine ⟨fun here usable => ⟨_, routed, ?_⟩, fun away => ⟨_, routed, ?_⟩⟩
      · rw [unicastAt_here (s := taken s router.toNat i) package core here usable, apart]
        exact enqueue_taken ..
      · rw [unicastAt_hop (s := taken s router.toNat i) package core away, apart]
        exact enqueue_taken ..
  case output =>
    intro g q here turn room first
    refine ⟨fun j f hf => by rw [flits_strike, hf]; rfl,
      _, exec_linkFlitReceive_output here turn room first q, fun h => ?mem, ?queue, ?router, ?cluster, ?wiolo⟩
    case mem => exact received_mem (s := departed s router.toNat i g) h _
    case queue => rw [outq_received, router_departed]
    case router =>
      intro m out other
      obtain ⟨cores, inq, errors⟩ := received_router router.toNat m q (strike q g.p) (departed s router.toNat i g)
      rw [router_departed_other other] at inq errors
      rw [strike_length] at errors
      rw [out]
      exact ⟨cores, inq, errors⟩
    case cluster =>
      intro c m out k hk
      rw [out]
      exact received_cluster _ c m q _ _ hk
    case wiolo =>
      intro n out
      rw [out]
      simp only [received_wiolo]
      split
      · next up => exact reached_up up _
      · next not_up => exact reached_holds not_up _
  case input =>
    rintro j o p q here unit rfl
    refine ⟨_, exec_linkFlitReceive_input here unit q, countErrors_mem .., countErrors_cores .., ?_⟩
    rw [router_modRouter, if_pos rfl]
    exact ⟨congrArg (·.set j (o, strike q p)) (inq_countErrors ..), linkpsn_countErrors ..⟩
  case routeClass =>
    intro cls hi v small
    refine ⟨_, rfl, routeClassWrite_frame .., ?_⟩
    exact (entries_routeClassWrite small ..).trans (if_pos rfl)
  case msgmax =>
    intro v low high
    exact congrArg Host.Outcome.next ((msgmaxWrite_eq s v).trans (if_pos ⟨low, high⟩))

end Sys2Proof.Machine
end

-- ==== Proofs: traps ====
section
/-!
PROOFS. Traps: what freezing a context and handing its trap to the supervisor leave in the machine, which instructions and
which steps of the hardware raise one (R268 to R273), and the forms that only a supervisor may use (R85).
-/

namespace Sys2Proof.Machine

/-! ### Contexts of a core -/

/-- A change of a core beside its contexts. -/
theorem ctxAt_modCore_of_slots {f : Core → Core} (h : ∀ x, (f x).slots = x.slots) (s : State) (c d j : Nat) :
    (s.modCore c f).ctxAt d j = s.ctxAt d j := by
  rw [State.ctxAt, core_modCore]
  split
  · next same => subst same; rw [Core.ctx, h]; rfl
  · rfl

theorem ctx_eq_ctxAt {s : State} {p : Nat × Nat} (h : s.cur = p) : s.ctx = s.ctxAt p.1 p.2 := by rw [← h]; rfl

/-! ### Freezing (R271) -/

/-- A context as its trap freezes it: a barrier wait is to resume, and every other wait is over. -/
def Ctx.afterFreeze (x : Ctx) : Ctx :=
  { x with frozen := true, stalled := false, bypass := 0, wait := none, releasing := none, sending := none, await := none,
           answer := none, answerErr := none, asked := [],
           barResume := x.barResume || x.wait.any (·.kind == .barrier) }

theorem core_freeze (s : State) (c k d : Nat) :
    (freeze s c k).core d = if d = c then (s.core c).modCtx k Ctx.afterFreeze else s.core d := by
  have frozen : (freeze s c k).cores =
      fset s.cores (coreDefault c) c ((s.core c).modCtx k fun x =>
        { x.afterFreeze with barResume := x.barResume || (s.ctxAt c k).wait.any (·.kind == .barrier) }) := by
    unfold freeze Ctx.afterFreeze
    cases (s.ctxAt c k).wait <;> rfl
  have after : (freeze s c k).core d = ({ s with cores := (freeze s c k).cores } : State).core d := rfl
  rw [after, frozen]
  exact core_modCore s c d (·.modCtx k Ctx.afterFreeze)

theorem ctxAt_freeze (s : State) (c k d j : Nat) :
    (freeze s c k).ctxAt d j = if d = c ∧ j = k then (s.ctxAt c k).afterFreeze else s.ctxAt d j := by
  simp only [State.ctxAt, core_freeze]
  by_cases hd : d = c
  · subst hd; simp [core_ctx_modCtx]
  · simp [hd]

theorem trap_freeze (s : State) (c k : Nat) : ((freeze s c k).core c).trap = (s.core c).trap := by
  rw [core_freeze, if_pos rfl]; rfl

@[simp] theorem freeze_cur (s : State) (c k : Nat) : (freeze s c k).cur = s.cur := by
  unfold freeze
  dsimp only
  split <;> rfl

@[simp] theorem freeze_cycle (s : State) (c k : Nat) : (freeze s c k).cycle = s.cycle := by
  unfold freeze
  dsimp only
  split <;> rfl

theorem byte_freeze (s : State) (c k j : Nat) : (freeze s c k).mem.byte j = s.mem.byte j := by
  unfold freeze
  dsimp only
  split <;> rfl

/-! ### Handing a trap over (R271, Table 11-3) -/

theorem trap_handoff (s : State) (c : Nat) (r : TrapRec) :
    ((handoff s c r).core c).trap = { (s.core c).trap with
      tcause := r.cause.code, tpc := r.pc, tval := r.val, tseq := r.seq, tctx := r.ctx,
      gen := r.slot.elim 0 fun k => (s.ctxAt c k).gen, active := true, ctxv := r.slot.isSome,
      slot := BitVec.ofNat 3 (r.slot.getD 0), imprec := r.imprec, handled := some r } := by
  unfold handoff
  rw [core_modCore_same]
  cases r.slot <;> rfl

theorem core_handoff_other {c d : Nat} (h : d ≠ c) (s : State) (r : TrapRec) : (handoff s c r).core d = s.core d := by
  rw [handoff, core_modCore, if_neg h]

/-- The supervisor's context as it starts at the vector. -/
def Ctx.atVector (x : Ctx) (tvec : BitVec 62) : Ctx :=
  { x with occupied := true, pc := tvec ++ 0#2, wait := none, stalled := false }

theorem ctxAt_handoff (s : State) (c : Nat) (r : TrapRec) (j : Nat) :
    (handoff s c r).ctxAt c j = if j = 7 then (s.ctxAt c 7).atVector (s.core c).trap.tvec else s.ctxAt c j := by
  rw [State.ctxAt, handoff, core_modCore_same]
  exact core_ctx_modCtx (s.core c) 7 j (·.atVector (s.core c).trap.tvec)

theorem handOrHold_idle {s : State} {c : Nat} (idle : (s.core c).trap.active = false ∧ (s.core c).trap.held = [])
    (r : TrapRec) : handOrHold s c r = handoff s c { r with time := s.cycle.toNat } := by
  simp [handOrHold, Core.takesTrap, idle]

/-! ### A context's trap (R271) -/

/-- As far as a trap of context k of core c goes, u is s: the trap registers, the other contexts and cores, and of context k its
registers, its generation and whether it holds a task. -/
structure TrapBase (s u : State) (c k : Nat) : Prop where
  trap : (u.core c).trap = (s.core c).trap
  task : (u.ctxAt c k).gen = (s.ctxAt c k).gen ∧ (u.ctxAt c k).occupied = (s.ctxAt c k).occupied
  regs : KeepsRegs (s.ctxAt c k) (u.ctxAt c k)
  slots : ∀ j, j ≠ k → u.ctxAt c j = s.ctxAt c j
  others : ∀ d, d ≠ c → u.core d = s.core d

theorem KeepsRegs.refl (x : Ctx) : KeepsRegs x x := fun _ => ⟨rfl, rfl⟩

theorem TrapBase.refl (s : State) (c k : Nat) : TrapBase s s c k := ⟨rfl, ⟨rfl, rfl⟩, .refl _, fun _ _ => rfl, fun _ _ => rfl⟩

/-- The record of a trap that context k of core c raises in s: when, and in which wait (R271, R363). -/
def TrapRec.raisedIn (r : TrapRec) (s : State) (c k : Nat) : TrapRec :=
  { r with wait := (s.ctxAt c k).wait.map fun w => (w.kind, waitVal s c k w), time := s.cycle.toNat }

theorem raiseAt_idle {s : State} {c k : Nat} (compute : c ≠ mgmtCore) (user : k < 7)
    (idle : (s.core c).trap.active = false ∧ (s.core c).trap.held = []) (r : TrapRec) :
    raiseAt s c k r = handoff (freeze s c k) c (r.raisedIn s c k) := by
  rw [raiseAt, if_neg compute, if_neg (by omega), handOrHold_idle (by rw [trap_freeze]; exact idle), freeze_cycle]
  rfl

/-- A trap of a user context of a compute core whose supervisor is idle enters the supervisor at once. -/
theorem trapsWith_raiseAt {s u : State} {c k : Nat} {r : TrapRec} (base : TrapBase s u c k) (compute : c ≠ mgmtCore)
    (user : k < 7) (idle : (s.core c).trap.active = false ∧ (s.core c).trap.held = []) (slot : r.slot = some k)
    (pc : (u.ctxAt c k).pc = r.pc) :
    TrapsWith r.imprec s (raiseAt u c k r) c k r.cause.code r.pc r.val r.ctx := by
  obtain ⟨trap, ⟨gen, occupied⟩, regs, slots, others⟩ := base
  have hk : k ≠ 7 := by omega
  rw [raiseAt_idle compute user (by rwa [trap])]
  have rslot : (r.raisedIn u c k).slot = some k := slot
  have entered := trap_handoff (freeze u c k) c (r.raisedIn u c k)
  have at_ := ctxAt_handoff (freeze u c k) c (r.raisedIn u c k)
  simp only [trap_freeze, ctxAt_freeze, true_and, if_neg hk.symm, trap, slots 7 hk.symm, rslot, Option.elim, if_pos] at entered at_
  refine ⟨?_, ?_, ?_, ?_, ?_, ?_, ?_, fun j hj h7 => ?_, fun d hd => ?_⟩
  · rw [entered]; rfl
  · rw [entered]; exact ⟨rfl, rfl, rfl⟩
  · rw [entered]
    exact ⟨rfl, rfl, rfl, Nat.mod_eq_of_lt (Nat.lt_succ_of_lt user), gen⟩
  · rw [entered]; exact ⟨rfl, rfl, rfl⟩
  · rw [at_ k, if_neg hk, if_pos rfl]; exact ⟨rfl, pc, occupied⟩
  · rw [at_ k, if_neg hk, if_pos rfl]; exact regs
  · rw [at_ 7, if_pos rfl]; exact ⟨rfl, rfl, .refl _⟩
  · rw [at_ j, if_neg h7, if_neg hj, slots j hj]
  · rw [core_handoff_other hd, core_freeze, if_neg hd, others d hd]

theorem ctxAt_raiseAt_own {s : State} {c k : Nat} (compute : c ≠ mgmtCore) (user : k < 7)
    (idle : (s.core c).trap.active = false ∧ (s.core c).trap.held = []) (r : TrapRec) :
    (raiseAt s c k r).ctxAt c k = (s.ctxAt c k).afterFreeze := by
  rw [raiseAt_idle compute user idle, ctxAt_handoff, if_neg (by omega), ctxAt_freeze, if_pos ⟨rfl, rfl⟩]

theorem raiseAt_cur_idle {s : State} {c k : Nat} (compute : c ≠ mgmtCore) (user : k < 7)
    (idle : (s.core c).trap.active = false ∧ (s.core c).trap.held = []) (r : TrapRec) : (raiseAt s c k r).cur = s.cur := by
  rw [raiseAt_idle compute user idle]
  exact freeze_cur ..

/-- Taking a trap writes no byte, but for a supervisor's own, which leaves an error record. -/
theorem byte_raiseAt {c k : Nat} (hk : k ≠ 7) (s : State) (r : TrapRec) (j : Nat) :
    (raiseAt s c k r).mem.byte j = s.mem.byte j := by
  rw [raiseAt]
  split
  · rw [handoff_mem, byte_freeze]
  · rw [handOrHold_mem, byte_freeze]

/-! ### The issuing context's trap -/

/-- Where a trap of the issuing context is entered from u, s but for what its instruction has done before it. -/
structure TrapsFrom (s u : State) : Prop where
  takes : TakesTraps s
  base : TrapBase s u s.cur.1 s.cur.2
  cur : u.cur = s.cur

theorem TrapsFrom.refl {s : State} (h : TakesTraps s) : TrapsFrom s s := ⟨h, .refl .., rfl⟩

theorem TrapsFrom.trapEntered {s u : State} (h : TrapsFrom s u) (cause : Cause) (val ctx : Word) :
    TrapEntered s (trapState cause val ctx u) cause.code u.ctx.pc val ctx := by
  obtain ⟨⟨user, compute, idle⟩, base, cur⟩ := h
  rw [trapState, cur]
  exact trapsWith_raiseAt (r := { cause, pc := u.ctx.pc, val, ctx, seq := 0, slot := some s.cur.2, imprec := false })
    base compute user idle rfl (congrArg Ctx.pc (ctx_eq_ctxAt cur).symm)

theorem TrapsFrom.byte {s u : State} (h : TrapsFrom s u) (cause : Cause) (val ctx : Word) :
    BytesKept u (trapState cause val ctx u) :=
  byte_raiseAt (by have := h.takes.user; rw [h.cur]; omega) _ _

theorem TrapsFrom.instret {s u : State} (h : TrapsFrom s u) (cause : Cause) (val ctx : Word) :
    (trapState cause val ctx u).ctx.instret = u.ctx.instret := by
  obtain ⟨⟨user, compute, idle⟩, base, cur⟩ := h
  have idle' : (u.core u.cur.1).trap.active = false ∧ (u.core u.cur.1).trap.held = [] := by rw [cur, base.trap]; exact idle
  rw [← cur] at user compute
  have own := ctxAt_raiseAt_own compute user idle'
    { cause, pc := u.ctx.pc, val, ctx, seq := 0, slot := some u.cur.2, imprec := false }
  exact (congrArg Ctx.instret ((ctx_eq_ctxAt (raiseAt_cur_idle compute user idle' _)).trans own) :)

/-- A change of the issuing context that leaves its registers and its task does not matter to its trap. -/
theorem TrapsFrom.modCtx {s : State} (h : TakesTraps s) (f : Ctx → Ctx) (gen : (f s.ctx).gen = s.ctx.gen)
    (occupied : (f s.ctx).occupied = s.ctx.occupied) (regs : KeepsRegs s.ctx (f s.ctx)) : TrapsFrom s (s.modCtx f) := by
  have frame := alone_modCtx s f
  have here : (s.modCtx f).ctxAt s.cur.1 s.cur.2 = f s.ctx := ctx_modCtx s f
  refine ⟨h, ⟨?_, ?_, ?_, frame.slots, frame.others⟩, rfl⟩
  · exact (congrArg Core.trap frame.core :)
  · rw [here]; exact ⟨gen, occupied⟩
  · rw [here]; exact regs

/-! ### Forms of the supervisor (R85) -/

theorem isSuper_user {s : State} (h : TakesTraps s) : s.isSuper = false := by
  have := h.user
  simp only [State.isSuper, beq_eq_false_iff_ne]
  omega

theorem withHandled_user {s : State} (user : s.isSuper = false) (i : Instr) (needCtx : Bool)
    (f : TrapRec → State → Result) :
    withHandled i needCtx f s = trap .priv (((encode i).getD 0).setWidth 64) 0 s := by
  simp [withHandled, user]

theorem superOnly_user {s : State} (user : s.isSuper = false) (i : Instr) (f : State → Result) :
    superOnly i f s = trap .priv (((encode i).getD 0).setWidth 64) 0 s := by
  simp [superOnly, user]

/-- In a user context each form of the supervisor raises PRIV with its word. -/
theorem exec_privileged {s : State} (user : s.isSuper = false) {d a b : Reg} {c : Scope} {i : Instr}
    (hi : i ∈ [Instr.eret a, .halt, .tkill, .nfail d a, .ctxsave a, .ctxload d a, .tlbinvPg a b c, .tlbinvRl b c,
      .tlbinvAll c]) :
    exec i s = trap .priv (((encode i).getD 0).setWidth 64) 0 s := by
  simp only [List.mem_cons, List.not_mem_nil, or_false] at hi
  rcases hi with rfl | rfl | rfl | rfl | rfl | rfl | rfl | rfl | rfl
  case inl | inr.inr.inr.inl | inr.inr.inr.inr.inl => exact withHandled_user user ..
  case inr.inr.inl =>
    have run : exec .tkill s = execTkill s := rfl
    rw [run, execTkill, withHandled_user user]
  case inr.inl => exact if_pos (by rw [user]; rfl)
  case inr.inr.inr.inr.inr.inl => exact if_pos (by rw [user]; rfl)
  all_goals exact superOnly_user user ..

/-- Settles O45: each form raises PRIV before any effect. -/
theorem privilegedForms : Obligations.PrivilegedForms := by
  unfold Obligations.PrivilegedForms
  intro s d a b c i w takes hi word
  have run := exec_privileged (isSuper_user takes) hi
  rw [word] at run
  have from_ := TrapsFrom.refl takes
  exact ⟨_, run, from_.trapEntered .priv (w.setWidth 64) 0, from_.byte .priv (w.setWidth 64) 0⟩

/-! ### A record of consumed poison (R277, R280) -/

theorem writeSram_cores_cur (s : State) (c off n : Nat) (v : Word) (p : Bool) (w : WriterId) :
    (writeSram s c off n v p w).cores = s.cores ∧ (writeSram s c off n v p w).cur = s.cur := by
  simp only [writeSram, disturb]
  split <;> exact ⟨rfl, rfl⟩

theorem putRecord_cores_cur {write : State → Nat → Word → State}
    (h : ∀ s o v, (write s o v).cores = s.cores ∧ (write s o v).cur = s.cur) (s : State) (ws : List Word) :
    (putRecord s write ws).cores = s.cores ∧ (putRecord s write ws).cur = s.cur := by
  refine List.foldlRecOn (motive := fun t : State => t.cores = s.cores ∧ t.cur = s.cur) _ _ ⟨rfl, rfl⟩ ?_
  intro t ⟨cores, cur⟩ x _
  exact ⟨(h ..).1.trans cores, (h ..).2.trans cur⟩

/-- A record in a core's ring changes of the cores only that one's count of records. -/
theorem coreErrRecord_cores (s : State) (c : Nat) (flags addr vaddr ctxw pc unit : Word) :
    let t := coreErrRecord s c flags addr vaddr ctxw pc unit
    { t.core c with errCount := 0 } = { s.core c with errCount := 0 } ∧ (∀ d, d ≠ c → t.core d = s.core d) ∧ t.cur = s.cur := by
  unfold coreErrRecord
  dsimp only
  split
  · exact ⟨rfl, fun _ _ => rfl, rfl⟩
  · generalize written : putRecord s _ _ = t
    obtain ⟨cores, cur⟩ : t.cores = s.cores ∧ t.cur = s.cur := by
      rw [← written]
      exact putRecord_cores_cur (fun _ _ _ => writeSram_cores_cur ..) ..
    have core : ∀ d, t.core d = s.core d := fun d => congrArg (fun m => fget m (coreDefault d) d) cores
    refine ⟨?_, fun d hd => ?_, cur⟩
    · rw [core_modCore_same, core]
    · rw [core_modCore, if_neg hd, core]

theorem consumedRecord_traps {s : State} (takes : TakesTraps s) (kind : Nat) (src : ErrSource) (vaddr : Word) :
    TrapsFrom s (consumedRecord s s.cur.1 s.cur.2 kind src vaddr) ∧
      (consumedRecord s s.cur.1 s.cur.2 kind src vaddr).ctx = s.ctx := by
  rw [consumedRecord, if_neg takes.compute, consumedAt]
  generalize recorded : coreErrRecord s s.cur.1 _ _ _ _ _ _ = t
  obtain ⟨here, others, cur⟩ : _ ∧ _ ∧ _ := recorded ▸ coreErrRecord_cores s s.cur.1 _ _ _ _ _ _
  have trap := congrArg Core.trap here
  have ctx : ∀ j, t.ctxAt s.cur.1 j = s.ctxAt s.cur.1 j := fun j => (congrArg (fun x : Core => x.ctx j) here :)
  refine ⟨⟨takes, ⟨trap, ?_, ?_, fun j _ => ctx j, others⟩, cur⟩, (ctx_eq_ctxAt cur).trans (ctx _)⟩
  · rw [ctx]; exact ⟨rfl, rfl⟩
  · rw [ctx]; exact .refl _

theorem fetchRecord_traps {s : State} (takes : TakesTraps s) (pc : Word) :
    TrapsFrom s (fetchRecord s pc) ∧ (fetchRecord s pc).ctx = s.ctx := by
  unfold fetchRecord
  split
  · exact consumedRecord_traps takes ..
  · exact ⟨.refl takes, rfl⟩

/-! ### The supervisor's own trap (R272) -/

/-- A record in the package ring reaches no core. -/
theorem pkgErrRecord_cores_cur (s : State) (flags addr vaddr ctxw pc unit : Word) :
    (pkgErrRecord s flags addr vaddr ctxw pc unit).cores = s.cores ∧
      (pkgErrRecord s flags addr vaddr ctxw pc unit).cur = s.cur := by
  have write : ∀ (t : State) pa v w, (physWrite t pa v w).cores = t.cores ∧ (physWrite t pa v w).cur = t.cur :=
    fun t pa v w =>
      have frame := physWrite_frame t pa v w
      ⟨(congrArg State.cores frame :), (congrArg State.cur frame :)⟩
  unfold pkgErrRecord
  dsimp only
  split
  · exact ⟨rfl, rfl⟩
  · exact putRecord_cores_cur (fun t _ _ => write t ..) s _

/-- The trap of a compute core's supervisor halts the core; its registers stay. -/
theorem trapState_halts {s : State} (super : s.isSuper = true) (compute : s.cur.1 ≠ mgmtCore) (cause : Cause)
    (val ctx : Word) :
    (trapState cause val ctx s).here.halted = true ∧ KeepsRegs s.ctx (trapState cause val ctx s).ctx := by
  have slot : s.cur.2 = 7 := by simpa [State.isSuper] using super
  rw [trapState, raiseAt, if_neg compute, if_pos slot, haltCore]
  generalize recorded : pkgErrRecord s _ _ _ _ _ _ = t
  obtain ⟨cores, cur⟩ : _ ∧ _ := recorded ▸ pkgErrRecord_cores_cur s _ _ _ _ _ _
  have core : ∀ d, t.core d = s.core d := fun d => congrArg (fun m => fget m (coreDefault d) d) cores
  constructor
  · rw [State.here, modCore_cur, cur, core_modCore_same]
  · have own : t.ctx = s.ctx := by rw [ctx_eq_ctxAt (p := s.cur) cur, State.ctxAt, core]; rfl
    have kept : (t.modCore s.cur.1 fun x => { x with halted := true }).ctx = t.ctx :=
      ctxAt_modCore_of_slots (f := fun x => { x with halted := true }) (fun _ => rfl) t s.cur.1 ..
    rw [kept, own]
    exact .refl _

/-! ### Traps that instructions raise -/

theorem TrapsFrom.advance {s : State} (h : TakesTraps s) : TrapsFrom s (s.modCtx Ctx.advance) :=
  .modCtx h _ rfl rfl fun _ => ⟨rfl, rfl⟩

/-- TRAP and BRKPT are complete when their trap is entered (R352, R413). -/
theorem trapsAfter {s : State} (h : TakesTraps s) (cause : Cause) (val : Word) :
    let t := trapState cause val 0 (s.modCtx Ctx.advance)
    TrapEntered s t cause.code (s.ctx.pc + 4) val 0 ∧ t.ctx.instret = s.ctx.instret + 1 ∧ BytesKept s t := by
  have from_ := TrapsFrom.advance h
  have entered := from_.trapEntered cause val 0
  have counted := from_.instret cause val 0
  rw [ctx_modCtx] at entered counted
  exact ⟨entered, counted, from_.byte cause val 0⟩

/-- A fetch that fails raises its cause; poison in the word leaves a record too (R169, R277). -/
theorem fetchFault_entered {s : State} (h : TakesTraps s) {e : Cause} {v x : Word}
    (fails : fetchWord s s.cur.1 s.cur.2 s.ctx.pc = .fault e v x) :
    ∃ t, exec .fetchFault s = .next t ∧
      (e ≠ .poison → TrapEntered s t e.code s.ctx.pc v x ∧ BytesKept s t) ∧
      (e = .poison → TrapEntered s t 0x09 s.ctx.pc s.ctx.pc 6) := by
  have run : exec .fetchFault s = execFetchFault s := rfl
  rw [run, execFetchFault]
  split
  case h_1 poisoned =>
    cases fails.symm.trans poisoned
    obtain ⟨from_, own⟩ := fetchRecord_traps h s.ctx.pc
    have entered := from_.trapEntered .poison s.ctx.pc 6
    rw [own] at entered
    exact ⟨_, rfl, fun not => absurd rfl not, fun _ => entered⟩
  case h_2 notPoison failed =>
    cases fails.symm.trans failed
    have from_ := TrapsFrom.refl h
    exact ⟨_, rfl, fun _ => ⟨from_.trapEntered e v x, from_.byte e v x⟩, fun is => (notPoison is).elim⟩
  all_goals
    rename_i other
    cases fails.symm.trans other

/-! ### Traps that the core raises by itself -/

theorem compute_of_twelve_bits (core : BitVec 12) : core.toNat ≠ mgmtCore := Nat.ne_of_lt core.isLt

/-- A trap at the boundary of a user context whose supervisor is idle: its words are those of the wait that it ends. -/
theorem boundaryTrap_entered {s : State} {c k : Nat} (compute : c ≠ mgmtCore) (user : k < 7)
    (idle : (s.core c).trap.active = false ∧ (s.core c).trap.held = []) (cause : Cause) :
    TrapsAt s (boundaryTrap s c k cause) c k cause.code (s.ctxAt c k).pc (waitWords s c k).1 (waitWords s c k).2 ∧
      BytesKept s (boundaryTrap s c k cause) :=
  ⟨trapsWith_raiseAt (r := ⟨cause, _, _, _, 0, some k, false, 0, none⟩) (.refl s c k) compute user idle rfl rfl,
    byte_raiseAt (by omega) s _⟩

theorem waitWords_none {s : State} {c k : Nat} (h : (s.ctxAt c k).wait = none) : waitWords s c k = (0, 0) := by
  rw [waitWords, h]

theorem waitWords_some {s : State} {c k : Nat} {w : Wait} (h : (s.ctxAt c k).wait = some w) (asleep : w.redo = false) :
    waitWords s c k = (waitVal s c k w, BitVec.ofNat 64 w.kind.code) := by
  rw [waitWords, h]
  exact if_neg (by rw [asleep]; decide)

theorem exec_budgetExpiry {s : State} {core : BitVec 12} {slot : BitVec 3}
    (spent : budgetSpent s core.toNat slot.toNat = true) (boundary : atBoundary s core.toNat slot.toNat = true)
    (first : coprocPends s core.toNat slot.toNat = false) :
    exec (.budgetExpiry core slot) s = .next (boundaryTrap s core.toNat slot.toNat .budget) :=
  congrArg Host.Outcome.next (if_pos (by rw [spent, boundary, first]; rfl))

/-- A context that sleeps has not been told to make its instruction anew. -/
theorem redo_of_asleep {x : Core} {y : Ctx} {w : Wait} (h : y.wait = some w) (sleeps : asleep x y = true) :
    w.redo = false := by
  simp only [asleep, h, Bool.and_eq_true, Bool.not_eq_true'] at sleeps
  exact sleeps.1

theorem exec_waitLimitExpiry {s : State} {core : BitVec 12} {slot : BitVec 3} {w : Wait}
    (waits : (s.ctxAt core.toNat slot.toNat).wait = some w) (left : w.left = 0)
    (sleeps : asleep (s.core core.toNat) (s.ctxAt core.toNat slot.toNat) = true)
    (rich : budgetSpent s core.toNat slot.toNat = false) (first : coprocPends s core.toNat slot.toNat = false)
    (boundary : atBoundary s core.toNat slot.toNat = true)
    (noGraph : (s.ctxAt core.toNat slot.toNat).graphTrap = none) :
    exec (.waitLimitExpiry (core.setWidth 13) slot) s = .next (boundaryTrap s core.toNat slot.toNat .waitLimit) := by
  have number : (core.setWidth 13).toNat = core.toNat := by
    rw [BitVec.toNat_setWidth]; have := core.isLt; omega
  have run : exec (.waitLimitExpiry (core.setWidth 13) slot) s = execWaitLimitExpiry (core.setWidth 13) slot s := rfl
  rw [run, execWaitLimitExpiry, number, waits]
  simp only [left, sleeps, rich, first, boundary, noGraph, decide_true, Bool.not_false, Bool.and_self, if_true]

/-! ### Handing over a held trap -/

theorem exec_trapHandoff {s : State} {core : BitVec 13} {r : TrapRec} {rest : List TrapRec}
    (held : (s.core core.toNat).trap.held = r :: rest) (idle : (s.core core.toNat).trap.active = false)
    (runs : (s.core core.toNat).halted = false) (notStopped : (s.core core.toNat).stopped = false) :
    exec (.trapHandoff core) s = .next (handoff (s.modCore core.toNat fun x => { x with trap := { x.trap with held := rest } })
      core.toNat r) := by
  have run : exec (.trapHandoff core) s = execTrapHandoff core s := rfl
  rw [run, execTrapHandoff, runs, notStopped, handoffHeld, held, idle]
  rfl

/-- What the supervisor finds of a held trap that is handed over: its trap registers and its own context; no other context and
no other core has changed (R271). -/
theorem handoff_held (s : State) (c : Nat) (r : TrapRec) (rest : List TrapRec) :
    let t := handoff (s.modCore c fun x => { x with trap := { x.trap with held := rest } }) c r
    let x := (t.core c).trap
    x.tcause = r.cause.code ∧ x.tpc = r.pc ∧ x.tval = r.val ∧ x.tctx = r.ctx ∧ x.tseq = r.seq ∧ x.active = true ∧
      x.ctxv = r.slot.isSome ∧ x.imprec = r.imprec ∧ x.held = rest ∧ (t.ctxAt c 7).occupied = true ∧
      (t.ctxAt c 7).pc = (s.core c).trap.tvec ++ 0#2 ∧ (∀ j, j ≠ 7 → t.ctxAt c j = s.ctxAt c j) ∧
      ∀ d, d ≠ c → t.core d = s.core d := by
  have slots := ctxAt_modCore_of_slots (f := fun x => { x with trap := { x.trap with held := rest } }) (fun _ => rfl) s c c
  simp only [trap_handoff, ctxAt_handoff, slots, core_modCore_same, if_true, true_and]
  refine ⟨rfl, rfl, fun j hj => if_neg hj, fun d hd => ?_⟩
  rw [core_handoff_other hd, core_modCore, if_neg hd]

/-- Settles O43. -/
theorem trapsAreTaken : Obligations.TrapsAreTaken := by
  unfold Obligations.TrapsAreTaken
  intro s
  refine ⟨fun takes => ⟨fun c => ?trap, ?brkpt, fun w => ?illegal, fun e v x fails => fetchFault_entered takes fails⟩,
    fun super compute c w i hi => ?halts, fun core slot => ?boundary, fun core r rest => ?handoff⟩
  case trap => exact ⟨_, rfl, trapsAfter takes .syscall (c.setWidth 64)⟩
  case brkpt => exact ⟨_, rfl, trapsAfter takes .brk 0⟩
  case illegal =>
    have from_ := TrapsFrom.refl takes
    exact ⟨_, rfl, from_.trapEntered .illegal (w.setWidth 64) 0, from_.instret .illegal (w.setWidth 64) 0,
      from_.byte .illegal (w.setWidth 64) 0⟩
  case halts =>
    have advanced : KeepsRegs s.ctx (s.modCtx Ctx.advance).ctx := by rw [ctx_modCtx]; exact fun _ => ⟨rfl, rfl⟩
    have after (cause : Cause) (val : Word) : (trapState cause val 0 (s.modCtx Ctx.advance)).here.halted = true ∧
        KeepsRegs s.ctx (trapState cause val 0 (s.modCtx Ctx.advance)).ctx := by
      obtain ⟨halted, regs⟩ := trapState_halts (s := s.modCtx Ctx.advance) super compute cause val 0
      exact ⟨halted, fun r => ⟨(regs r).1.trans (advanced r).1, (regs r).2.trans (advanced r).2⟩⟩
    simp only [List.mem_cons, List.not_mem_nil, or_false] at hi
    rcases hi with rfl | rfl | rfl
    · exact ⟨_, rfl, after .syscall (c.setWidth 64)⟩
    · exact ⟨_, rfl, after .brk 0⟩
    · exact ⟨_, rfl, trapState_halts super compute .illegal (w.setWidth 64) 0⟩
  case boundary =>
    intro c k x active held boundary first
    refine ⟨fun spent => ?budget, fun w rich user _ waits left sleeps noGraph => ?limit⟩
    case budget =>
      have user : slot.toNat < 7 := by
        simp only [budgetSpent, Bool.and_eq_true, decide_eq_true_eq] at spent
        exact spent.1.2
      have entered := boundaryTrap_entered (compute_of_twelve_bits core) user ⟨active, held⟩ .budget
      refine ⟨fun awake => ⟨_, exec_budgetExpiry spent boundary first, ?_⟩,
        fun w waits fresh => ⟨_, exec_budgetExpiry spent boundary first, ?_⟩⟩
      · rw [waitWords_none awake] at entered; exact entered
      · rw [waitWords_some waits fresh] at entered; exact entered
    case limit =>
      have entered := boundaryTrap_entered (compute_of_twelve_bits core) user ⟨active, held⟩ .waitLimit
      rw [waitWords_some waits (redo_of_asleep waits sleeps)] at entered
      exact ⟨_, exec_waitLimitExpiry waits left sleeps rich first boundary noGraph, entered⟩
  case handoff =>
    intro c held idle runs notStopped
    exact ⟨_, exec_trapHandoff held idle runs notStopped, rfl, handoff_held s core.toNat r rest⟩

end Sys2Proof.Machine
end

-- ==== Proofs: statements of tasks and registers that states at the edge refute ====
section
/-!
PROOFS. Three statements that hold of no more than the states that they have in mind, and the states that refute them: a task
that waits with more arguments than registers take, the end of a node's body with a copy that its context does not count, and a
write of BANKMODE whose own effect starts the writer's trap handler.
-/

namespace Sys2Proof.Machine

/-! ### A waiting start with 31 arguments (R86, R87) -/

/-- A tile or node task for slots 1 to 6 with 31 arguments, all 1: the last three are for no register. -/
def longStart : Start :=
  { engine := false, prio := 0, entry := 0, args := List.replicate 31 (1, false), budget := 0, realm := 0, tinfo := 0,
    walkid := 0, nodeid := 0, launch := 0 }

/-- Core 64 with nothing but that start waiting. -/
def longStartWaits : State := State.reset.modCore 64 fun x => { x with starts := [longStart] }

/-- Argument 30 is for register 34, that is g2, which is to hold the stack pointer. -/
theorem longStart_overwrites_g2 : ∃ t, exec (.slotFree 64 false) longStartWaits = .next t ∧ (t.ctxAt 64 1).reg 2 = 1 :=
  ⟨_, rfl, by decide +kernel⟩

/-- Refutes O28: the start that SLOT_FREE gives a slot may have any number of arguments there, and the pointers of Table 4-1 hold
only for as many as Table 4-1 has registers for: with 31 the last one stands in g2. -/
theorem not_messagesStartTasks : ¬ Obligations.MessagesStartTasks := by
  unfold Obligations.MessagesStartTasks
  intro h
  obtain ⟨-, slotFree⟩ := h longStartWaits 64 0 ⟨0, [], 0, 0, none, none⟩
  obtain ⟨started, -⟩ := slotFree false 1 (by decide +kernel)
  obtain ⟨t, run, starts, -⟩ := started longStart rfl rfl (.inl (by decide +kernel))
  obtain ⟨u, run', g2⟩ := longStart_overwrites_g2
  obtain rfl : t = u := Host.Outcome.next.inj (run.symm.trans run')
  obtain ⟨stack, -⟩ := starts.pointers
  have top : (((fget (longStartWaits.core 64).sptop 0 1) ++ 0#4).signExtend 64 : Word) = 0 := by decide +kernel
  exact absurd (g2.symm.trans (stack.trans top)) (by decide)

/-! ### The end of a node's body with a copy on its way (R264, R296) -/

/-- The body of a node in slot 3 of core 64, with a copy of its own on the way that no batch of its context counts. -/
def uncountedCopy : State :=
  { (State.reset.modCtxAt 64 3 fun x => { x with occupied := true, tinfo := 3 }).modMem fun m =>
      { m with copies := [{ Copy.blank .linear 0 with core := 64, slot := 3 }] } with
    cur := (64, 3) }

theorem uncountedCopy_owes : ∃ t, exec .endt uncountedCopy = .next t ∧ t.owed ≠ uncountedCopy.owed :=
  ⟨_, rfl, by decide +kernel⟩

/-- Refutes O40: that OPENN is 0 and that no batch is sealed does not say that the task has no copy on its way, and the run of a
node's body waits for those (R296), so that the list of what is owed grows. -/
theorem not_tasksEnd : ¬ Obligations.TasksEnd := by
  unfold Obligations.TasksEnd
  intro h
  obtain ⟨ends, -⟩ := h uncountedCopy
  obtain ⟨t, run, -, -, owed, -⟩ := ends rfl (by decide +kernel) (fun slot0 => absurd slot0 (by decide)) (by decide +kernel)
    (by decide +kernel) (by decide +kernel) (fun _ => by decide +kernel) (by decide +kernel) .endt (.inl rfl)
  obtain ⟨u, run', grown⟩ := uncountedCopy_owes
  obtain rfl : t = u := Host.Outcome.next.inj (run.symm.trans run')
  exact grown (owed (by decide +kernel))

/-! ### A write of BANKMODE that starts the writer's own trap handler (R177, R180, R271) -/

/-- The supervisor of core 64 runs with no trap to handle, its vector at 0x40, and a task of the core in slot 3 sleeps at the FIFO
port of bank 0 of its cluster. -/
def sleeperBesideSupervisor : State :=
  { ((State.reset.modCtxAt 64 7 fun x => { x with occupied := true }).modCtxAt 64 3 fun x =>
        { x with occupied := true, tbudget := 1, wait := some { kind := .fifo, val := 0, left := 1 } }).modCore 64 (fun x =>
        { x with trap := { x.trap with tvec := 0x10 } }) |>.modCluster 4 fun n =>
      { n with banks := [(0, { mode := .fifo, sleepers := [(64, 3, none, 0)] })] } with
    cur := (64, 7) }

/-- The sleeper's BOUNDS sets the PC of slot 7 to the vector, and the completion of the write moves it on. -/
theorem bankmode_write_moves_pc :
    ∃ t, exec (.csrw 0 0 0x8A0) sleeperBesideSupervisor = .next t ∧ t.ctx.pc = 0x44 :=
  ⟨_, rfl, by decide +kernel⟩

/-- Refutes O41: a supervisor that handles no trap writes BANKMODE, so that a bank leaves FIFO and a task of its own core that
sleeps at the port raises BOUNDS (R180). The trap enters slot 7 in the same step: the writer's PC is then the word after its
vector and not the word after its CSRW. -/
theorem not_controlRegisters : ¬ Obligations.ControlRegisters := by
  unfold Obligations.ControlRegisters
  intro ⟨forms, _⟩
  obtain ⟨completes, -⟩ := forms sleeperBesideSupervisor 0 0 0x8A0
  obtain ⟨-, writes⟩ := completes (by decide +kernel) (fun _ => rfl) (fun low => absurd low (by decide))
  obtain ⟨⟨t, run, -, -, done, -⟩, -⟩ := writes ⟨rfl, by decide +kernel⟩ rfl
  obtain ⟨u, run', pc⟩ := bankmode_write_moves_pc
  obtain rfl : t = u := Host.Outcome.next.inj (run.symm.trans run')
  have start : sleeperBesideSupervisor.ctx.pc = 0 := by decide +kernel
  exact absurd (pc.symm.trans (done.pc.trans (by rw [start]))) (by decide)

end Sys2Proof.Machine
end

-- ==== Proofs: notices ====
section
/-!
PROOFS. Notices: what an acceptance, a REFUSE and a FREE do to a retry buffer (R94), and what a WATCH does at a core that
runs, is stopped, or is marked out (R20, R283, R290).
-/

namespace Sys2Proof.Machine

/-! ### The retry buffer (R94) -/

/-- A retry buffer with entry e set. -/
def Core.setRetry (e : Nat) (r : Option Retry) (x : Core) : Core := { x with retry := fset x.retry none e r }

theorem retry_setRetry (s : State) (c e k : Nat) (r : Option Retry) :
    fget ((s.modCore c (·.setRetry e r)).core c).retry none k = if k = e then r else fget (s.core c).retry none k := by
  rw [core_modCore_same]
  exact fget_fset ..

/-- The machine once notice i has been taken. -/
def noticeTaken (s : State) (i : Nat) : State := { s with notes := s.notes.eraseIdx i }

theorem exec_acceptance {s : State} {i c e : Nat} (here : s.notes[i]? = some (.acceptance c e)) :
    exec (.acceptance i) s =
      .next ((noticeTaken s i).modCore c (·.setRetry e none)) := by
  have run : exec (.acceptance i) s = execAcceptance i s := rfl
  rw [run, execAcceptance, takeAt_eq here]
  rfl

theorem exec_refuseNotice {s : State} {i c e : Nat} {q : Retry} (here : s.notes[i]? = some (.refuse c e))
    (sent : fget (s.core c).retry none e = some q) :
    exec (.refuseNotice i) s = .next ((noticeTaken s i).modCore c (·.setRetry e (some { q with refused := true }))) := by
  have run : exec (.refuseNotice i) s = execRefuseNotice i s := rfl
  have sent' : fget ((noticeTaken s i).core c).retry none e = some q := sent
  rw [run, execRefuseNotice, takeAt_eq here]
  have marked : ((noticeTaken s i).modCore c fun x =>
      x.setRetry e ((fget x.retry none e).map fun (r : Retry) => { r with refused := true })) =
      (noticeTaken s i).modCore c (·.setRetry e (some { q with refused := true })) := by
    rw [State.modCore, State.modCore, sent']; rfl
  exact congrArg Host.Outcome.next marked

theorem core_noticeTaken (s : State) (i c : Nat) : (noticeTaken s i).core c = s.core c := rfl

/-- The entries of the retry buffer that a FREE notice of a core names. -/
theorem mem_refusedFor {x : Core} {src e : Nat} {r : Retry} :
    (e, r) ∈ refusedFor x src ↔ e ∈ [0, 1, 2, 3] ∧ fget x.retry none e = some r ∧ r.refused = true ∧
      ((pktHead r.packet).extractLsb' 0 22).toNat = src := by
  rw [refusedFor, List.mem_mergeSort, List.mem_filterMap]
  constructor
  · rintro ⟨j, hj, found⟩
    split at found
    · next q hq =>
      split at found
      · next named =>
        obtain ⟨rfl, rfl⟩ : j = e ∧ q = r := by simpa using found
        simp only [Bool.and_eq_true, decide_eq_true_eq] at named
        exact ⟨hj, hq, named⟩
      · cases found
    · cases found
  · rintro ⟨he, hr, named⟩
    refine ⟨e, he, ?_⟩
    simp only [hr]
    rw [if_pos (by simpa using named)]

/-- A refused packet goes to the router again, and its entry is no longer refused. -/
def sendAgain (c : Nat) (s : State) (e : Nat × Retry) : State :=
  inject (s.modCore c (·.setRetry e.1 (some { e.2 with refused := false }))) c e.2.packet

theorem router_sendAgain (c : Nat) (s : State) (e : Nat × Retry) :
    (sendAgain c s e).router (routerOf c) = { s.router (routerOf c) with
      inq := (s.router (routerOf c)).inq ++ [(.localPort (clusterOf c), e.2.packet)] } := by
  rw [sendAgain, inject, router_modRouter, if_pos rfl]
  rfl

theorem buffered_sendAgain {c vc : Nat} {e : Nat × Retry} (h : e.2.packet.vc = vc) (s : State) :
    ((sendAgain c s e).router (routerOf c)).buffered (.localPort (clusterOf c)) vc =
      (s.router (routerOf c)).buffered (.localPort (clusterOf c)) vc + 1 := by
  rw [router_sendAgain, Router.buffered, Router.buffered, List.filter_append, List.length_append]
  simp only [h, beq_self_eq_true, Bool.and_self, List.filter_cons_of_pos, List.filter_nil, List.length_cons, List.length_nil]
  rw [Nat.add_right_comm]
  rfl

theorem retry_sendAgain (c : Nat) (s : State) (e : Nat × Retry) (k : Nat) :
    fget ((sendAgain c s e).core c).retry none k =
      if k = e.1 then some { e.2 with refused := false } else fget (s.core c).retry none k :=
  retry_setRetry ..

/-- Where the router's buffer has room for each of them, the packets go one after the other. -/
theorem resend_eq_foldl {c vc : Nat} {l : List (Nat × Retry)} {s : State} (channel : ∀ e ∈ l, e.2.packet.vc = vc)
    (room : ∀ n, n < l.length →
      roomAfter (routerOf c) vc ((s.router (routerOf c)).buffered (.localPort (clusterOf c)) vc + n) = true) :
    l.foldl (fun s e => if s.mayInject c e.2.packet.vc then sendAgain c s e else s) s = l.foldl (sendAgain c) s := by
  induction l generalizing s with
  | nil => rfl
  | cons e l ih =>
    have first : s.mayInject c e.2.packet.vc = true := by
      rw [channel e List.mem_cons_self]
      exact room 0 (Nat.succ_pos _)
    rw [List.foldl_cons, List.foldl_cons, if_pos first]
    refine ih (fun q hq => channel q (List.mem_cons_of_mem _ hq)) fun n hn => ?_
    rw [buffered_sendAgain (channel e List.mem_cons_self), Nat.add_right_comm]
    exact room (n + 1) (Nat.succ_lt_succ hn)

theorem foldl_sendAgain_mem (c : Nat) (l : List (Nat × Retry)) (s : State) : (l.foldl (sendAgain c) s).mem = s.mem :=
  List.foldlRecOn (motive := fun t : State => t.mem = s.mem) l _ rfl fun _ h _ _ => h

theorem foldl_sendAgain_inq (c : Nat) (l : List (Nat × Retry)) (s : State) :
    ((l.foldl (sendAgain c) s).router (routerOf c)).inq =
      (s.router (routerOf c)).inq ++ l.map fun e => (.localPort (clusterOf c), e.2.packet) := by
  induction l generalizing s with
  | nil => simp
  | cons e l ih => rw [List.foldl_cons, ih, router_sendAgain, List.map_cons, List.append_assoc]; rfl

/-- Afterwards an entry is either not refused or none of those sent again, and then as it was. -/
theorem foldl_sendAgain_retry (c : Nat) (l : List (Nat × Retry)) (s : State) (k : Nat) :
    (∃ r, fget ((l.foldl (sendAgain c) s).core c).retry none k = some r ∧ r.refused = false) ∨
      k ∉ l.map (·.1) ∧ fget ((l.foldl (sendAgain c) s).core c).retry none k = fget (s.core c).retry none k := by
  induction l generalizing s with
  | nil => exact .inr ⟨by simp, rfl⟩
  | cons e l ih =>
    rw [List.foldl_cons]
    rcases ih (sendAgain c s e) with sent | ⟨notLater, same⟩
    · exact .inl sent
    · rw [retry_sendAgain] at same
      by_cases hk : k = e.1
      · exact .inl ⟨_, same.trans (if_pos hk), rfl⟩
      · exact .inr ⟨by simp only [List.map_cons, List.mem_cons, hk, notLater, or_self, not_false_eq_true],
          same.trans (if_neg hk)⟩

theorem refusedFor_resent (c src : Nat) (s : State) :
    refusedFor (((refusedFor (s.core c) src).foldl (sendAgain c) s).core c) src = [] := by
  rw [List.eq_nil_iff_forall_not_mem]
  rintro ⟨e, r⟩ left
  obtain ⟨he, hr, refused, target⟩ := mem_refusedFor.1 left
  rcases foldl_sendAgain_retry c (refusedFor (s.core c) src) s e with ⟨q, hq, sent⟩ | ⟨notSent, same⟩
  · obtain rfl : q = r := Option.some.inj (hq.symm.trans hr)
    exact absurd (sent.symm.trans refused) (by decide)
  · exact notSent (List.mem_map_of_mem (f := Prod.fst) (mem_refusedFor.2 ⟨he, same.symm.trans hr, refused, target⟩))

/-- A FREE notice to one core, with room for every packet that it names. -/
theorem exec_freeNotice {s : State} {i c src : Nat} (here : s.notes[i]? = some (.free src (some c)))
    (channel : ∀ e ∈ refusedFor (s.core c) src, e.2.packet.vc = 2)
    (room : ∀ n, n < (refusedFor (s.core c) src).length →
      roomAfter (routerOf c) 2 ((s.router (routerOf c)).buffered (.localPort (clusterOf c)) 2 + n) = true) :
    exec (.freeNotice i) s =
      .next { (refusedFor (s.core c) src).foldl (sendAgain c) s with notes := s.notes.eraseIdx i } := by
  have run : exec (.freeNotice i) s = execFreeNotice i s := rfl
  have sent : resend s c src = (refusedFor (s.core c) src).foldl (sendAgain c) s := resend_eq_foldl channel room
  rw [run, execFreeNotice, takeAt_eq here]
  simp only [freeTargets, List.foldl_cons, List.foldl_nil, List.all_cons, List.all_nil, Bool.and_true, sent,
    refusedFor_resent, List.isEmpty_nil, if_true]

/-! ### WATCH (R20, R283, R290) -/

/-- The trap of a WATCH notice with a header and an address (Table 11-12). -/
def watchTrap (hdr addr : Word) : TrapRec :=
  { cause := .watch, pc := 0, val := addr, ctx := hdr, seq := 0, slot := none, imprec := false }

theorem exec_watchNotice_marked {s : State} {i c : Nat} {h a : Word} (here : s.notes[i]? = some (.watch c h a))
    (own : (h.extractLsb' 12 10).toNat = s.package.toNat) (marked : s.usableCore c = false) :
    exec (.watchNoticeArrival i) s = .next (count (noticeTaken s i) (routerOf c) 0) := by
  have run : exec (.watchNoticeArrival i) s = execWatchNoticeArrival i s := rfl
  rw [run, execWatchNoticeArrival, takeAt_eq here]
  simp only [own, ne_eq, not_true_eq_false, if_false, marked, Bool.not_false, if_true]
  rfl

theorem exec_watchNotice_usable {s : State} {i c : Nat} {h a : Word} (here : s.notes[i]? = some (.watch c h a))
    (own : (h.extractLsb' 12 10).toNat = s.package.toNat) (usable : s.usableCore c = true)
    (none_held : (s.core c).trap.held = []) :
    exec (.watchNoticeArrival i) s = .next (raiseNotice (noticeTaken s i) c (watchTrap h a)) := by
  have run : exec (.watchNoticeArrival i) s = execWatchNoticeArrival i s := rfl
  have held : (State.core { s with notes := s.notes.eraseIdx i } c).trap.held = [] := none_held
  rw [run, execWatchNoticeArrival, takeAt_eq here]
  simp only [own, ne_eq, not_true_eq_false, if_false, usable, Bool.not_true, Bool.false_eq_true, held, List.filter_nil,
    List.length_nil]
  rfl

/-- A notice at a core that is stopped is held, and changes no context (R283). -/
theorem raiseNotice_stopped {s : State} {c : Nat} (stopped : (s.core c).stopped = true) (none_held : (s.core c).trap.held = [])
    (r : TrapRec) :
    ((raiseNotice s c r).core c).trap = { (s.core c).trap with held := [{ r with time := s.cycle.toNat }] } ∧
      (∀ k, (raiseNotice s c r).ctxAt c k = s.ctxAt c k) ∧ (raiseNotice s c r).notes = s.notes := by
  rw [raiseNotice, if_pos stopped, hold]
  refine ⟨?_, fun k => ctxAt_modCore_of_slots (f := fun x => { x with trap := { x.trap with
    held := insertTrap { r with time := s.cycle.toNat } x.trap.held } }) (fun _ => rfl) s c c k, rfl⟩
  rw [core_modCore_same, none_held]
  rfl

/-- A notice at a core that runs with its supervisor idle is handed over. -/
theorem raiseNotice_idle {s : State} {c : Nat} (runs : (s.core c).stopped = false)
    (idle : (s.core c).trap.active = false ∧ (s.core c).trap.held = []) (r : TrapRec) :
    raiseNotice s c r = handoff s c { r with time := s.cycle.toNat } := by
  rw [raiseNotice, if_neg (by rw [runs]; decide), handOrHold_idle idle]

/-- Settles O29. -/
theorem noticesArrive : Obligations.NoticesArrive := by
  unfold Obligations.NoticesArrive
  intro s i
  refine ⟨fun c e here => ?acceptance, fun c e q here sent => ?refuse, fun c src here channel room => ?free,
    fun c h a here own usable runs idle held => ?watch, fun c h a here own usable stopped held => ?stopped,
    fun c h a here own marked => ?marked⟩
  case acceptance =>
    refine ⟨_, exec_acceptance here, rfl, ?_, rfl, fun d hd => ?_⟩
    · rw [retry_setRetry, if_pos rfl]
    · rw [core_modCore, if_neg hd, core_noticeTaken]
  case refuse =>
    refine ⟨_, exec_refuseNotice here sent, rfl, rfl, ?_, fun d hd => ?_⟩
    · rw [retry_setRetry, if_pos rfl]
    · rw [core_modCore, if_neg hd, core_noticeTaken]
  case free =>
    exact ⟨_, exec_freeNotice here channel room, rfl, foldl_sendAgain_mem .., foldl_sendAgain_inq .., refusedFor_resent ..⟩
  case watch =>
    have run := exec_watchNotice_usable here own usable held
    rw [raiseNotice_idle (s := noticeTaken s i) runs ⟨idle, held⟩] at run
    refine ⟨_, run, rfl, rfl, ?_⟩
    rw [trap_handoff, ctxAt_handoff, if_pos rfl]
    exact ⟨rfl, rfl, rfl, rfl, rfl, rfl, rfl, fun k hk => (ctxAt_handoff ..).trans (if_neg hk)⟩
  case stopped =>
    obtain ⟨trap, slots, notes⟩ := raiseNotice_stopped (s := noticeTaken s i) stopped held (watchTrap h a)
    refine ⟨_, exec_watchNotice_usable here own usable held, notes, slots, ?_, ?_⟩
    · rw [trap, core_noticeTaken, ← held]
    · rw [trap]; rfl
  case marked =>
    refine ⟨_, exec_watchNotice_marked here own marked, rfl, countBy_mem .., countBy_cores .., ?_⟩
    rw [count, counters_countBy, if_pos rfl]
    rfl

end Sys2Proof.Machine
end

-- ==== Proofs: barriers ====
section
/-!
PROOFS. Barriers: what the BAR family does at a context (R106, R107, Table 4-9), what the tree does with the operations that
reach it (R108, R439), and its flits and its registers (R105, R109).
-/

namespace Sys2Proof.Machine

/-! ### The checks of a tag (R106) -/

theorem withTag_run {s : State} {g : Tag} {join : Bool} (enable : (s.tag g.toNat).enable = true)
    (realm : (s.tag g.toNat).realm = s.ctx.realm) (member : join = true ∨ s.ctx.inTag g = true) (f : State → Result) :
    withTag g join f s = f s := by
  simp only [withTag, enable, realm, Bool.not_true, Bool.false_eq_true, if_false, ne_eq, not_true_eq_false]
  rcases member with h | h <;> simp [h]

theorem withTag_disabled {s : State} {g : Tag} (h : (s.tag g.toNat).enable = false) (join : Bool) (f : State → Result) :
    withTag g join f s = trap .barrier (BitVec.ofNat 64 (2 * 256 + g.toNat)) 0 s := by
  simp only [withTag, h, Bool.not_false, if_true]

/-- A tag that is not enabled raises BARRIER in every form. -/
theorem exec_disabledTag {s : State} {g : Tag} (h : (s.tag g.toNat).enable = false) {i : Instr}
    (hi : i ∈ [Instr.join g, .leave g, .bar g, .bararr g, .bwait g]) :
    exec i s = trap .barrier (BitVec.ofNat 64 (2 * 256 + g.toNat)) 0 s := by
  simp only [List.mem_cons, List.not_mem_nil, or_false] at hi
  rcases hi with rfl | rfl | rfl | rfl | rfl
  · have run : exec (.join g) s = execJoin g s := rfl
    rw [run, execJoin, withTag_disabled h]
  · have run : exec (.leave g) s = execLeave g s := rfl
    rw [run, execLeave, withTag_disabled h]
  · have run : exec (.bar g) s = execBar g s := rfl
    rw [run, execBar, withTag_disabled h]
  · have run : exec (.bararr g) s = execBararr g s := rfl
    rw [run, execBararr, withTag_disabled h]
  · have run : exec (.bwait g) s = execBwait g s := rfl
    rw [run, execBwait, withTag_disabled h]

/-! ### Completion -/

theorem endsAs_advance {i : Instr} {s : State} (run : exec i s = .next (s.modCtx Ctx.advance)) : EndsAs i s s := by
  refine ⟨_, run, alone_modCtx .., ?_, ?_, ?_⟩
  · rw [ctx_modCtx]; rfl
  · rw [ctx_modCtx]; exact completes_advance _ _ rfl rfl
  · rw [ctx_modCtx]; exact fun _ => ⟨rfl, rfl⟩

/-! ### A release that is complete (R202) -/

/-- u is s after a complete release at a scope: a CORE-scope release passes the window accesses by, and one beyond the cluster
clears observed bits. -/
structure AfterRelease (scope : Scope) (s u : State) : Prop where
  cur : u.cur = s.cur
  tags : u.tags = s.tags
  treeOps : u.treeOps = s.treeOps
  mem : u.mem = (passWindow s scope).mem
  ctx : ∃ obs, u.ctx = { s.ctx with obs }

theorem passWindow_fields (s : State) (scope : Scope) :
    (passWindow s scope).cur = s.cur ∧ (passWindow s scope).tags = s.tags ∧ (passWindow s scope).treeOps = s.treeOps ∧
      (passWindow s scope).ctx = s.ctx := by
  unfold passWindow
  split <;> exact ⟨rfl, rfl, rfl, rfl⟩

/-- The observed bits that a complete release clears do not depend on what runs after it. -/
theorem withRelease_runs {s : State} {scope : Scope} (h : releaseDone s scope = true) :
    ∃ obs, ∀ f, withRelease scope f s =
      f (if Scope.far scope then s.modCtx fun x => { x with obs := x.obs &&& ~~~obs } else passWindow s scope) :=
  ⟨_, fun _ => if_pos h⟩

theorem withRelease_done {s : State} {scope : Scope} (h : releaseDone s scope = true) :
    ∃ u, AfterRelease scope s u ∧ ∀ f, withRelease scope f s = f u := by
  obtain ⟨obs, runs⟩ := withRelease_runs h
  refine ⟨_, ?_, runs⟩
  by_cases far : Scope.far scope = true
  · have wide : (scope == .core) = false := by cases scope <;> simp_all [Scope.far]
    rw [if_pos far]
    refine ⟨rfl, rfl, rfl, ?_, s.ctx.obs &&& ~~~obs, ctx_modCtx ..⟩
    rw [passWindow_wide s wide]; rfl
  · rw [if_neg far]
    obtain ⟨cur, tags, treeOps, ctx⟩ := passWindow_fields s scope
    exact ⟨cur, tags, treeOps, rfl, s.ctx.obs, ctx⟩

theorem AfterRelease.tag {scope : Scope} {s u : State} (h : AfterRelease scope s u) (t : Nat) : u.tag t = s.tag t :=
  congrArg (fun m : FMap BarTag => fget m {} t) h.tags

theorem AfterRelease.myGen {scope : Scope} {s u : State} (h : AfterRelease scope s u) (g : Tag) : myGen u g = myGen s g := by
  simp only [Machine.myGen, h.tag, h.cur]

theorem AfterRelease.arr {scope : Scope} {s u : State} (h : AfterRelease scope s u) (g : Tag) :
    u.ctx.arr g = s.ctx.arr g := by
  obtain ⟨obs, ctx⟩ := h.ctx
  rw [ctx]
  rfl

/-! ### Sleeping at a barrier (R107, Table 11-2) -/

/-- In t the context that issued in s sleeps for generation n of tag g. -/
structure Asleep (g : Tag) (n : Nat) (anew : Bool) (s t : State) : Prop where
  pc : t.ctx.pc = s.ctx.pc
  awaits : t.ctx.barAwait = some (n, anew)
  wait : (t.ctx.wait.map fun w => (w.kind, w.val)) = some (.barrier, BitVec.ofNat 64 (n % 2 ^ 32 * 2 ^ 32 + g.toNat))

/-- t is s but for its issuing context, which sleeps for generation n of tag g. -/
structure SleepsFor (g : Tag) (n : Nat) (anew : Bool) (s t : State) : Prop where
  asleep : Asleep g n anew s t
  regs : KeepsRegs s.ctx t.ctx
  barArr : t.ctx.barArr = s.ctx.barArr
  treeOps : t.treeOps = s.treeOps
  mem : t.mem = s.mem

theorem barSleep_next (g : Tag) (n : Nat) (anew : Bool) (s : State) :
    ∃ t, barSleep g n anew s = .next t ∧ SleepsFor g n anew s t := by
  have ctx : State.ctx (((s.modCtx fun x => { x with barAwait := some (n, anew), barResume := false })).modCtx
      (·.startWait .barrier (BitVec.ofNat 64 (n % 2 ^ 32 * 2 ^ 32 + g.toNat)))) =
      { s.ctx with barAwait := some (n, anew), barResume := false }.startWait .barrier
        (BitVec.ofNat 64 (n % 2 ^ 32 * 2 ^ 32 + g.toNat)) := by
    rw [ctx_modCtx, ctx_modCtx]
  refine ⟨_, rfl, ⟨?_, ?_, ?_⟩, ?_, ?_, rfl, rfl⟩
  · rw [ctx]; rfl
  · rw [ctx]; rfl
  · rw [ctx]; rfl
  · rw [ctx]; exact fun _ => ⟨rfl, rfl⟩
  · rw [ctx]; rfl

/-- With no resumed wait a form of the family acts anew. -/
theorem barResumed_fresh {s : State} (h : s.ctx.barResume = false) (g : Tag) (f : State → Result) :
    barResumed g f s = f s := by
  simp [barResumed, h]

/-! ### Arrivals and LEAVE at a context (R107) -/

/-- t is u with one more arrival of the issuing context on tag g. -/
structure Arrived (g : Tag) (u t : State) : Prop where
  treeOps : t.treeOps = u.treeOps ++ [⟨u.cur.1, u.cur.2, g.toNat, .arrive, none⟩]
  mem : t.mem = u.mem
  ctx : t.ctx = { u.ctx with barArr := u.ctx.barArr + BitVec.ofNat 16 (4 ^ g.toNat) }

theorem arrive_arrived (u : State) (g : Tag) : Arrived g u (arrive u g) := ⟨rfl, rfl, ctx_modCtx ..⟩

/-- t is s after a complete release and one more arrival on tag g, as far as the tree, the arrivals, the registers and the
memory go. -/
structure Arrives (g : Tag) (s t : State) : Prop where
  treeOps : t.treeOps = s.treeOps ++ [⟨s.cur.1, s.cur.2, g.toNat, .arrive, none⟩]
  barArr : t.ctx.barArr = s.ctx.barArr + BitVec.ofNat 16 (4 ^ g.toNat)
  regs : KeepsRegs s.ctx t.ctx
  mem : t.mem = (passWindow s (tagScope (s.tag g.toNat).scope)).mem

theorem AfterRelease.arrives {s u t : State} {g : Tag} (after : AfterRelease (tagScope (s.tag g.toNat).scope) s u)
    (treeOps : t.treeOps = (arrive u g).treeOps) (mem : t.mem = (arrive u g).mem)
    (regs : KeepsRegs (arrive u g).ctx t.ctx) (barArr : t.ctx.barArr = (arrive u g).ctx.barArr) : Arrives g s t := by
  obtain ⟨obs, ctx⟩ := after.ctx
  have counts := arrive_arrived u g
  rw [counts.ctx, ctx] at regs barArr
  refine ⟨?_, barArr, regs, ?_⟩
  · rw [treeOps, counts.treeOps, after.treeOps, after.cur]
  · rw [mem, counts.mem, after.mem]

theorem getLsbD_clear_bit {w : Nat} (m : BitVec w) (t : Nat) : (m &&& ~~~(BitVec.ofNat w (2 ^ t))).getLsbD t = false := by
  simp only [BitVec.getLsbD_and, BitVec.getLsbD_not, BitVec.getLsbD_ofNat, Nat.testBit_two_pow_self, Bool.and_true]
  cases decide (t < w) <;> simp

/-- ARR of a tag reads 0 once its two bits are cleared. -/
theorem extract_clear_pair (m : BitVec 16) (t : Nat) :
    (m &&& ~~~(BitVec.ofNat 16 (3 * 4 ^ t))).extractLsb' (2 * t) 2 = 0#2 := by
  have both : ∀ i, i < 2 → (3 * 4 ^ t).testBit (2 * t + i) = true := by
    intro i hi
    rw [show (4 : Nat) = 2 ^ 2 from rfl, ← Nat.pow_mul, Nat.mul_comm, Nat.testBit_two_pow_mul, Nat.add_sub_cancel_left,
      decide_eq_true (Nat.le_add_right ..), Bool.true_and]
    have : i = 0 ∨ i = 1 := by omega
    rcases this with rfl | rfl <;> decide
  refine BitVec.eq_of_getLsbD_eq fun i hi => ?_
  simp only [BitVec.getLsbD_extractLsb', BitVec.getLsbD_and, BitVec.getLsbD_not, BitVec.getLsbD_ofNat, both i hi,
    Bool.and_true]
  cases decide (2 * t + i < 16) <;> simp

/-- t is u once the issuing context has left tag g. -/
structure Left (g : Tag) (u t : State) : Prop where
  treeOps : t.treeOps = u.treeOps ++ [⟨u.cur.1, u.cur.2, g.toNat, .leave, none⟩]
  mem : t.mem = u.mem
  ctx : t.ctx = { u.ctx with
    barMember := u.ctx.barMember &&& ~~~(BitVec.ofNat 8 (2 ^ g.toNat))
    barArr := u.ctx.barArr &&& ~~~(BitVec.ofNat 16 (3 * 4 ^ g.toNat)) }

theorem leaveTag_left (u : State) (g : Tag) : Left g u (leaveTag u u.cur.1 u.cur.2 g.toNat) := ⟨rfl, rfl, ctx_modCtx ..⟩

/-! ### The forms (Table 4-9) -/

section
variable {s : State} {g : Tag}

theorem exec_join (enable : (s.tag g.toNat).enable = true) (realm : (s.tag g.toNat).realm = s.ctx.realm) :
    exec (.join g) s =
      if s.ctx.inTag g then .next (s.modCtx Ctx.advance)
      else if s.ctx.joining then stall s
      else .next { s.modCtx (fun x => { x with joining := true, bypass := 0 }) with
        treeOps := s.treeOps ++ [⟨s.cur.1, s.cur.2, g.toNat, .join, some s.ctx.gen⟩] } := by
  have run : exec (.join g) s = execJoin g s := rfl
  rw [run, execJoin, withTag_run enable realm (.inl rfl)]

theorem join_sends (enable : (s.tag g.toNat).enable = true) (realm : (s.tag g.toNat).realm = s.ctx.realm)
    (outside : s.ctx.inTag g = false) (idle : s.ctx.joining = false) :
    ∃ t, exec (.join g) s = .next t ∧ t.treeOps = s.treeOps ++ [⟨s.cur.1, s.cur.2, g.toNat, .join, some s.ctx.gen⟩] ∧
      t.ctx.joining = true ∧ t.ctx.pc = s.ctx.pc ∧ KeepsRegs s.ctx t.ctx ∧ t.mem = s.mem := by
  have run := exec_join enable realm
  rw [outside, idle] at run
  have ctx := ctx_modCtx s fun x => { x with joining := true, bypass := 0 }
  refine ⟨_, run, rfl, ?_, ?_, ?_, rfl⟩
  · exact (congrArg Ctx.joining ctx :)
  · exact (congrArg Ctx.pc ctx :)
  · exact fun r => ⟨(congrArg (·.reg r) ctx :), (congrArg (·.psn r) ctx :)⟩

variable (may : MayUseTag s g)
include may

theorem exec_leave : exec (.leave g) s =
    withRelease (tagScope (s.tag g.toNat).scope) (fun s =>
      .next ((leaveTag s s.cur.1 s.cur.2 g.toNat).modCtx Ctx.advance)) s :=
  withTag_run may.enabled may.realm (.inr may.member) _

theorem exec_bar (fresh : s.ctx.barResume = false) : exec (.bar g) s =
    withRelease (tagScope (s.tag g.toNat).scope) (fun s =>
      if 2 ≤ s.ctx.arr g then barSleep g (myGen s g) true s
      else barSleep g (myGen s g + s.ctx.arr g) false (arrive s g)) s :=
  (withTag_run may.enabled may.realm (.inr may.member) _).trans (barResumed_fresh fresh ..)

theorem exec_bararr (fresh : s.ctx.barResume = false) : exec (.bararr g) s =
    withRelease (tagScope (s.tag g.toNat).scope) (fun s =>
      if 2 ≤ s.ctx.arr g then barSleep g (myGen s g) true s
      else .next ((arrive s g).modCtx Ctx.advance)) s :=
  (withTag_run may.enabled may.realm (.inr may.member) _).trans (barResumed_fresh fresh ..)

theorem exec_bwait (fresh : s.ctx.barResume = false) : exec (.bwait g) s =
    if s.ctx.arr g = 0 then .next (s.modCtx Ctx.advance)
    else barSleep g (myGen s g + s.ctx.arr g - 1) false s :=
  (withTag_run may.enabled may.realm (.inr may.member) _).trans (barResumed_fresh fresh ..)

theorem leave_leaves (done : releaseDone s (tagScope (s.tag g.toNat).scope) = true) :
    ∃ t, exec (.leave g) s = .next t ∧ Completes s.ctx t.ctx (s.ctx.pc + 4) ∧ KeepsRegs s.ctx t.ctx ∧
      t.mem = (passWindow s (tagScope (s.tag g.toNat).scope)).mem ∧ t.ctx.inTag g = false ∧ t.ctx.arr g = 0 ∧
      t.treeOps = s.treeOps ++ [⟨s.cur.1, s.cur.2, g.toNat, .leave, none⟩] := by
  obtain ⟨u, ⟨cur, tags, ops, mem, obs, ctx⟩, runs⟩ := withRelease_done done
  have left := leaveTag_left u g
  have after := ctx_modCtx (leaveTag u u.cur.1 u.cur.2 g.toNat) Ctx.advance
  rw [left.ctx, ctx] at after
  refine ⟨_, (exec_leave may).trans (runs _), ?_, ?_, ?_, ?_, ?_, ?_⟩
  · rw [after]; exact completes_advance _ _ rfl rfl
  · rw [after]; exact fun _ => ⟨rfl, rfl⟩
  · exact left.mem.trans mem
  · rw [after]; exact getLsbD_clear_bit ..
  · rw [after]; exact congrArg BitVec.toNat (extract_clear_pair ..)
  · rw [← ops, ← cur]; exact left.treeOps

theorem bar_sleeps (fresh : s.ctx.barResume = false) (done : releaseDone s (tagScope (s.tag g.toNat).scope) = true)
    (few : s.ctx.arr g < 2) :
    ∃ u t, AfterRelease (tagScope (s.tag g.toNat).scope) s u ∧ exec (.bar g) s = .next t ∧
      SleepsFor g (myGen s g + s.ctx.arr g) false (arrive u g) t := by
  obtain ⟨u, after, runs⟩ := withRelease_done done
  obtain ⟨t, slept, sleeps⟩ := barSleep_next g (myGen s g + s.ctx.arr g) false (arrive u g)
  refine ⟨u, t, after, ?_, sleeps⟩
  rw [exec_bar may fresh, runs, after.arr, if_neg (by omega), after.myGen, slept]

theorem bararr_advances (fresh : s.ctx.barResume = false) (done : releaseDone s (tagScope (s.tag g.toNat).scope) = true)
    (few : s.ctx.arr g < 2) :
    ∃ u, AfterRelease (tagScope (s.tag g.toNat).scope) s u ∧
      exec (.bararr g) s = .next ((arrive u g).modCtx Ctx.advance) := by
  obtain ⟨u, after, runs⟩ := withRelease_done done
  refine ⟨u, after, ?_⟩
  rw [exec_bararr may fresh, runs, after.arr, if_neg (by omega)]

theorem barFamily_sleeps (fresh : s.ctx.barResume = false) (done : releaseDone s (tagScope (s.tag g.toNat).scope) = true)
    (two : 2 ≤ s.ctx.arr g) {i : Instr} (hi : i ∈ [Instr.bar g, .bararr g]) :
    ∃ u t, AfterRelease (tagScope (s.tag g.toNat).scope) s u ∧ exec i s = .next t ∧ SleepsFor g (myGen s g) true u t := by
  obtain ⟨u, after, runs⟩ := withRelease_done done
  obtain ⟨t, slept, sleeps⟩ := barSleep_next g (myGen s g) true u
  refine ⟨u, t, after, ?_, sleeps⟩
  simp only [List.mem_cons, List.not_mem_nil, or_false] at hi
  rcases hi with rfl | rfl
  · rw [exec_bar may fresh, runs, after.arr, if_pos two, after.myGen, slept]
  · rw [exec_bararr may fresh, runs, after.arr, if_pos two, after.myGen, slept]

end

theorem bar_arrives {s : State} {g : Tag} (may : MayUseTag s g) (fresh : s.ctx.barResume = false)
    (done : releaseDone s (tagScope (s.tag g.toNat).scope) = true) (few : s.ctx.arr g < 2) :
    ∃ t, exec (.bar g) s = .next t ∧ Arrives g s t ∧ Asleep g (myGen s g + s.ctx.arr g) false s t := by
  obtain ⟨u, t, after, run, sleeps⟩ := bar_sleeps may fresh done few
  obtain ⟨obs, ctx⟩ := after.ctx
  have counts := arrive_arrived u g
  refine ⟨t, run, after.arrives sleeps.treeOps sleeps.mem sleeps.regs sleeps.barArr, ?_⟩
  refine ⟨?_, sleeps.asleep.awaits, sleeps.asleep.wait⟩
  rw [sleeps.asleep.pc, counts.ctx, ctx]

theorem bararr_arrives {s : State} {g : Tag} (may : MayUseTag s g) (fresh : s.ctx.barResume = false)
    (done : releaseDone s (tagScope (s.tag g.toNat).scope) = true) (few : s.ctx.arr g < 2) :
    ∃ t, exec (.bararr g) s = .next t ∧ Arrives g s t ∧ Completes s.ctx t.ctx (s.ctx.pc + 4) := by
  obtain ⟨u, after, run⟩ := bararr_advances may fresh done few
  obtain ⟨obs, ctx⟩ := after.ctx
  have advanced := ctx_modCtx (arrive u g) Ctx.advance
  refine ⟨_, run, after.arrives rfl rfl ?_ ?_, ?_⟩
  · rw [advanced]; exact fun _ => ⟨rfl, rfl⟩
  · rw [advanced]; rfl
  · rw [advanced, (arrive_arrived u g).ctx, ctx]; exact completes_advance _ _ rfl rfl

/-- With two arrivals not yet released BAR and BARARR sleep, and act anew. -/
theorem barFamily_full {s : State} {g : Tag} (may : MayUseTag s g) (fresh : s.ctx.barResume = false)
    (done : releaseDone s (tagScope (s.tag g.toNat).scope) = true) (two : 2 ≤ s.ctx.arr g) {i : Instr}
    (hi : i ∈ [Instr.bar g, .bararr g]) :
    ∃ t, exec i s = .next t ∧ Asleep g (myGen s g) true s t ∧ KeepsRegs s.ctx t.ctx ∧ t.ctx.barArr = s.ctx.barArr ∧
      t.treeOps = s.treeOps := by
  obtain ⟨u, t, after, run, sleeps⟩ := barFamily_sleeps may fresh done two hi
  obtain ⟨obs, ctx⟩ := after.ctx
  refine ⟨t, run, ⟨?_, sleeps.asleep.awaits, sleeps.asleep.wait⟩, ?_, ?_, sleeps.treeOps.trans after.treeOps⟩
  · rw [sleeps.asleep.pc, ctx]
  · have regs := sleeps.regs
    rw [ctx] at regs
    exact regs
  · rw [sleeps.barArr, ctx]

theorem bwait_sleeps {s : State} {g : Tag} (may : MayUseTag s g) (fresh : s.ctx.barResume = false)
    (pending : s.ctx.arr g ≠ 0) :
    ∃ t, exec (.bwait g) s = .next t ∧ SleepsFor g (myGen s g + s.ctx.arr g - 1) false s t := by
  obtain ⟨t, slept, sleeps⟩ := barSleep_next g (myGen s g + s.ctx.arr g - 1) false s
  exact ⟨t, by rw [exec_bwait may fresh, if_neg pending, slept], sleeps⟩

/-! ### The tree (R108, R439) -/

/-- A context at which the tree has applied an operation: a JOIN that it still awaits is complete (R439). -/
def Ctx.afterOp (o : TreeOp) (x : Ctx) : Ctx :=
  if x.joining && o.asker == some x.gen then
    { x.advance with
      barMember := x.barMember ||| BitVec.ofNat 8 (2 ^ o.tag)
      barArr := x.barArr &&& ~~~(BitVec.ofNat 16 (3 * 4 ^ o.tag)) }
  else x

/-- The machine once the tree has applied o. -/
def opApplied (o : TreeOp) (s : State) : State :=
  let s := { s.modTag o.tag (·.apply o) with treeOps := s.treeOps.erase o }
  if o.kind = .join then s.modCtxAt o.core o.slot (Ctx.afterOp o) else s

/-- The one operation that has reached the tree takes effect, whether or not it completes a generation. -/
theorem exec_barrierTreeApply_one {s : State} {o : TreeOp} (one : s.treeOps = [o]) (owes : slotOwes s o.core o.slot = false)
    (idle : ∀ t, t < 8 → (s.tag t).completes = false) : exec .barrierTreeApply s = .next (opApplied o s) := by
  have none_ : ([0, 1, 2, 3, 4, 5, 6, 7].any fun t => (s.tag t).completes) = false := by
    simp [idle]
  have first : firstOp (readyOps s) = some o := by simp [readyOps, one, owes, firstOp]
  have run : exec .barrierTreeApply s = execBarrierTreeApply s := rfl
  rw [run, execBarrierTreeApply, none_, one, List.length_singleton, applyOps, first]
  exact congrArg Host.Outcome.next (ite_self _)

theorem opApplied_fields (o : TreeOp) (s : State) :
    (opApplied o s).treeOps = s.treeOps.erase o ∧ (opApplied o s).tag o.tag = (s.tag o.tag).apply o ∧
      (opApplied o s).mem = s.mem := by
  have tag := tag_modTag_same s o.tag (·.apply o)
  unfold opApplied
  dsimp only
  split <;> exact ⟨rfl, tag, rfl⟩

theorem ctxAt_opApplied (o : TreeOp) (s : State) :
    (opApplied o s).ctxAt o.core o.slot =
      if o.kind = .join then (s.ctxAt o.core o.slot).afterOp o else s.ctxAt o.core o.slot := by
  unfold opApplied
  dsimp only
  split
  · rw [ctxAt_modCtxAt, if_pos ⟨rfl, rfl⟩]; rfl
  · rfl

theorem getLsbD_set_bit {w t : Nat} (h : t < w) (m : BitVec w) : (m ||| BitVec.ofNat w (2 ^ t)).getLsbD t = true := by
  rw [BitVec.getLsbD_or, BitVec.getLsbD_ofNat, Nat.testBit_two_pow_self, decide_eq_true h, Bool.and_true, Bool.or_true]

theorem afterOp_joined {x : Ctx} {o : TreeOp} {g : Tag} (at_ : o.tag = g.toNat) (joining : x.joining = true)
    (asks : o.asker = some x.gen) :
    Completes x (x.afterOp o) (x.pc + 4) ∧ (x.afterOp o).inTag g = true ∧ (x.afterOp o).arr g = 0 := by
  have joins : (x.joining && o.asker == some x.gen) = true := by simp [joining, asks]
  rw [Ctx.afterOp, if_pos joins, at_]
  refine ⟨⟨rfl, rfl, rfl, rfl, rfl, rfl, rfl, rfl⟩, ?_, ?_⟩
  · exact getLsbD_set_bit g.isLt _
  · exact congrArg BitVec.toNat (extract_clear_pair ..)

theorem afterOp_other {x : Ctx} {o : TreeOp} (h : x.joining = false ∨ o.asker ≠ some x.gen) : x.afterOp o = x := by
  refine if_neg ?_
  rcases h with h | h <;> simp [h]

/-! ### A release (R107, R108) -/

theorem toNat_pair (m : BitVec 16) (t : Nat) : (m.extractLsb' (2 * t) 2).toNat = m.toNat / 4 ^ t % 4 := by
  rw [BitVec.extractLsb'_toNat, Nat.shiftRight_eq_div_pow, Nat.pow_mul]

/-- REL takes one from the two bits of its tag, unless they are 0. -/
theorem toNat_pair_sub (m : BitVec 16) {t : Nat} (ht : t < 8) :
    ((if m.extractLsb' (2 * t) 2 = 0 then m else m - BitVec.ofNat 16 (4 ^ t)).extractLsb' (2 * t) 2).toNat =
      (m.extractLsb' (2 * t) 2).toNat - 1 := by
  split
  · next h => rw [h]; rfl
  · next h =>
    have some_ : m.toNat / 4 ^ t % 4 ≠ 0 := by
      rw [← toNat_pair]
      exact fun e => h (BitVec.eq_of_toNat_eq e)
    have small : 4 ^ t < 2 ^ 16 := by
      calc 4 ^ t ≤ 4 ^ 7 := Nat.pow_le_pow_right (by decide) (by omega)
        _ < 2 ^ 16 := by decide
    have enough : 4 ^ t ≤ m.toNat := by
      refine Nat.le_of_not_lt fun less => some_ ?_
      rw [Nat.div_eq_of_lt less]
    have sub : (m - BitVec.ofNat 16 (4 ^ t)).toNat = m.toNat - 4 ^ t * 1 := by
      have := BitVec.toNat_sub_of_le (x := m) (y := BitVec.ofNat 16 (4 ^ t))
        (by rw [BitVec.le_def, BitVec.toNat_ofNat, Nat.mod_eq_of_lt small]; exact enough)
      rw [this, BitVec.toNat_ofNat, Nat.mod_eq_of_lt small, Nat.mul_one]
    rw [toNat_pair, toNat_pair, sub, Nat.sub_mul_div]
    generalize m.toNat / 4 ^ t = q at some_ ⊢
    omega

/-- z is context y after the release of generation n of tag t. -/
structure ReleasedAs (t n : Nat) (y z : Ctx) : Prop where
  arr : (z.barArr.extractLsb' (2 * t) 2).toNat = (y.barArr.extractLsb' (2 * t) 2).toNat - 1
  regs : KeepsRegs y z
  goesOn : ∀ w, y.wait = some w → w.kind = .barrier → w.val.toNat % 8 = t → y.barAwait = some (n, false) →
    Completes y z (y.pc + 4)
  actsAnew : ∀ w, y.wait = some w → w.kind = .barrier → w.val.toNat % 8 = t → y.barAwait = some (n, true) →
    z.wait = none ∧ z.barAwait = none ∧ z.pc = y.pc ∧ z.instret = y.instret

/-- An acquire changes of the contexts the observed bits of its own alone. -/
theorem ctxAt_acquireAt (s : State) (c k : Nat) (scope : Scope) :
    ∃ obs, ∀ d j, (acquireAt s c k scope).ctxAt d j =
      if d = c ∧ j = k then { s.ctxAt c k with obs } else s.ctxAt d j := by
  have wide (d j : Nat) := ctxAt_modCtxAt s c k d j fun x => { x with obs := BitVec.allOnes 16 }
  cases scope <;> unfold acquireAt <;> dsimp only
  case core =>
    refine ⟨(s.ctxAt c k).obs, fun d j => ?_⟩
    split
    · next same => rw [same.1, same.2]
    · rfl
  case cluster => exact ⟨_, wide⟩
  all_goals
    refine ⟨_, fun d j => Eq.trans ?_ (wide d j)⟩
    split <;> rfl

theorem acquireAt_frame (s : State) (c k : Nat) (scope : Scope) :
    (acquireAt s c k scope).tags = s.tags ∧ (acquireAt s c k scope).mem = s.mem := by
  cases scope <;> unfold acquireAt <;> dsimp only
  case core | cluster => exact ⟨rfl, rfl⟩
  all_goals split <;> exact ⟨rfl, rfl⟩

/-- ARR of a member that is released falls. -/
def arrFalls (t : Nat) (m : Member) (s : State) : State := s.modCtxAt m.core m.slot (·.releaseTag t)

theorem ctxAt_arrFalls (t : Nat) (m : Member) (s : State) (d j : Nat) :
    (arrFalls t m s).ctxAt d j =
      if d = m.core ∧ j = m.slot then (s.ctxAt m.core m.slot).releaseTag t else s.ctxAt d j := ctxAt_modCtxAt ..

theorem ctxAt_arrFalls_own (t : Nat) (m : Member) (s : State) :
    (arrFalls t m s).ctxAt m.core m.slot = (s.ctxAt m.core m.slot).releaseTag t := by
  rw [ctxAt_arrFalls, if_pos ⟨rfl, rfl⟩]

/-- Context x sleeps at tag t for generation n. -/
def Ctx.WaitsFor (t n : Nat) (anew : Bool) (x : Ctx) : Prop :=
  x.barAwait = some (n, anew) ∧ ∃ w, x.wait = some w ∧ w.kind = .barrier ∧ w.val.toNat % 8 = t

/-- REL leaves everything of a context but ARR. -/
theorem releaseTag_eq (x : Ctx) (t : Nat) : ∃ barArr, x.releaseTag t = { x with barArr } := by
  unfold Ctx.releaseTag
  split
  · exact ⟨x.barArr, rfl⟩
  · exact ⟨_, rfl⟩

theorem waitsFor_releaseTag {x : Ctx} {t n : Nat} {anew : Bool} :
    (x.releaseTag t).WaitsFor t n anew ↔ x.WaitsFor t n anew := by
  obtain ⟨barArr, eq⟩ := releaseTag_eq x t
  rw [eq]
  exact .rfl

section
variable {t n : Nat} {scope : Scope} {m : Member} {s : State} (first : m.first ≤ n)
include first

theorem releaseMember_anew (h : (s.ctxAt m.core m.slot).WaitsFor t n true) :
    releaseMember t n scope m s =
      (arrFalls t m s).modCtxAt m.core m.slot fun x => { x with wait := none, barAwait := none } := by
  have here := ctxAt_arrFalls_own t m s
  obtain ⟨awaits, w, wait, kind, val⟩ := here ▸ waitsFor_releaseTag.mpr h
  rw [arrFalls] at awaits wait
  simp only [releaseMember, if_neg (Nat.not_lt.mpr first), wait, awaits, kind, val]
  rfl

theorem releaseMember_goesOn (h : (s.ctxAt m.core m.slot).WaitsFor t n false) :
    releaseMember t n scope m s =
      (acquireAt (arrFalls t m s) m.core m.slot scope).modCtxAt m.core m.slot Ctx.advance := by
  have here := ctxAt_arrFalls_own t m s
  obtain ⟨awaits, w, wait, kind, val⟩ := here ▸ waitsFor_releaseTag.mpr h
  rw [arrFalls] at awaits wait
  simp only [releaseMember, if_neg (Nat.not_lt.mpr first), wait, awaits, kind, val]
  rfl

theorem releaseMember_awake (h : ∀ anew, ¬(s.ctxAt m.core m.slot).WaitsFor t n anew) :
    releaseMember t n scope m s = arrFalls t m s := by
  have here := ctxAt_arrFalls_own t m s
  have awake : ∀ anew, ¬((arrFalls t m s).ctxAt m.core m.slot).WaitsFor t n anew :=
    fun anew w => h anew (waitsFor_releaseTag.mp (here ▸ w))
  rw [releaseMember, if_neg (Nat.not_lt.mpr first)]
  dsimp only
  split
  · next w l anew wait awaits =>
    refine if_neg fun c => awake anew ?_
    simp only [Bool.and_eq_true, decide_eq_true_eq] at c
    obtain ⟨⟨kind, val⟩, rfl⟩ := c
    exact ⟨awaits, w, wait, kind, val⟩
  · rfl

end

theorem waitsFor_cases (t n : Nat) (x : Ctx) :
    x.WaitsFor t n true ∨ x.WaitsFor t n false ∨ ∀ anew, ¬x.WaitsFor t n anew := by
  by_cases h : x.WaitsFor t n true
  · exact .inl h
  by_cases h' : x.WaitsFor t n false
  · exact .inr (.inl h')
  · exact .inr (.inr fun | true => h | false => h')

theorem Ctx.WaitsFor.unique {t n : Nat} {a b : Bool} {x : Ctx} (h : x.WaitsFor t n a) (h' : x.WaitsFor t n b) : a = b := by
  simpa [h.1] using h'.1

/-- Context y loses an arrival on tag t. -/
theorem releaseTag_arr {t : Nat} (ht : t < 8) (y : Ctx) :
    ((y.releaseTag t).barArr.extractLsb' (2 * t) 2).toNat = (y.barArr.extractLsb' (2 * t) 2).toNat - 1 := by
  have := toNat_pair_sub y.barArr ht
  unfold Ctx.releaseTag
  split <;> simp_all

/-- What a release of generation n does at a member: it goes on, acts anew, or loses an arrival and no more. -/
theorem releaseMember_own {t n : Nat} {scope : Scope} {m : Member} {s : State} (first : m.first ≤ n) (ht : t < 8) :
    ReleasedAs t n (s.ctxAt m.core m.slot) ((releaseMember t n scope m s).ctxAt m.core m.slot) := by
  have fell := ctxAt_arrFalls_own t m s
  have arr := releaseTag_arr ht (s.ctxAt m.core m.slot)
  obtain ⟨barArr, eq⟩ := releaseTag_eq (s.ctxAt m.core m.slot) t
  rw [eq] at fell arr
  obtain anew | goesOn | awake := waitsFor_cases t n (s.ctxAt m.core m.slot)
  · rw [releaseMember_anew first anew, ctxAt_modCtxAt, if_pos ⟨rfl, rfl⟩, fell]
    refine ⟨arr, fun _ => ⟨rfl, rfl⟩, fun w wait kind val awaits => ?_, fun _ _ _ _ _ => ⟨rfl, rfl, rfl, rfl⟩⟩
    cases anew.unique ⟨awaits, w, wait, kind, val⟩
  · obtain ⟨obs, acquired⟩ := ctxAt_acquireAt (arrFalls t m s) m.core m.slot scope
    rw [releaseMember_goesOn first goesOn, ctxAt_modCtxAt, if_pos ⟨rfl, rfl⟩, acquired, if_pos ⟨rfl, rfl⟩, fell]
    refine ⟨arr, fun _ => ⟨rfl, rfl⟩, fun _ _ _ _ _ => completes_advance _ _ rfl rfl, fun w wait kind val awaits => ?_⟩
    cases goesOn.unique ⟨awaits, w, wait, kind, val⟩
  · rw [releaseMember_awake first awake, fell]
    exact ⟨arr, fun _ => ⟨rfl, rfl⟩, fun w wait kind val awaits => (awake _ ⟨awaits, w, wait, kind, val⟩).elim,
      fun w wait kind val awaits => (awake _ ⟨awaits, w, wait, kind, val⟩).elim⟩

/-- A release at one member reaches no other context, no tag and no byte. -/
theorem releaseMember_frame (t n : Nat) (scope : Scope) (m : Member) (s : State) :
    (releaseMember t n scope m s).tags = s.tags ∧ (releaseMember t n scope m s).mem = s.mem ∧
      ∀ d j, ¬(d = m.core ∧ j = m.slot) → (releaseMember t n scope m s).ctxAt d j = s.ctxAt d j := by
  have fell (d j : Nat) (other : ¬(d = m.core ∧ j = m.slot)) : (arrFalls t m s).ctxAt d j = s.ctxAt d j := by
    rw [ctxAt_arrFalls, if_neg other]
  by_cases first : m.first ≤ n
  · obtain anew | goesOn | awake := waitsFor_cases t n (s.ctxAt m.core m.slot)
    · rw [releaseMember_anew first anew]
      refine ⟨rfl, rfl, fun d j other => ?_⟩
      rw [ctxAt_modCtxAt, if_neg other, fell d j other]
    · rw [releaseMember_goesOn first goesOn]
      obtain ⟨tags, mem⟩ := acquireAt_frame (arrFalls t m s) m.core m.slot scope
      obtain ⟨obs, acquired⟩ := ctxAt_acquireAt (arrFalls t m s) m.core m.slot scope
      refine ⟨tags, mem, fun d j other => ?_⟩
      rw [ctxAt_modCtxAt, if_neg other, acquired, if_neg other, fell d j other]
    · rw [releaseMember_awake first awake]
      exact ⟨rfl, rfl, fell⟩
  · rw [releaseMember, if_pos (by omega)]
    exact ⟨rfl, rfl, fun _ _ _ => rfl⟩

/-- The releases of generation n at the members, one after the other. -/
def releaseMembers (t n : Nat) (scope : Scope) (l : List Member) (s : State) : State :=
  l.foldl (fun s m => releaseMember t n scope m s) s

theorem releaseMembers_frame (t n : Nat) (scope : Scope) (l : List Member) (s : State) :
    (releaseMembers t n scope l s).tags = s.tags ∧ (releaseMembers t n scope l s).mem = s.mem ∧
      ∀ d j, (d, j) ∉ l.map (fun m => (m.core, m.slot)) → (releaseMembers t n scope l s).ctxAt d j = s.ctxAt d j := by
  induction l generalizing s with
  | nil => exact ⟨rfl, rfl, fun _ _ _ => rfl⟩
  | cons m l ih =>
    obtain ⟨tags, mem, ctx⟩ := releaseMember_frame t n scope m s
    obtain ⟨tags', mem', ctx'⟩ := ih (releaseMember t n scope m s)
    refine ⟨tags'.trans tags, mem'.trans mem, fun d j other => ?_⟩
    simp only [List.map_cons, List.mem_cons, not_or, Prod.mk.injEq] at other
    exact (ctx' d j other.2).trans (ctx d j other.1)

/-- Members of different contexts are released each for itself. -/
theorem releaseMembers_own {t n : Nat} {scope : Scope} (ht : t < 8) {l : List Member} {s : State}
    (apart : (l.map fun m => (m.core, m.slot)).Nodup) {m : Member} (hm : m ∈ l) (first : m.first ≤ n) :
    ReleasedAs t n (s.ctxAt m.core m.slot) ((releaseMembers t n scope l s).ctxAt m.core m.slot) := by
  induction l generalizing s with
  | nil => cases hm
  | cons a l ih =>
    obtain ⟨alone, apart'⟩ := List.nodup_cons.mp apart
    rcases List.mem_cons.mp hm with rfl | hm
    · have own := releaseMember_own (scope := scope) (s := s) first ht
      rwa [← (releaseMembers_frame t n scope l (releaseMember t n scope m s)).2.2 m.core m.slot alone] at own
    · have other : ¬(m.core = a.core ∧ m.slot = a.slot) := fun same =>
        alone (List.mem_map.mpr ⟨m, hm, Prod.ext same.1 same.2⟩)
      have own := ih (s := releaseMember t n scope a s) apart' hm
      rwa [(releaseMember_frame t n scope a s).2.2 _ _ other] at own

/-- A tag whose oldest completed generation n has been released; rest are the completed ones that stay. -/
def BarTag.afterRelease (n : Nat) (rest : List (Nat × Nat)) (x : BarTag) : BarTag :=
  { x with gen := n + 1, completed := rest, arrivals := fdrop x.arrivals n
           flits := x.flits.filter fun f => f.1 ≠ n % 2 ^ 32
           sent := x.sent.filter fun f => f.1 ≠ n }

theorem exec_barrierRelease {s : State} {g : Tag} {n c due : Nat} {rest : List (Nat × Nat)}
    (oldest : (s.tag g.toNat).completed = (n, c) :: rest) (at_ : releaseDue s (s.tag g.toNat) = some due)
    (reached : due ≤ s.cycle.toNat) :
    exec (.barrierRelease g) s = .next
      ((releaseMembers g.toNat n (tagScope (s.tag g.toNat).scope) (s.tag g.toNat).members s).modTag g.toNat
        (·.afterRelease n rest)) := by
  have run : exec (.barrierRelease g) s = execBarrierRelease g s := rfl
  rw [run, execBarrierRelease]
  simp only [oldest, at_, if_neg (Nat.not_lt.mpr reached)]
  rfl

theorem exec_barrierGenComplete {s : State} {g : Tag} (full : (s.tag g.toNat).completes = true) :
    exec (.barrierGenComplete g) s = .next (s.modTag g.toNat fun x =>
      { x with done := x.done + 1, completed := x.completed ++ [(x.done, s.cycle.toNat)] }) := by
  have run : exec (.barrierGenComplete g) s = execBarrierGenComplete g s := rfl
  rw [run, execBarrierGenComplete, if_pos full]

/-! ### Flits (R109) -/

theorem exec_barrierFlitSend {s : State} {g : Tag} {pkg : BitVec 10} {n : Nat}
    (owed : flitOwed s (s.tag g.toNat) pkg.toNat = some n) :
    ∃ p, exec (.barrierFlitSend g pkg) s =
      .next (toPort (s.modTag g.toNat fun x => { x with sent := x.sent ++ [(n, pkg.toNat)] }) 0 pkg.toNat p) := by
  have run : exec (.barrierFlitSend g pkg) s = execBarrierFlitSend g pkg s := rfl
  rw [run, execBarrierFlitSend, owed]
  exact ⟨_, rfl⟩

/-- The fields of a barrier flit (Table 4-8). -/
theorem flit_fields {g : Tag} {n p : Nat} (hn : n < 2 ^ 32) (hp : p < 1024) :
    let f := BitVec.ofNat 64 (4 * 2 ^ 60 + g.toNat * 2 ^ 57 + n * 2 ^ 22 + p * 2 ^ 12)
    f.extractLsb' 60 4 = 4#4 ∧ (f.extractLsb' 57 3).toNat = g.toNat ∧ (f.extractLsb' 22 32).toNat = n ∧
      (f.extractLsb' 12 10).toNat = p := by
  have hg := g.isLt
  generalize g.toNat = t at hg ⊢
  intro f
  have value : f.toNat = 4 * 2 ^ 60 + t * 2 ^ 57 + n * 2 ^ 22 + p * 2 ^ 12 := by
    rw [BitVec.toNat_ofNat]
    omega
  refine ⟨BitVec.eq_of_toNat_eq ?_, ?_, ?_, ?_⟩ <;> rw [BitVec.extractLsb'_toNat, value, Nat.shiftRight_eq_div_pow]
  · rw [BitVec.toNat_ofNat]; omega
  all_goals omega

theorem exec_barrierFlitArrival {s : State} {g : Tag} {n p : Nat} (hn : n < 2 ^ 32) (hp : p < 1024)
    (gen : n = (s.tag g.toNat).gen % 2 ^ 32 ∨ n = ((s.tag g.toNat).gen + 1) % 2 ^ 32)
    (named : (s.tag g.toNat).pkgmap.getLsbD p = true)
    (new : (s.tag g.toNat).flits.any (fun h => h.1 == n && h.2.1 == p) = false) :
    exec (.barrierFlitArrival (BitVec.ofNat 64 (4 * 2 ^ 60 + g.toNat * 2 ^ 57 + n * 2 ^ 22 + p * 2 ^ 12))) s =
      .next (s.modTag g.toNat fun x => { x with flits := x.flits ++ [(n, p, s.cycle.toNat)] }) := by
  obtain ⟨kind, tag, number, pkg⟩ := flit_fields (g := g) hn hp
  generalize BitVec.ofNat 64 (4 * 2 ^ 60 + g.toNat * 2 ^ 57 + n * 2 ^ 22 + p * 2 ^ 12) = f at *
  have run : exec (.barrierFlitArrival f) s = .next (barrierArrive f s) := rfl
  have kept : ((decide (n = (s.tag g.toNat).gen % 2 ^ 32) || decide (n = ((s.tag g.toNat).gen + 1) % 2 ^ 32)) &&
      (s.tag g.toNat).pkgmap.getLsbD p && !(s.tag g.toNat).flits.any fun h => h.1 == n && h.2.1 == p) = true := by
    simpa [named, new] using gen
  rw [run, barrierArrive]
  simp only [kind, tag, number, pkg, kept, ne_eq, not_true_eq_false, if_false, if_true]

/-! ### The tag registers (R105) -/

theorem tagWrite_empty {s : State} {t : Nat} {v : Word} (empty : (s.tag t).members = [])
    (legal : (v.extractLsb' 60 3 : BitVec 3).toNat ∈ [1, 2, 3, 4])
    (domain : v.getLsbD 59 = true → v.extractLsb' 60 3 = 4#3) :
    tagWrite s t 0 v = s.modTag t fun x =>
      { x with enable := v.getLsbD 63, scope := v.extractLsb' 60 3, xdom := v.getLsbD 59, realm := v.setWidth 12 } := by
  have scope0 : (v.extractLsb' 60 3 : BitVec 3) ≠ 0 := fun z => by simp [z] at legal
  have scope4 : ¬4 < (v.extractLsb' 60 3 : BitVec 3).toNat := by
    simp only [List.mem_cons, List.not_mem_nil, or_false] at legal
    omega
  have scopeX : ¬(v.getLsbD 59 = true ∧ (v.extractLsb' 60 3 : BitVec 3) ≠ 4) := fun x => x.2 (domain x.1)
  rw [tagWrite, if_pos rfl, if_neg]
  simp only [Bool.or_eq_true, Bool.and_eq_true, decide_eq_true_eq, empty, List.isEmpty_nil, Bool.not_true,
    Bool.false_eq_true, scope0, scope4, scopeX, or_self, not_false_eq_true]

theorem tagWrite_members {s : State} {t : Nat} (members : (s.tag t).members ≠ []) (v : Word) : tagWrite s t 0 v = s := by
  have refused : (!(s.tag t).members.isEmpty) = true := by simpa using members
  rw [tagWrite, if_pos rfl, refused]
  rfl

/-- Settles O30: every form of Table 4-9 and every step of the tree by its own lemma. -/
theorem barriers : Obligations.Barriers := by
  unfold Obligations.Barriers
  refine ⟨fun s g => ⟨fun enable realm => ⟨fun inside => ?_, join_sends enable realm⟩, fun may fresh => ⟨fun done =>
    ⟨leave_leaves may done, fun few => ⟨?_, ?_⟩, fun two i hi => ?_⟩, fun zero => ?_, fun pending => ?_⟩,
    fun takes off i hi => ?_⟩, fun s g => ⟨fun o one at_ owes idle => ?_, fun full => ?_,
    fun n c rest due oldest at_ reached apart => ?_, fun pkg n owed => ?_, fun n p hn hp gen named new => ?_,
    fun v => ⟨fun empty legal domain => ?_, fun members => ?_⟩⟩⟩
  · exact endsAs_advance ((exec_join enable realm).trans (if_pos inside))
  · obtain ⟨t, run, arrives, asleep⟩ := bar_arrives may fresh done few
    exact ⟨t, run, ⟨arrives.treeOps, arrives.barArr, arrives.regs, arrives.mem⟩, asleep.pc, asleep.awaits, asleep.wait⟩
  · obtain ⟨t, run, arrives, completes⟩ := bararr_arrives may fresh done few
    exact ⟨t, run, ⟨arrives.treeOps, arrives.barArr, arrives.regs, arrives.mem⟩, completes⟩
  · obtain ⟨t, run, asleep, frame⟩ := barFamily_full may fresh done two hi
    exact ⟨t, run, ⟨asleep.pc, asleep.awaits, asleep.wait⟩, frame⟩
  · exact endsAs_advance ((exec_bwait may fresh).trans (if_pos zero))
  · obtain ⟨t, run, sleeps⟩ := bwait_sleeps may fresh pending
    exact ⟨t, run, ⟨sleeps.asleep.pc, sleeps.asleep.awaits, sleeps.asleep.wait⟩, sleeps.regs, sleeps.treeOps⟩
  · exact ⟨_, exec_disabledTag off hi, (TrapsFrom.refl takes).trapEntered .barrier _ _⟩
  · obtain ⟨treeOps, tag, mem⟩ := opApplied_fields o s
    have ctx := ctxAt_opApplied o s
    rw [at_] at tag
    refine ⟨_, exec_barrierTreeApply_one one owes idle, ?_, tag, mem, fun join joining asks => ?_, fun other => ?_⟩
    · rw [treeOps, one, List.erase_cons_head]
    · rw [ctx, if_pos join]; exact afterOp_joined at_ joining asks
    · rw [ctx]
      split
      · next join => exact afterOp_other (other.resolve_left fun no => no join)
      · rfl
  · exact ⟨_, exec_barrierGenComplete full, rfl, tag_modTag_same ..⟩
  · obtain ⟨-, mem, -⟩ := releaseMembers_frame g.toNat n (tagScope (s.tag g.toNat).scope) (s.tag g.toNat).members s
    refine ⟨_, exec_barrierRelease oldest at_ reached, ?_, ?_, mem, fun m hm first => ?_⟩
    · rw [tag_modTag_same]; rfl
    · rw [tag_modTag_same]; rfl
    · have own := releaseMembers_own (scope := tagScope (s.tag g.toNat).scope) (s := s) g.isLt apart hm first
      exact ⟨own.arr, own.regs, fun w wait kind val => ⟨own.goesOn w wait kind val, own.actsAnew w wait kind val⟩⟩
  · obtain ⟨p, run⟩ := exec_barrierFlitSend owed
    have sent := tag_modTag_same s g.toNat fun x => { x with sent := x.sent ++ [(n, pkg.toNat)] }
    exact ⟨_, run, (congrArg BarTag.sent sent :), rfl, rfl⟩
  · exact ⟨_, exec_barrierFlitArrival hn hp gen named new, rfl, tag_modTag_same ..⟩
  · exact ⟨_, congrArg Host.Outcome.next (tagWrite_empty empty legal domain), rfl, tag_modTag_same ..⟩
  · exact congrArg Host.Outcome.next (tagWrite_members members v)

end Sys2Proof.Machine
end
